-- ==== Sys2Proof/Word.lean ====
section
/-! DEFINITION. The plain word types of the Flitritar (00 R4, 02 R48, 04 R94). -/

namespace Sys2Proof

abbrev Byte := BitVec 8
/-- A 32-bit register value (R48). -/
abbrev Word := BitVec 32
abbrev DWord := BitVec 64
/-- One bit per lane of a wave of at most 96 lanes (R8). -/
abbrev Mask := BitVec 96
/-- A program counter: line address in [47:6], slot in [2:0] (R94). -/
abbrev Pc := BitVec 48
/-- One instruction's 96 bits (R93). -/
abbrev InstrWord := BitVec 96

end Sys2Proof
end

