-- ==== Sys2Proof/Syntax.lean ====
section
/-! DEFINITION. The fields of the five instruction formats (04 R98-R106) and `Instr`, one constructor per row of
spec/opcode_table.json: 152 instructions, each with its header and its format's fields as the word holds them (so that
every decode trap of R108 can be told from the term), and 120 events of the device's other agents (spec/95). -/

namespace Sys2Proof

/-- Header fields of bits [86:66] (R98); the opcode is the constructor. -/
structure Hdr where
  stall : BitVec 4
  yld : Bool
  gp : BitVec 7
  gn : Bool
  dst : BitVec 8
  deriving DecidableEq, Repr

/-- A source field: register number, permutation kind, parameter k (R58, R101). -/
structure Src where
  reg : BitVec 8
  kind : BitVec 3
  k : BitVec 5
  deriving DecidableEq, Repr

/-- MOD (R103). `sa`, `sb`, `sc` are SCL bits 8, 7, 6. -/
structure Mod where
  ty : BitVec 5
  rnd : BitVec 3
  sat : Bool
  sa : Bool
  sb : Bool
  sc : Bool
  ds : Bool
  sub : BitVec 5
  deriving DecidableEq, Repr

/-- MODM (R104). -/
structure ModM where
  ty : BitVec 5
  scope : BitVec 3
  order : BitVec 2
  space : BitVec 2
  sbase : Bool
  sub : BitVec 5
  deriving DecidableEq, Repr

/-- MODX (R106). -/
structure ModX where
  ty : BitVec 5
  tile : BitVec 4
  sa : Bool
  sb : Bool
  sc : Bool
  aux : BitVec 3
  sub3 : BitVec 3
  deriving DecidableEq, Repr

structure FmtA where
  sa : Src
  sb : Src
  sc : Src
  m : Mod
  deriving DecidableEq, Repr

structure FmtI where
  sa : Src
  imm : Word
  m : Mod
  deriving DecidableEq, Repr

structure FmtM where
  sa : Src
  sb : Src
  ofs : BitVec 16
  m : ModM
  deriving DecidableEq, Repr

/-- Format B, direct variant (R99, R100). -/
structure FmtB where
  lofs : BitVec 24
  tslot : BitVec 3
  jofs : BitVec 16
  jslot : BitVec 3
  rsv : BitVec 2
  m : Mod
  deriving DecidableEq, Repr

/-- Format B, indirect variant: SA in [65:50], [49:42] and TSLOT reserved (R99). -/
structure FmtBi where
  sa : Src
  rsvHi : BitVec 8
  rsvT : BitVec 3
  jofs : BitVec 16
  jslot : BitVec 3
  rsv : BitVec 2
  m : Mod
  deriving DecidableEq, Repr

structure FmtX where
  sa : Src
  sb : Src
  sc : Src
  m : ModX
  deriving DecidableEq, Repr

/-- The place of a wave: global core (256 + n for Benuri core n, R420), slot, wave place. -/
structure WaveKey where
  core : Nat
  slot : Nat
  place : Nat
  deriving DecidableEq, Repr

/-- Who writes a device register (R335, R369, R412); a host names a function of its port, and addresses that function's BAR 0. -/
inductive RegAgent where
  | supervisor (core : Nat)
  | root
  | host (port fn : Nat)
  deriving DecidableEq, Repr

/-- A host's access to device memory (R402): `atomic` carries the operand and the FetchAdd flag (false: Swap). The `own` forms
are its accesses to its own memory, which the device may hold in a region. -/
inductive HostOp where
  | read (addr len : Nat)
  | write (addr : Nat) (data : List Byte)
  | atomic (addr len : Nat) (add : Bool) (operand : Nat)
  | ownRead (addr len : Nat)
  | ownWrite (addr : Nat) (data : List Byte)
  | ownAtomic (addr len : Nat) (add : Bool) (operand : Nat)
  deriving DecidableEq, Repr

/-- What a Translation Completion reports (R390); `granted` names the host frame, the size of the range as 2^`bits` pages, and the
write permission. -/
inductive AtsResult where
  | granted (frame bits : Nat) (writable : Bool)
  | notPresent
  | unsupported
  | abort
  deriving DecidableEq, Repr

/-- A record for the error ring (R395). -/
structure ErrRecord where
  kind : Nat
  die : Nat
  unit : Nat
  index : Nat
  bank : Nat
  paddr : Nat
  synd : Nat
  ctx : Nat
  count : Nat
  egtb : Nat
  deriving DecidableEq, Repr

/-- A fabric flit as it stands on the wire (R406). -/
structure Flit where
  tag : BitVec 128
  payload : List Byte
  rsvA : BitVec 48
  lseq : BitVec 16
  ty : BitVec 4
  dst : BitVec 4
  src : BitVec 4
  rsvB : BitVec 3
  ks : Bool
  ic : BitVec 48
  deriving DecidableEq, Repr

/-- A time flit, and the offset that the device measures by it (R410). -/
structure TimeFlit where
  flit : Flit
  offset : Int
  deriving DecidableEq, Repr

/-- What an operation other than a plain store does at its home (R242, R243, R251, R271): an atomic of a code and type, a compare and
swap, a push, an update of a transaction barrier. -/
inductive PeerOp where
  | atomic (op ty : Nat)
  | cas
  | push
  | barrier (op : Nat)
  deriving DecidableEq, Repr, Inhabited

/-- What the contents of a delivered flit ask of this device, or tell it (R409). A peer's block, of the secure or the other world (R416),
loads bytes under a lease code, for a copy that it keeps or not (R202, R211), stores, updates, or ships a request to a home here; or a
peer answers the flit of a number with bytes, or with the status and results of a section. -/
inductive PeerMsg where
  | load (secure keep : Bool) (pa len code : Nat)
  | store (secure : Bool) (pa : Nat) (data : List Byte)
  | update (secure : Bool) (op : PeerOp) (pa len data cmp : Nat)
  | ship (secure : Bool) (home entry lock sender : Nat) (args : List Word)
  | answer (seq : BitVec 32) (data : List Byte)
  | ended (seq : BitVec 32) (status : Nat) (results : List Word)
  | other
  deriving DecidableEq, Repr, Inhabited

/-- What an uncorrectable data error strikes (R392). -/
inductive PoisonLoc where
  | memory (sector : Nat)
  | slice (w : WaveKey) (quad : Nat)
  | waveState (w : WaveKey)
  | scratchpad (core sector : Nat)
  | engineTile (core tile : Nat)
  | engineBuffer (core buf : Nat)
  deriving DecidableEq, Repr

/-- What bring-up gives the fabric: the rank, the number of devices (R405) and the connections that the spill area holds (R409); and
the fabric and host ports whose links the configuration has (R418). -/
structure FabricSetup where
  rank : Nat
  clique : Nat
  spill : Nat
  links : List Nat
  hosts : List Nat
  deriving DecidableEq, Repr

/-- How the work of a bring-up state ended (R418). `mode` is used by state 1, `ddr` (GiB per base die) by state 3, `failed` (cores
out of service) by state 5, `fab` by the states 2 to 5. -/
inductive BootOutcome where
  | ok (mode : Nat) (ddr : List Nat) (failed : List Nat) (fab : FabricSetup)
  | fail (code : Nat)
  deriving DecidableEq, Repr

/-- A firmware image offered to the root core (R417). -/
structure BootImage where
  body : List Byte
  ecdsa : List Byte
  lms : List Byte
  version : Nat
  deriving DecidableEq, Repr

/-- One constructor per row of spec/opcode_table.json. -/
inductive Instr where
  /-- NOP (R110). -/
  | nop (h : Hdr) (f : FmtA)
  /-- EXIT (R135). -/
  | exit (h : Hdr) (f : FmtA)
  /-- BRA (R132). -/
  | bra (h : Hdr) (f : FmtB)
  /-- BRX (R132). -/
  | brx (h : Hdr) (f : FmtBi)
  /-- CALL (R132). -/
  | call (h : Hdr) (f : FmtB)
  /-- CALLX (R132). -/
  | callx (h : Hdr) (f : FmtBi)
  /-- RET (R133). -/
  | ret (h : Hdr) (f : FmtA)
  /-- JOIN (R136). -/
  | join (h : Hdr) (f : FmtA)
  /-- REGANG (R137). -/
  | regang (h : Hdr) (f : FmtA)
  /-- LOOP (R138). -/
  | loop (h : Hdr) (f : FmtI)
  /-- LBRK (R140). -/
  | lbrk (h : Hdr) (f : FmtA)
  /-- YIELD (R142). -/
  | yieldV (h : Hdr) (f : FmtA)
  /-- SLEEP (R143). -/
  | sleep (h : Hdr) (f : FmtI)
  /-- TRAP (R144). -/
  | trap (h : Hdr) (f : FmtI)
  /-- BAR (R145). -/
  | bar (h : Hdr) (f : FmtA)
  /-- BARC (R145). -/
  | barc (h : Hdr) (f : FmtA)
  /-- BARG (R145). -/
  | barg (h : Hdr) (f : FmtA)
  /-- LAUNCH (R149). -/
  | launch (h : Hdr) (f : FmtA)
  /-- LAUNCH_WAIT (R151). -/
  | launchWait (h : Hdr) (f : FmtA)
  /-- TKNEXT (R152). -/
  | tknext (h : Hdr) (f : FmtA)
  /-- MOV (R153). -/
  | mov (h : Hdr) (f : FmtA)
  /-- MOVI (R153). -/
  | movi (h : Hdr) (f : FmtI)
  /-- MOVSP (R153). -/
  | movsp (h : Hdr) (f : FmtA)
  /-- IADD (R154). -/
  | iadd (h : Hdr) (f : FmtA)
  /-- ISUB (R154). -/
  | isub (h : Hdr) (f : FmtA)
  /-- IMUL (R154). -/
  | imul (h : Hdr) (f : FmtA)
  /-- IMULH (R154). -/
  | imulh (h : Hdr) (f : FmtA)
  /-- IMAD (R154). -/
  | imad (h : Hdr) (f : FmtA)
  /-- IDIV (R155). -/
  | idiv (h : Hdr) (f : FmtA)
  /-- IREM (R155). -/
  | irem (h : Hdr) (f : FmtA)
  /-- IMIN (R154). -/
  | imin (h : Hdr) (f : FmtA)
  /-- IMAX (R154). -/
  | imax (h : Hdr) (f : FmtA)
  /-- IABS (R154). -/
  | iabs (h : Hdr) (f : FmtA)
  /-- AND (R156). -/
  | and (h : Hdr) (f : FmtA)
  /-- OR (R156). -/
  | or (h : Hdr) (f : FmtA)
  /-- XOR (R156). -/
  | xor (h : Hdr) (f : FmtA)
  /-- NOT (R156). -/
  | not (h : Hdr) (f : FmtA)
  /-- SHL (R156). -/
  | shl (h : Hdr) (f : FmtA)
  /-- SHR (R156). -/
  | shr (h : Hdr) (f : FmtA)
  /-- SAR (R156). -/
  | sar (h : Hdr) (f : FmtA)
  /-- FSHL (R156). -/
  | fshl (h : Hdr) (f : FmtA)
  /-- CLZ (R156). -/
  | clz (h : Hdr) (f : FmtA)
  /-- POPC (R156). -/
  | popc (h : Hdr) (f : FmtA)
  /-- BREV (R156). -/
  | brev (h : Hdr) (f : FmtA)
  /-- BFE (R157). -/
  | bfe (h : Hdr) (f : FmtA)
  /-- BFI (R157). -/
  | bfi (h : Hdr) (f : FmtA)
  /-- ICMP (R158). -/
  | icmp (h : Hdr) (f : FmtA)
  /-- ISEL (R159). -/
  | isel (h : Hdr) (f : FmtA)
  /-- IADD64 (R160). -/
  | iadd64 (h : Hdr) (f : FmtA)
  /-- ISUB64 (R160). -/
  | isub64 (h : Hdr) (f : FmtA)
  /-- SHL64 (R160). -/
  | shl64 (h : Hdr) (f : FmtA)
  /-- SHR64 (R160). -/
  | shr64 (h : Hdr) (f : FmtA)
  /-- SAR64 (R160). -/
  | sar64 (h : Hdr) (f : FmtA)
  /-- ICMP64 (R158). -/
  | icmp64 (h : Hdr) (f : FmtA)
  /-- IMUL64 (R160). -/
  | imul64 (h : Hdr) (f : FmtA)
  /-- IMAD64 (R160). -/
  | imad64 (h : Hdr) (f : FmtA)
  /-- LEA (R161). -/
  | lea (h : Hdr) (f : FmtA)
  /-- PLOG (R162). -/
  | plog (h : Hdr) (f : FmtA)
  /-- PMOV (R163). -/
  | pmov (h : Hdr) (f : FmtA)
  /-- VOTE (R164). -/
  | vote (h : Hdr) (f : FmtA)
  /-- MATCH (R165). -/
  | matchV (h : Hdr) (f : FmtA)
  /-- SHFL (R166). -/
  | shfl (h : Hdr) (f : FmtA)
  /-- IRED (R167). -/
  | ired (h : Hdr) (f : FmtA)
  /-- ISCAN (R167). -/
  | iscan (h : Hdr) (f : FmtA)
  /-- FADD (R173). -/
  | fadd (h : Hdr) (f : FmtA)
  /-- FSUB (R173). -/
  | fsub (h : Hdr) (f : FmtA)
  /-- FMUL (R173). -/
  | fmul (h : Hdr) (f : FmtA)
  /-- FFMA (R173). -/
  | ffma (h : Hdr) (f : FmtA)
  /-- FMIN (R174). -/
  | fmin (h : Hdr) (f : FmtA)
  /-- FMAX (R174). -/
  | fmax (h : Hdr) (f : FmtA)
  /-- FCMP (R175). -/
  | fcmp (h : Hdr) (f : FmtA)
  /-- FCLASS (R176). -/
  | fclass (h : Hdr) (f : FmtA)
  /-- FDIV (R178). -/
  | fdiv (h : Hdr) (f : FmtA)
  /-- FSQRT (R178). -/
  | fsqrt (h : Hdr) (f : FmtA)
  /-- FRCP (R179). -/
  | frcp (h : Hdr) (f : FmtA)
  /-- FRSQ (R179). -/
  | frsq (h : Hdr) (f : FmtA)
  /-- FEXP2 (R179). -/
  | fexp2 (h : Hdr) (f : FmtA)
  /-- FLOG2 (R179). -/
  | flog2 (h : Hdr) (f : FmtA)
  /-- FSIN (R179). -/
  | fsin (h : Hdr) (f : FmtA)
  /-- FCOS (R179). -/
  | fcos (h : Hdr) (f : FmtA)
  /-- FTANH (R179). -/
  | ftanh (h : Hdr) (f : FmtA)
  /-- FRND (R177). -/
  | frnd (h : Hdr) (f : FmtA)
  /-- CVT (R181). -/
  | cvt (h : Hdr) (f : FmtA)
  /-- PACK (R182). -/
  | pack (h : Hdr) (f : FmtA)
  /-- UNPK (R183). -/
  | unpk (h : Hdr) (f : FmtA)
  /-- FRED (R186). -/
  | fred (h : Hdr) (f : FmtA)
  /-- FSCAN (R186). -/
  | fscan (h : Hdr) (f : FmtA)
  /-- FDOT2 (R187). -/
  | fdot2 (h : Hdr) (f : FmtA)
  /-- IDOT4 (R188). -/
  | idot4 (h : Hdr) (f : FmtA)
  /-- AMAXRD (R184). -/
  | amaxrd (h : Hdr) (f : FmtA)
  /-- AMAXCLR (R185). -/
  | amaxclr (h : Hdr) (f : FmtA)
  /-- MXLD (R192). -/
  | mxld (h : Hdr) (f : FmtM)
  /-- MXST (R192). -/
  | mxst (h : Hdr) (f : FmtM)
  /-- MXMOV (R193). -/
  | mxmov (h : Hdr) (f : FmtX)
  /-- MXTRN (R194). -/
  | mxtrn (h : Hdr) (f : FmtX)
  /-- MXMUL (R195). -/
  | mxmul (h : Hdr) (f : FmtX)
  /-- MXMAD (R195). -/
  | mxmad (h : Hdr) (f : FmtX)
  /-- MXCHOL (R196). -/
  | mxchol (h : Hdr) (f : FmtX)
  /-- MXLU (R197). -/
  | mxlu (h : Hdr) (f : FmtX)
  /-- MXSOLV (R198). -/
  | mxsolv (h : Hdr) (f : FmtX)
  /-- MXINV (R199). -/
  | mxinv (h : Hdr) (f : FmtX)
  /-- LD (R238). -/
  | ld (h : Hdr) (f : FmtM)
  /-- ST (R238). -/
  | st (h : Hdr) (f : FmtM)
  /-- LDS (R239). -/
  | lds (h : Hdr) (f : FmtM)
  /-- STS (R239). -/
  | sts (h : Hdr) (f : FmtM)
  /-- ATOM (R242). -/
  | atom (h : Hdr) (f : FmtM)
  /-- CAS (R243). -/
  | cas (h : Hdr) (f : FmtM)
  /-- CAS128 (R243). -/
  | cas128 (h : Hdr) (f : FmtM)
  /-- RED (R242). -/
  | red (h : Hdr) (f : FmtM)
  /-- FENCE (R245). -/
  | fence (h : Hdr) (f : FmtM)
  /-- FENCET (R229). -/
  | fencet (h : Hdr) (f : FmtM)
  /-- DRAINST (R246). -/
  | drainst (h : Hdr) (f : FmtA)
  /-- PRF (R240). -/
  | prf (h : Hdr) (f : FmtM)
  /-- FLUSH (R241). -/
  | flush (h : Hdr) (f : FmtM)
  /-- QINIT (R248). -/
  | qinit (h : Hdr) (f : FmtM)
  /-- QBIND (R249). -/
  | qbind (h : Hdr) (f : FmtM)
  /-- QTRY (R251). -/
  | qtry (h : Hdr) (f : FmtA)
  /-- COMBCFG (R252). -/
  | combcfg (h : Hdr) (f : FmtI)
  /-- SHIP (R253). -/
  | ship (h : Hdr) (f : FmtX)
  /-- SHIPT (R253). -/
  | shipt (h : Hdr) (f : FmtX)
  /-- SRET (R257). -/
  | sret (h : Hdr) (f : FmtA)
  /-- COPY (R261). -/
  | copy (h : Hdr) (f : FmtX)
  /-- BATCH (R262). -/
  | batch (h : Hdr) (f : FmtA)
  /-- WAITB (R263). -/
  | waitb (h : Hdr) (f : FmtI)
  /-- CHAIN (R264). -/
  | chain (h : Hdr) (f : FmtX)
  /-- CHSTAT (R269). -/
  | chstat (h : Hdr) (f : FmtA)
  /-- TBINIT (R271). -/
  | tbinit (h : Hdr) (f : FmtM)
  /-- TBARR (R271). -/
  | tbarr (h : Hdr) (f : FmtM)
  /-- TBEXP (R271). -/
  | tbexp (h : Hdr) (f : FmtM)
  /-- TBWAIT (R271). -/
  | tbwait (h : Hdr) (f : FmtM)
  /-- GATHER (R275). -/
  | gather (h : Hdr) (f : FmtX)
  /-- SCATTER (R275). -/
  | scatter (h : Hdr) (f : FmtX)
  /-- TBLSTAT (R278). -/
  | tblstat (h : Hdr) (f : FmtA)
  /-- IORD (R279). -/
  | iord (h : Hdr) (f : FmtX)
  /-- IOWR (R279). -/
  | iowr (h : Hdr) (f : FmtX)
  /-- IOPOST (R279). -/
  | iopost (h : Hdr) (f : FmtX)
  /-- BTAKE (R292). -/
  | btake (h : Hdr) (f : FmtA)
  /-- BPASS (R293). -/
  | bpass (h : Hdr) (f : FmtA)
  /-- BLOAD (R297). -/
  | bload (h : Hdr) (f : FmtX)
  /-- BSWAP (R299). -/
  | bswap (h : Hdr) (f : FmtX)
  /-- MMA (R301). -/
  | mma (h : Hdr) (f : FmtX)
  /-- ACCZ (R312). -/
  | accz (h : Hdr) (f : FmtX)
  /-- ACCRD (R313). -/
  | accrd (h : Hdr) (f : FmtX)
  /-- ACCWR (R313). -/
  | accwr (h : Hdr) (f : FmtX)
  /-- ACCCVT (R314). -/
  | acccvt (h : Hdr) (f : FmtX)
  /-- ACCST (R315). -/
  | accst (h : Hdr) (f : FmtX)
  /-- ACCWAIT (R316). -/
  | accwait (h : Hdr) (f : FmtX)
  /-- MMACFG (R317). -/
  | mmacfg (h : Hdr) (f : FmtI)
  /-- ECALL (R168). -/
  | ecall (h : Hdr) (f : FmtI)
  /-- BKPT (R168). -/
  | bkpt (h : Hdr) (f : FmtI)
  /-- SETWC (R169). -/
  | setwc (h : Hdr) (f : FmtA)
  /-- RDCNT (R170). -/
  | rdcnt (h : Hdr) (f : FmtA)
  /-- SCOREBOARD_WRITEBACK (R111). -/
  | scoreboardWriteback (w : WaveKey) (n : Nat)
  /-- QUEUE_WAIT_WAKE (R49). -/
  | queueWaitWake (w : WaveKey) (q : Nat)
  /-- SLEEP_WAKE (R143). -/
  | sleepWake (w : WaveKey) (q : Nat)
  /-- LOAD_RETURN (R210). -/
  | loadReturn (id el : Nat)
  /-- DIRTY_SECTOR_TRANSMIT (R205). -/
  | dirtySectorTransmit (id el : Nat)
  /-- STORE_CHECK (R379). -/
  | storeCheck (id : Nat)
  /-- STORE_ARRIVE (R212). -/
  | storeArrive (id el : Nat)
  /-- STORE_APPLY (R212). -/
  | storeApply (id el : Nat)
  /-- ATOMIC_APPLY (R213). -/
  | atomicApply (id el : Nat)
  /-- GWCT_RETURN (R215). -/
  | gwctReturn (id el : Nat)
  /-- FENCE_COMPLETE (R219). -/
  | fenceComplete (w : WaveKey) (q : Nat)
  /-- FENCET_COMPLETE (R229). -/
  | fencetComplete (w : WaveKey) (q : Nat)
  /-- DRAINST_COMPLETE (R246). -/
  | drainstComplete (w : WaveKey) (q : Nat)
  /-- COMB_MODE_CHANGE_DONE (R42). -/
  | combModeChangeDone (core : Nat) (bank : Nat)
  /-- BLOAD_RUN (R298). -/
  | bloadRun (core : Nat)
  /-- BSWAP_RUN (R299). -/
  | bswapRun (core : Nat)
  /-- MMA_RUN (R303). -/
  | mmaRun (core : Nat)
  /-- MMA_GRANULE_COMMIT (R306). -/
  | mmaGranuleCommit (core : Nat)
  /-- ACCZ_RUN (R312). -/
  | acczRun (core : Nat)
  /-- ACCWR_RUN (R313). -/
  | accwrRun (core : Nat)
  /-- ACCST_RUN (R315). -/
  | accstRun (core : Nat)
  /-- BATON_BUDGET_EXPIRE (R294). -/
  | batonBudgetExpire (core : Nat)
  /-- CHAIN_RECORD_READ (R266). -/
  | chainRecordRead (core : Nat) (ch : Nat)
  /-- COPY_SECTOR_LAND (R266). -/
  | copySectorLand (core : Nat) (ch id sector : Nat)
  /-- COPY_RECORD_COMPLETE (R266). -/
  | copyRecordComplete (core : Nat) (ch id : Nat)
  /-- REDUCTION_CHUNK_COMMIT (R267). -/
  | reductionChunkCommit (core : Nat) (ch id chunk : Nat)
  /-- TABLE_OP_COMPLETE (R276). -/
  | tableOpComplete (core : Nat) (id : Nat)
  /-- SHIP_REQUEST_ARRIVE (R255). -/
  | shipRequestArrive (id lane : Nat)
  /-- SECTION_START (R255). -/
  | sectionStart (benuri : Nat)
  /-- SECTION_BUDGET_EXPIRE (R260). -/
  | sectionBudgetExpire (benuri : Nat)
  /-- SHIP_RESULTS_RETURN (R258). -/
  | shipResultsReturn (id : Nat)
  /-- SHIPT_TOKEN_PUSH (R259). -/
  | shiptTokenPush (benuri : Nat)
  /-- IO_REQUEST_COMPLETE (R281). -/
  | ioRequestComplete (id : Nat) (status : BitVec 3) (data : List Byte)
  /-- IO_MESSAGE_ARRIVE (R282). -/
  | ioMessageArrive (part conn : Nat) (data : List Byte)
  /-- IO_RECORD_PUSH (R281). -/
  | ioRecordPush (part : Nat)
  /-- IO_PLACEMENT_TIMEOUT (R282): of a request, or of a posted buffer. -/
  | ioPlacementTimeout (id : Nat) (posted : Bool)
  /-- CONNECTION_ERROR (R414). -/
  | connectionError (part conn : Nat)
  /-- SQDB_WRITE (R341). -/
  | sqdbWrite (port part queue : Nat) (tail : Word)
  /-- SQ_ENABLE (R342). -/
  | sqEnable (part queue : Nat)
  /-- SQ_FETCH (R343). -/
  | sqFetch (part queue : Nat)
  /-- GRID_ADMIT (R348). -/
  | gridAdmit (part : Nat)
  /-- TEAM_ADMIT (R347). -/
  | teamAdmit (part gid core : Nat)
  /-- RANGE_SPLIT (R350). -/
  | rangeSplit (part gid core : Nat)
  /-- TEAM_END (R37). -/
  | teamEnd (gid team : Nat)
  /-- TEAM_YIELD (R33). -/
  | teamYield (gid team : Nat)
  /-- TEAM_RESUME (R34). -/
  | teamResume (gid team core : Nat)
  /-- WAVE_PROMOTE (R353). -/
  | wavePromote (w : WaveKey)
  /-- STARVATION (R361). -/
  | starvation (w : WaveKey)
  /-- SLICE_EXPIRE (R357). -/
  | sliceExpire (pair : Nat)
  /-- PERIOD_START (R356). -/
  | periodStart (part entry : Nat)
  /-- BUDGET_EXHAUST (R356). -/
  | budgetExhaust (part entry : Nat)
  /-- PRCTL_PREEMPT (R367). -/
  | prctlPreempt (part : Nat) (value : DWord)
  /-- PRCTL_TERMINATE (R368). -/
  | prctlTerminate (part : Nat) (value : DWord)
  /-- PREEMPT_TIMEOUT (R367). -/
  | preemptTimeout (part : Nat)
  /-- WAVE_PREEMPT_STOP (R121). -/
  | wavePreemptStop (w : WaveKey)
  /-- PREEMPT_FALLBACK (R121). -/
  | preemptFallback (w : WaveKey)
  /-- TRAP_QUEUE_WRITE (R374). -/
  | trapQueueWrite (core : Nat)
  /-- ASYNC_TRAP_DELIVER (R374). -/
  | asyncTrapDeliver (w : WaveKey)
  /-- WCMD_RESUME (R375). -/
  | wcmdResume (core : Nat)
  /-- WCMD_REPLAY (R375). -/
  | wcmdReplay (core : Nat)
  /-- WCMD_TERMINATE_WAVE (R375). -/
  | wcmdTerminateWave (core : Nat)
  /-- WCMD_TERMINATE_TEAM (R387). -/
  | wcmdTerminateTeam (core : Nat)
  /-- WCMD_TERMINATE_CONTEXT (R375). -/
  | wcmdTerminateContext (core : Nat)
  /-- WCMD_ENGINE_RETRY (R383). -/
  | wcmdEngineRetry (core : Nat) (eng : BitVec 4)
  /-- WCMD_ENGINE_FAIL (R383). -/
  | wcmdEngineFail (core : Nat) (eng : BitVec 4)
  /-- WCMD_ENGINE_RESUME (R310). -/
  | wcmdEngineResume (core : Nat) (eng : BitVec 4)
  /-- WCMD_ENGINE_DISCARD (R310). -/
  | wcmdEngineDiscard (core : Nat) (eng : BitVec 4)
  /-- WCMD_ENGINE_TERMINATE (R310). -/
  | wcmdEngineTerminate (core : Nat) (eng : BitVec 4)
  /-- TCMD_DISCARD_STORES (R419). -/
  | tcmdDiscardStores (core gid team : Nat)
  /-- TCMD_REPLAY_STORES (R419). -/
  | tcmdReplayStores (core gid team : Nat)
  /-- TCMD_TERMINATE_TEAM (R419). -/
  | tcmdTerminateTeam (core gid team : Nat)
  /-- TCMD_TERMINATE_CONTEXT (R419). -/
  | tcmdTerminateContext (core gid team : Nat)
  /-- TCMD_ENGINE_RESUME (R419). -/
  | tcmdEngineResume (core gid team : Nat) (eng : BitVec 4)
  /-- TCMD_ENGINE_DISCARD (R419). -/
  | tcmdEngineDiscard (core gid team : Nat) (eng : BitVec 4)
  /-- TCMD_ENGINE_TERMINATE (R419). -/
  | tcmdEngineTerminate (core gid team : Nat) (eng : BitVec 4)
  /-- PWSTATE_WRITE (R376). -/
  | pwstateWrite (core : Nat) (offset : Nat) (data : List Byte)
  /-- TINV_GO (R386). -/
  | tinvGo (core : Nat) (ctx : Nat)
  /-- TINV_DONE (R386). -/
  | tinvDone (core : Nat)
  /-- REGISTER_WRITE (R335). -/
  | registerWrite (agent : RegAgent) (addr width value : Nat)
  /-- HLRENEW (R398). -/
  | hlrenew (port : Nat) (len : BitVec 16)
  /-- HOST_LEASE_EXPIRE (R398). -/
  | hostLeaseExpire
  /-- REGION_STATE_WRITE (R403). -/
  | regionStateWrite (part n : Nat) (state : BitVec 2)
  /-- REGION_CHANGE_DONE (R403). -/
  | regionChangeDone (part n : Nat)
  /-- HOST_SNOOP (R403). -/
  | hostSnoop (part addr : Nat) (own : Bool)
  /-- SNOOP_RESPONSE (R403). -/
  | snoopResponse (part addr : Nat)
  /-- HOST_ACCESS (R402). -/
  | hostAccess (port fn : Nat) (op : HostOp)
  /-- ATS_TRANSLATION_COMPLETION (R390). -/
  | atsTranslationCompletion (port ctx page : Nat) (res : AtsResult)
  /-- PAGE_REQUEST_GROUP_RESPONSE (R390). -/
  | pageRequestGroupResponse (port ctx page : Nat) (ok : Bool)
  /-- PAGE_RESPONSE_TIMEOUT (R390). -/
  | pageResponseTimeout (port ctx page : Nat)
  /-- ATS_INVALIDATE_REQUEST (R391). -/
  | atsInvalidateRequest (port pasid page pages : Nat)
  /-- INVALIDATE_COMPLETION (R391). -/
  | invalidateCompletion (port : Nat)
  /-- ERROR_RECORD_WRITE (R404). -/
  | errorRecordWrite (port : Nat) (record : ErrRecord)
  /-- ERROR_RING_WAIT_TIMEOUT (R404). -/
  | errorRingWaitTimeout (port : Nat)
  /-- FLIT_TRANSMIT (R411). -/
  | flitTransmit (port : Nat) (ty dst : BitVec 4) (ctx : Nat) (cls : BitVec 2) (payload : List Byte)
  /-- DATA_FLIT_RECEIVE (R407). -/
  | dataFlitReceive (port : Nat) (flit : Flit)
  /-- KEY_MARKER_RECEIVE (R411). -/
  | keyMarkerReceive (port : Nat) (flit : Flit)
  /-- ACKNOWLEDGEMENT_RECEIVE (R407). -/
  | acknowledgementReceive (port : Nat) (flit : Flit)
  /-- NEGATIVE_ACK_RECEIVE (R407). -/
  | negativeAckReceive (port : Nat) (flit : Flit)
  /-- TIME_FLIT_SEND (R410). -/
  | timeFlitSend (port : Nat)
  /-- TIME_FLIT_RECEIVE (R410). -/
  | timeFlitReceive (port : Nat) (flit : TimeFlit)
  /-- TIME_SYNC_LOSS (R410). -/
  | timeSyncLoss
  /-- TIME_RESYNC (R410). -/
  | timeResync
  /-- LINK_DOWN (R408). -/
  | linkDown (port : Nat)
  /-- LINK_UP (R405). -/
  | linkUp (port : Nat)
  /-- TXKEY_WRITE (R412). -/
  | txkeyWrite (port slot : Nat) (value : BitVec 512)
  /-- RXKEY_WRITE (R412). -/
  | rxkeyWrite (port slot : Nat) (value : BitVec 512)
  /-- ECC_CORRECTED_ERROR (R392). -/
  | eccCorrectedError (core : Nat)
  /-- UNCORRECTABLE_DATA_ERROR (R392). -/
  | uncorrectableDataError (loc : PoisonLoc)
  /-- PATROL_SCRUB (R392). -/
  | patrolScrub (addr : Nat)
  /-- MACHINE_CHECK (R394). -/
  | machineCheck (core : Nat) (unit : Nat)
  /-- DEVICE_RESET (R418). -/
  | deviceReset
  /-- BOOT_STATE_ADVANCE (R418). -/
  | bootStateAdvance (outcome : BootOutcome)
  /-- IMAGE_VERIFY (R417). -/
  | imageVerify (image : BootImage)
  /-- RECOVERY_IMAGE (R418). -/
  | recoveryImage (image : BootImage)
  /-- ATTESTATION_REQUEST (R417). -/
  | attestationRequest (challenge : BitVec 256)
  /-- HOST_PORT_LINK_DOWN (R399). -/
  | hostPortLinkDown (port : Nat)
  /-- HOST_PORT_LINK_UP (R398). -/
  | hostPortLinkUp (port : Nat) (cxlCache cxlMem : Bool) (width : BitVec 5)
  /-- LNKCTL_WRITE (R412). -/
  | lnkctlWrite (port : Nat) (value : Word)
  /-- REMOVAL_ACKNOWLEDGEMENT (R232). -/
  | removalAcknowledgement (id el : Nat)
  /-- CORE_SELF_TEST_COMPLETE (R394). -/
  | coreSelfTestComplete (core : Nat) (passed : Bool)
  deriving DecidableEq, Repr

end Sys2Proof
end

