-- ==== Sys2Proof/Config.lean ====
section
/-! DEFINITION. What an implementation fixes and the spec leaves open. Each is a constant without a body: nothing in Lean
can evaluate it, so a statement that holds is one that holds for every value of it (log 1). -/

namespace Sys2Proof.Config

/-- The value a fresh free choice takes; `State.freeCtr` numbers the choices. -/
opaque freeBool : Nat → Bool
opaque freeNat : Nat → Nat
opaque freeByte : Nat → Byte

/-- What a lane reads of a queue port at which it popped nothing (log 130). -/
opaque unpopped : (iss lane : Nat) → Word

/-- What an approximate function (code 0 FRCP .. 6 FTANH) offers for a format and an input; Machine/Approx.lean keeps it
inside the bound of 06 R84. -/
opaque approx : (fn fmt input : Nat) → Nat

/-- Signature checks against the fused key hashes, and the device's own signing (14 R417). -/
opaque ecdsaValid : List Byte → List Byte → Bool
opaque lmsValid : List Byte → List Byte → Bool
opaque ecdsaSign : List Byte → List Byte
opaque lmsSign : List Byte → List Byte
opaque sha384 : List Byte → BitVec 384
/-- The fused least security version, and the device identity and fuse state of a report (14 R417). -/
opaque minVersion : Nat
opaque deviceIdentity : List Byte
/-- The fuse state as an attestation report gives it (14 R417). -/
opaque fuseState : List Byte

/-- AES-256-GCM of a link (14 R406): key, nonce, header, plaintext to ciphertext; key, nonce, header, ciphertext to tag;
and the way back. -/
opaque gcmEncrypt : BitVec 256 → BitVec 96 → BitVec 128 → List Byte → List Byte
opaque gcmDecrypt : BitVec 256 → BitVec 96 → BitVec 128 → List Byte → List Byte
opaque gcmTag : BitVec 256 → BitVec 96 → BitVec 128 → List Byte → BitVec 128

/-- The header of a connection in a data flit's payload (14 R409), whose layout the spec does not give: context, class, sequence
number and contents to payload, and the way back. -/
opaque connFrame : Nat → BitVec 2 → BitVec 32 → List Byte → List Byte
opaque connParse : List Byte → Nat × BitVec 2 × BitVec 32 × List Byte
/-- Whether the completer of a host's PCI Express AtomicOps serialises mixed widths (07 R233). -/
opaque hostSerialises : Bool

/-- The contents of the flits that carry a load, a store, another operation or a shipped request, with the world of the block that sends
it (14 R416: true is secure), and of those that answer them; the arguments are those of `PeerMsg`. The traffic class of this traffic; and
what contents ask of the device that receives them. -/
opaque connLoad : (secure keep : Bool) → (pa len code : Nat) → List Byte
opaque connStore : (secure : Bool) → (pa : Nat) → List Byte → List Byte
opaque connUpdate : (secure : Bool) → PeerOp → (pa len data cmp : Nat) → List Byte
opaque connShip : (secure : Bool) → (home entry lock sender : Nat) → List Word → List Byte
opaque connAnswer : (seq : BitVec 32) → List Byte → List Byte
opaque connEnded : (seq : BitVec 32) → (status : Nat) → List Word → List Byte
opaque connClass : BitVec 2
opaque connMessage : List Byte → PeerMsg

end Sys2Proof.Config
end

