-- ==== Sys2Proof/Machine/SMap.lean ====
section
/-! DEFINITION. Sparse maps over a number: a list of (key, value) pairs, keys strictly rising, no value equal to what an
unlisted key reads as (`d`). Equal maps are equal data. Memory, register files and register blocks are such maps. -/

namespace Sys2Proof.Machine

abbrev SMap (β : Type) := List (Nat × β)

namespace SMap

variable {β : Type}

def get (d : β) : SMap β → Nat → β
  | [], _ => d
  | (a, v) :: t, k => if a = k then v else get d t k

/-- Writing `d` removes the entry, so the form stays canonical. -/
def set [DecidableEq β] (d : β) : SMap β → Nat → β → SMap β
  | [], k, v => if v = d then [] else [(k, v)]
  | (a, w) :: t, k, v =>
    if k < a then (if v = d then (a, w) :: t else (k, v) :: (a, w) :: t)
    else if k = a then (if v = d then t else (k, v) :: t)
    else (a, w) :: set d t k v

/-- Every key is above `lo` and the keys rise. -/
def above (lo : Nat) : SMap β → Bool
  | [] => true
  | (a, _) :: t => decide (lo < a) && above a t

/-- The canonical form. -/
def wf [DecidableEq β] (d : β) (m : SMap β) : Bool :=
  (match m with
    | [] => true
    | (a, _) :: t => above a t)
  && m.all (fun p => decide (p.2 ≠ d))

def setAll [DecidableEq β] (d : β) (m : SMap β) : List (Nat × β) → SMap β
  | [] => m
  | (k, v) :: t => setAll d (set d m k v) t

end SMap

/-- Byte maps: what an unlisted byte reads as is 0 (log 5, log 9). -/
abbrev Memory := SMap Byte

/-- The byte that nothing has written. -/
def Memory.empty : Byte := 0#8

def Memory.get (m : Memory) (a : Nat) : Byte := SMap.get Memory.empty m a

def Memory.set (m : Memory) (a : Nat) (b : Byte) : Memory := SMap.set Memory.empty m a b

abbrev Memory.wf (m : Memory) : Bool := SMap.wf Memory.empty m

/-- `n` bytes from `a`, the lowest address first (R4). -/
def Memory.read (m : Memory) (a : Nat) : Nat → List Byte
  | 0 => []
  | n + 1 => m.get a :: Memory.read m (a + 1) n

def Memory.write (m : Memory) (a : Nat) : List Byte → Memory
  | [] => m
  | b :: t => Memory.write (m.set a b) (a + 1) t

/-- The number that bytes hold, little-endian (R4). -/
def bytesToNat : List Byte → Nat
  | [] => 0
  | b :: t => b.toNat + 256 * bytesToNat t

def natToBytes : Nat → Nat → List Byte
  | 0, _ => []
  | n + 1, x => BitVec.ofNat 8 x :: natToBytes n (x / 256)

def Memory.readNat (m : Memory) (a n : Nat) : Nat := bytesToNat (m.read a n)

def Memory.writeNat (m : Memory) (a n x : Nat) : Memory := m.write a (natToBytes n x)

end Sys2Proof.Machine
end

