-- ==== Sys2Proof/Machine/State.lean ====
section
/-! DEFINITION. The whole device's state as plain data, and its reset. INVENTORY.md, "State", lists each piece with its
rule. Numbers that software never sees as a word (handles, counts, times, addresses once computed) are `Nat`. -/

namespace Sys2Proof.Machine

/-- Why the machine stops. -/
inductive Fault where
  /-- `exec` was asked to run a wave's instruction in a state that selects no issuing gang. No `step` does so. Safe. -/
  | noIssuer
  deriving DecidableEq, Repr

/-- Why an instruction has no meaning here. -/
inductive Refusal where
  /-- Raised by an arm of `exec` whose instruction has no meaning yet. Safe. -/
  | notModelled (mnemonic : String)
  deriving DecidableEq, Repr

/-! ## Traps -/

/-- R370. `pc` stands for PCL and PCS. -/
structure TrapRec where
  code : BitVec 8
  mask : Mask
  addr : DWord
  det1 : Word
  det2 : BitVec 11
  pc : Pc
  deriving DecidableEq, Repr

/-- A trap-queue entry (R374). -/
structure TrapEntry where
  record : TrapRec
  gtb : Nat
  team : Nat
  grid : Nat
  ctx : Nat
  kind : Nat
  place : Nat
  slot : Nat
  deriving DecidableEq, Repr

/-- A pending asynchronous report (R374); a lower `prio` is delivered first. -/
structure Async where
  prio : Nat
  /-- The record names the first unissued instruction at the delivery (R371). -/
  next : Bool
  record : TrapRec
  /-- The engine command that stopped (R308). -/
  cmd : Option Nat := none
  deriving DecidableEq, Repr

/-! ## Waves -/

inductive RegFile where
  | vec
  | sca
  | pred
  deriving DecidableEq, Repr

/-- One register of a wave, named as the scoreboard names it (R113). -/
structure RegKey where
  file : RegFile
  n : Nat
  deriving DecidableEq, Repr

/-- One write of a register; `lane` is 0 for a scalar, and a predicate holds bit 0 of `x`. -/
structure RegWr where
  file : RegFile
  n : Nat
  lane : Nat
  x : Word
  deriving DecidableEq, Repr

/-- A fixed-latency result whose count distance is not yet covered (R113). `old` holds what the register held before, `lanes` where
its write still stands (bit 0 for a scalar), `stale` where a read may still see `old`: no later write there has landed; `ready` is the
cycle from which it is ready (R112); `inter` says that another gang than the one that holds it made it, so that it is interlocked
(R114). -/
structure Hist where
  key : RegKey
  lanes : Mask
  stale : Mask
  need : Nat
  dist : Nat
  ready : Nat
  inter : Bool
  old : List RegWr
  deriving DecidableEq, Repr

/-- What the pairing rule needs of the gang's last issue (R116). -/
structure LastIssue where
  pc : Pc
  pairBit : Bool
  stall : Nat
  beats : Nat
  vecPipe : Bool
  control : Bool
  writes : List RegKey
  /-- It issued as the second of a pair. -/
  second : Bool
  /-- It was a REGANG: the next instruction is interlocked (R114). -/
  regang : Bool
  cyc : Nat
  deriving DecidableEq, Repr

/-- Where an access lands after translation (R200, R204). -/
inductive Target where
  | dev (pa : Nat)
  | comb (core off : Nat)
  | rawComb (core off : Nat)
  | host (port hpa : Nat)
  | peer (rank pa : Nat)
  deriving DecidableEq, Repr

/-- A queue object (R248, R249): a ring by its header's place, a device physical address or, in the window of a team
(grid, number), an offset; one in a peer device's memory; or a FIFO bank. -/
inductive QueueRef where
  | ring (ctx : Nat) (comb : Option (Nat × Nat)) (pa : Nat)
  | far (ctx rank pa : Nat)
  | fifo (core bank : Nat)
  deriving DecidableEq, Repr

/-- What a gang waits for. The PC of its quads stays at the waiting instruction until the wait completes. -/
inductive Wait where
  | none
  | regang (named : BitVec 24)
  | barrier (kind number : Nat)
  | sleep (until_ : Nat)
  | fence (scope seq : Nat) (translations : Bool)
  /-- FENCET has dropped the translations; accesses numbered below `bound` may still use them (R229). -/
  | drain (scope seq bound : Nat)
  | drainst (seq : Nat)
  | queue (push : Bool) (q : QueueRef) (count : Nat) (addr : Nat)
  | waitb (n : Nat)
  | tbwait (t : Target) (parity : Bool) (addr : Nat)
  | launch (t : Target) (addr : Nat)
  /-- A releasing access waits for its fence (R220). -/
  | release (scope seq : Nat)
  | baton
  | acc (tiles : BitVec 16) (upTo : Nat)
  | ship (id : Nat)
  | comb (bank : Nat) (dst : Nat)
  deriving DecidableEq, Repr

/-- A load that returned in some lanes only: its number among all operations, its place in the wave's order, whether it acquires. -/
structure Owed where
  id : Nat
  seq : Nat
  acquire : Bool
  deriving DecidableEq, Repr

/-- R18: quads that issue together. `yielding` marks a wait begun in its `.y` form. -/
structure Gang where
  quads : List Nat
  wait : Wait
  yielding : Bool
  waitSince : Nat
  replay : Option Mask
  /-- The load whose faulted lanes are still to be replayed (R225, R226). -/
  owed : Option Owed
  /-- The fence of a releasing access of this gang has completed; the access may issue (R220). -/
  released : Bool
  /-- The port bindings with which the gang began to wait; they stand until its instruction completes (R249). -/
  bound : Option (List (Nat × QueueRef × Nat))
  /-- The cycle in which it was last found unable to issue (R23). -/
  stalledAt : Option Nat
  hist : List Hist
  last : Option LastIssue
  deriving DecidableEq, Repr

structure Quad where
  pc : Pc
  mask : BitVec 4
  ended : Bool
  stack : List (Pc × BitVec 4)
  deriving DecidableEq, Repr

/-- A result of variable latency not yet written (R111), with its flags and its amax updates (R90). -/
structure Pend where
  writes : List RegWr
  flags : BitVec 6
  amax : List (Nat × Word)
  keys : List RegKey
  push : Option (QueueRef × List Nat)
  deriving DecidableEq, Repr

/-- What a fixed-latency instruction leaves at its retirement, `left` cycles from now: a write of FSTAT, flags, amax (R51, R90). -/
structure Late where
  left : Nat
  fstat : Option Word
  flags : BitVec 6
  amax : List (Nat × Word)
  deriving DecidableEq, Repr

/-- A shipped section's request as its wave sees it (R255). -/
structure SectionInfo where
  ship : Nat
  lane : Nat
  start : Nat
  /-- The section has ended: status (R258) and results; its release is still to complete (R257). -/
  outcome : Option (Nat × List Word)
  deriving DecidableEq, Repr

/-- R352. -/
inductive SchedState where
  | active
  | pending
  | pool
  | blocked
  | trapped
  | held
  deriving DecidableEq, Repr

/-- Pre-emption of a wave (R121). -/
inductive Preempt where
  | none
  /-- It runs on to one of the listed points; `issued` cycles of issue so far. -/
  | running (issued : Nat) (points : List Pc)
  | fallback
  | stopped
  deriving DecidableEq, Repr

structure Wave where
  key : WaveKey
  grid : Nat
  team : Nat
  ctx : Nat
  wnum : Nat
  width : Nat
  nvec : Nat
  info : Option SectionInfo
  vregs : SMap Word
  preds : SMap Bool
  sregs : SMap Word
  act : Mask
  ended : Mask
  fstat : BitVec 6
  amax : SMap Word
  lc : SMap Word
  levels : List (Pc × Pc)
  wcw : Word
  wct : SMap DWord
  /-- Port number, queue, and the address it was bound by. -/
  ports : List (Nat × QueueRef × Nat)
  latch : List (Nat × List (Nat × Word))
  stale : List RegWr
  quads : List Quad
  gangs : List Gang
  rot : Nat
  consec : Nat
  /-- After YIELD, until its next issue, the wave leaves its slot's next cycle to another (R142). -/
  offers : Bool
  pend : List Pend
  late : List Late
  /-- After a trap, a yield or a pre-emption: it issues when every write that was pending has completed (R114). -/
  settling : Bool
  opSeq : Nat
  batchOpen : List Nat
  batchSeq : BitVec 16
  batches : List (BitVec 16 × List Nat)
  shipCtr : BitVec 16
  cntIss : Nat
  cntRes : Nat
  cntBlk : Nat
  starv : Nat
  sched : SchedState
  /-- Registers whose loads a wave of the pool waits for (R352). -/
  pooled : List RegKey
  residentAt : Nat
  lastIssue : Nat
  /-- Comb offset of each quad's slice, while the quad lives (R43, R45). -/
  slices : List (Option Nat)
  /-- It lost the baton and rejoins the queue when it may issue again (R295). -/
  rejoin : Bool
  trap : Option TrapRec
  /-- The recorded LOAD_FAULT is one of instruction fetch, or came behind its load (R408): REPLAY acts as RESUME (R95). -/
  fetchFault : Bool
  engStop : Option Nat
  async : List Async
  preempt : Preempt
  deriving DecidableEq, Repr

/-! ## Code, grids and teams -/

/-- A pre-emption side-table entry (R119). -/
structure SideEntry where
  pc : Pc
  rsvHi : BitVec 28
  ql : Bool
  al : Bool
  b1l : Bool
  b0l : Bool
  rsvMid : BitVec 6
  llv : BitVec 2
  tiles : BitVec 16
  rsvLo : Bool
  ns : BitVec 7
  np : BitVec 8
  nv : BitVec 8
  deriving DecidableEq, Repr

/-- A kernel or shipped section of a code object (R125). `cls` is 0 concurrent, 1 parallel, 2 weak; its code is [codeLo, codeHi). -/
structure Kernel where
  entry : Nat
  shipped : Bool
  width : Nat
  x : Nat
  y : Nat
  z : Nat
  cluster : Nat
  cls : Nat
  vregs : Nat
  scomb : Nat
  tiles : BitVec 16
  codeLo : Nat
  codeHi : Nat
  deriving DecidableEq, Repr

/-- A code object of a context: its kernels and its pre-emption side table, an entry to 128 bits (R119). -/
structure CodeObj where
  ctx : Nat
  kernels : List Kernel
  side : List (BitVec 128)
  deriving DecidableEq, Repr

/-- The launch descriptor as copied (R149). -/
structure LaunchDesc where
  entry : Nat
  param : Nat
  nx : Nat
  ny : Nat
  nz : Nat
  rsvA : Nat
  done : Nat
  lo : Nat
  hi : Nat
  chunk : Nat
  prio : Nat
  flags : Nat
  rsvB : Nat
  deriving DecidableEq, Repr

structure Grid where
  gid : Nat
  part : Nat
  ctx : Nat
  cls : Nat
  desc : LaunchDesc
  kernel : Kernel
  prio : Nat
  msix : Option Nat
  doneTarget : Target
  started : Bool
  complete : Bool
  rejected : Bool
  /-- Its context was terminated; its STATE is still to be written (R368). -/
  closing : Bool
  nextTeam : Nat
  nextSeq : Nat
  endedTeams : Nat
  anyTerminated : Bool
  offered : List (Nat × Nat)
  deriving DecidableEq, Repr

/-- Where a team stands. -/
inductive Residence where
  | resident
  | yielded (eligible : Bool)
  | preempted (eligible : Bool)
  | ended
  deriving DecidableEq, Repr

structure Tile where
  cells : SMap Word
  tag : BitVec 2
  deriving DecidableEq, Repr

/-- A B buffer (R283); a column's scale is 1.0 unless listed. -/
structure BBuf where
  data : SMap Byte
  fmt : BitVec 5
  scales : SMap Word
  valid : Bool
  owner : Option (Nat × Nat)
  deriving DecidableEq, Repr

/-- The long form's descriptor (R304) and how far it has come. -/
structure LongMma where
  sp : Bool
  bfmt : BitVec 5
  nb : Nat
  bblk : Nat
  bstr : Nat
  bscl : Nat
  bsrc : Nat
  block : Nat
  stage : Nat
  deriving DecidableEq, Repr

inductive CmdKind where
  | bload (comb : Bool) (src stride scales : Nat) (fmt : BitVec 5)
  | bswap
  | mma (ty : BitVec 5) (tile : Nat) (z comb : Bool) (split : Nat) (rows : List (Nat × Nat)) (scales : List (Nat × Word))
      (long : Option LongMma)
  | accz (tile : Nat) (tag : BitVec 2)
  | accwr (tile : Nat) (wide : Bool) (cells : List (Nat × Nat))
  | accst (ty : BitVec 5) (tile : Nat) (comb : Bool) (row0 : Nat) (rows : List (Nat × Nat)) (rm : Nat) (scale : Word)
  /-- Not a command of a wave: buffers of other teams than this lose their valid bit here (R293). -/
  | inval (owner : Nat × Nat)
  /-- As `inval`: buffers saved with a team come back here (R309). -/
  | restore (bufs : List (Nat × BBuf))
  deriving DecidableEq, Repr

/-- An engine command (R284). `started` and `granule` say how far an MMA has come. -/
structure Cmd where
  id : Nat
  w : WaveKey
  gid : Nat
  team : Nat
  ctx : Nat
  pc : Pc
  seq : Nat
  ntm : Bool
  kind : CmdKind
  started : Bool
  granule : Nat
  /-- Bytes of A words that the granule before this has read in part, by their addresses (R300). -/
  seen : List (Nat × Byte)
  stop : Option TrapRec
  deriving DecidableEq, Repr

/-- An entry of the range-lock table (R223): `space` as in SPACE, with the window's team for `c:`; bytes [lo, hi). -/
structure Lock where
  index : Nat
  ctx : Nat
  space : Nat
  team : Nat × Nat
  lo : Nat
  hi : Nat
  write : Bool
  opcode : Nat
  owner : Nat
  deriving DecidableEq, Repr

/-- The work of a team, KIND 2 in the trap queue, that waits for TCMD (R419). -/
structure TeamEvent where
  core : Nat
  code : BitVec 8
  cmd : Option Nat
  /-- The wave that caused it. -/
  w : WaveKey
  deriving DecidableEq, Repr

structure Team where
  gid : Nat
  num : Nat
  ctx : Nat
  seq : Nat
  rank : Nat
  core : Nat
  span : Bool
  scomb : Nat
  pages : List Nat
  tiles : List (Nat × Nat)
  lo : Nat
  hi : Nat
  /-- Cycle in which its interval was last split (R351). -/
  splitAt : Option Nat
  res : Residence
  saved : List Wave
  savedWindow : SMap Byte
  savedTiles : List (Nat × Tile)
  savedBufs : List (Nat × BBuf)
  savedCmds : List Cmd
  /-- Read locks of the saved commands (R309). -/
  savedLocks : List Lock
  saveSlot : Option Nat
  waitAddr : Nat
  eligibleAt : Nat
  terminated : Bool
  failCode : BitVec 8
  events : List TeamEvent
  deriving DecidableEq, Repr

/-! ## Memory operations in flight -/

/-- The life of a store or atomic element (R205, R212-R215, R379). -/
inductive Phase where
  | unchecked
  | dirty (since : Nat)
  | sent
  | arrived (t : Nat) (order : Nat)
  | applied (gwct : Nat)
  | returned
  | faulted
  | discarded
  deriving DecidableEq, Repr

/-- Waiting for host copies to be removed (R232). -/
inductive Removal where
  | notNeeded
  | waiting
  | acknowledged (t : Nat)
  deriving DecidableEq, Repr

structure MElem where
  lane : Nat
  va : Nat
  size : Nat
  data : Nat
  cmp : Nat
  /-- What an atomic found. -/
  old : Nat
  target : Option Target
  lease : Nat
  dst : Nat
  phase : Phase
  /-- The bank whose way holds its dirty sector (R205). -/
  way : Option Nat := none
  /-- The number in its connection of the flit that carries it to a peer (R409). -/
  flit : Option (BitVec 32) := none
  /-- What a peer has answered that an atomic found. -/
  reply : Option Nat := none
  removal : Removal
  deriving DecidableEq, Repr

/-- R242: the code is SUB; `cas` is CAS and CAS128. -/
inductive MKind where
  | store
  | atomic (op : Nat) (ty : Nat) (ret : Bool)
  | cas
  | push (q : QueueRef)
  /-- One 128-bit update of a transaction barrier (R271): the SUB-like code 0 init, 1 arrive, 2 expect. -/
  | barrier (op : Nat)
  deriving DecidableEq, Repr

structure MOp where
  id : Nat
  w : WaveKey
  gid : Nat
  team : Nat
  ctx : Nat
  seq : Nat
  iss : Nat
  pc : Pc
  scope : Nat
  order : Nat
  space : Nat
  kind : MKind
  checked : Bool
  /-- Registers that wait for the returned values, and the queue of a port destination. -/
  keys : List RegKey
  port : Option QueueRef
  /-- Lanes of a store made once for its issue; 0 for one made by each lane. -/
  whole : Mask
  /-- Each element is checked by itself (R379, MXST). -/
  byElem : Bool
  /-- GTB and cycle of the issue (R205, R214). -/
  gtb : Nat
  cyc : Nat
  /-- The table slot that a SCATTER uses (R339). -/
  table : Option Nat
  elems : List MElem
  deriving DecidableEq, Repr

structure LElem where
  lane : Nat
  va : Nat
  size : Nat
  target : Target
  lease : Nat
  dst : Nat
  /-- The number in its connection of the flit that carries its request to a peer (R409). -/
  flit : Option (BitVec 32) := none
  /-- The sector that the peer has answered. -/
  reply : Option (List Byte) := none
  done : Bool
  value : Nat
  deriving DecidableEq, Repr

structure LOp where
  id : Nat
  w : WaveKey
  ctx : Nat
  seq : Nat
  pc : Pc
  acquire : Bool
  scope : Nat
  ty : Nat
  scalar : Bool
  /-- It waits for the home of its data (R352). -/
  missed : Bool
  keys : List RegKey
  port : Option QueueRef
  hint : Nat
  /-- The table slot that a GATHER uses (R339). -/
  table : Option Nat
  /-- The lanes whose rows are in the slot's hot set (R274). -/
  hot : List Nat
  elems : List LElem
  deriving DecidableEq, Repr

/-! ## Engines -/

/-- A transfer as COPY or a record describes it (R261, R265). -/
structure XferDesc where
  op : Nat
  fmt : Nat
  src : Nat
  dst : Nat
  sspc : Nat
  dspc : Nat
  xb : Nat
  yn : Nat
  zn : Nat
  sys : Int
  szs : Int
  dys : Int
  dzs : Int
  sg : Nat
  cb : Nat
  next : Nat
  own : Bool
  reserved : Bool
  deriving DecidableEq, Repr

/-- A transfer in flight; `landed` are its sectors (copy) or committed 4 KiB chunks (reduction). -/
structure Xfer where
  id : Nat
  w : WaveKey
  gid : Nat
  team : Nat
  ctx : Nat
  pc : Pc
  seq : Nat
  recAddr : Nat
  desc : XferDesc
  landed : List Nat
  /-- Sectors already counted in the barrier. -/
  counted : Nat
  fault : Option (Bool × Nat × Nat)
  /-- Its record is to be read again, after a fault of the write-back of OWN (R266). -/
  reread : Bool
  deriving DecidableEq, Repr

structure ChainHead where
  addr : Nat
  w : WaveKey
  gid : Nat
  team : Nat
  ctx : Nat
  pc : Pc
  seq : Nat
  deriving DecidableEq, Repr

structure Channel where
  heads : List ChainHead
  walking : Option ChainHead
  recFault : Option (Bool × Nat × Nat)
  xfers : List Xfer
  err : Bool
  /-- The team whose record set ERR (R268). -/
  errTeam : Option (Nat × Nat)
  code : BitVec 3
  done : BitVec 16
  deriving DecidableEq, Repr

/-- A memory-form GATHER or SCATTER (R275, R276). -/
structure TableOp where
  id : Nat
  w : WaveKey
  gid : Nat
  team : Nat
  ctx : Nat
  pc : Pc
  seq : Nat
  scatter : Bool
  add : Bool
  wide : Bool
  slot : Nat
  /-- Where the descriptor in use lies. -/
  descAt : Nat
  base : Nat
  rows : Nat
  rowBytes : Nat
  fmt : Nat
  idx : Nat
  rowsAddr : Nat
  count : Nat
  stride : Nat
  tb : Nat
  /-- Rows of the slot's hot set (R274). -/
  hot : List Nat
  fault : Option (Bool × Nat × Nat)
  deriving DecidableEq, Repr

structure Engine where
  b0 : BBuf
  b1 : BBuf
  cmds : List Cmd
  tiles : List Tile
  baton : Option WaveKey
  /-- Who waits for the baton, first in first out, and the cycle of its request (R291). -/
  queue : List (WaveKey × Nat)
  grantedAt : Nat
  budget : Nat
  nextBudget : Nat
  deriving DecidableEq, Repr

/-! ## Cores -/

/-- The registers of a supervisor core, RV64GC with S-mode and Sv57 (R3); control registers by their numbers. -/
structure Supervisor where
  x : SMap DWord
  f : SMap DWord
  pc : DWord
  priv : BitVec 2
  csrs : SMap DWord
  /-- What LR has reserved: a physical address, its size and the value found there. -/
  resv : Option (Nat × Nat × Nat)
  /-- It waits in WFI. -/
  waiting : Bool
  deriving DecidableEq, Repr

/-- A change of a bank's mode: the cycle in which the allocator took it, and that from which its fill is over (R41, R42). -/
structure BankChange where
  bank : Nat
  mode : Nat
  taken : Nat
  ready : Nat
  deriving DecidableEq, Repr

/-- The control state of a FIFO bank: the header's fields (R248) and its elements, oldest first. -/
structure Fifo where
  bank : Nat
  scope : Nat
  esz : Nat
  hw : Bool
  prec : BitVec 128
  crec : BitVec 128
  creator : WaveKey
  elems : List Nat
  tail : Nat
  head : Nat
  deriving DecidableEq, Repr

/-- A leased line of the L1 (R205, R210): its data are the bytes of way `bank`. -/
structure L1Line where
  line : Target
  bank : Nat
  sectors : BitVec 4
  expiry : Nat
  fabric : Bool
  deriving DecidableEq, Repr

/-- A line of an instruction cache; `mapped` while the translation with which it was fetched stands (R386). -/
structure CodeLine where
  ctx : Nat
  va : Nat
  place : Target
  mapped : Bool
  data : List Byte
  deriving DecidableEq, Repr

structure TlbEntry where
  ctx : Nat
  level : Nat
  vpn : Nat
  pte : DWord
  deriving DecidableEq, Repr

/-- A store-fault record and its kept elements (R379). -/
structure StoreFault where
  op : Nat
  w : WaveKey
  gid : Nat
  team : Nat
  ctx : Nat
  bits : BitVec 256
  elems : List MElem
  opInfo : MOp
  valid : Bool
  deriving DecidableEq, Repr

structure Core where
  sup : Supervisor
  modes : SMap Nat
  comb : Memory
  /-- Writes of COMBWIN that wait for a bank to be filled, oldest first (R42). -/
  combWait : List (Nat × Byte)
  changes : List BankChange
  slices : List (Nat × Nat)
  scrPages : List Nat
  fifos : List Fifo
  l1 : List L1Line
  icache : List CodeLine
  tlb : List TlbEntry
  locks : List Lock
  chans : List Channel
  tableOps : List TableOp
  eng : Engine
  tqBase : DWord
  tqCfg : Word
  tqHead : Word
  tqTail : Word
  tqWait : List TrapEntry
  sfHead : Nat
  sfTail : Nat
  sfRec : SMap (BitVec 256)
  retry : List StoreFault
  pwsel : Word
  wstat : Word
  tinv : Word
  /-- Accesses numbered below this may use the dropped translations (R386). -/
  tinvBound : Nat
  tuse : DWord
  cecnt : Nat
  diag : Bool
  oos : Bool
  /-- Units that machine checks have named (R394). -/
  lost : List Nat
  lastCtx : Option Nat
  comblay : BitVec 192
  /-- Context descriptors as read when a team last started here (R337). -/
  descs : SMap Nat
  sliceStart : Nat
  /-- Cycle in which the pair, then empty, admitted its context (R364). -/
  admittedAt : Nat
  /-- The grid for whose team the empty pair takes its layout (R338). -/
  starting : Option Nat
  /-- Cycle in which the last team of the pair retired (R357). -/
  retiredAt : Nat
  deriving DecidableEq, Repr

/-! ## Shipped sections -/

structure ShipReq where
  lane : Nat
  home : Nat
  rank : Nat
  lock : Nat
  args : List Word
  token : BitVec 16
  slotAddr : Nat
  /-- The number in its connection of the flit that carries it to a peer (R409). -/
  flit : Option (BitVec 32) := none
  arrived : Bool
  result : Option (Nat × List Word)
  /-- The result slot is written (R259). -/
  written : Bool
  deriving DecidableEq, Repr

/-- One SHIP or SHIPT (R253); `tokens` names the captured queue of SHIPT. -/
structure ShipOp where
  id : Nat
  w : WaveKey
  ctx : Nat
  gid : Nat
  team : Nat
  seq : Nat
  pc : Pc
  fab : Bool
  /-- The queue of a port that receives SHIP's result. -/
  port : Option QueueRef
  tokens : Option QueueRef
  nres : Nat
  dst : Nat
  entry : Nat
  kernel : Kernel
  /-- A peer's requester, as s4 names it (R255); none for a wave of this device. -/
  sender : Option Nat := none
  reqs : List ShipReq
  deriving DecidableEq, Repr

/-- A Benuri core: its arrival queue and return buffer, as (ship, lane) (R255, R259). -/
structure Benuri where
  queue : List (Nat × Nat)
  held : List (Nat × Nat)
  desc : Nat
  tlb : List TlbEntry
  icache : List CodeLine
  deriving DecidableEq, Repr

/-! ## Partitions -/

structure LqEntry where
  gid : Nat
  prio : Nat
  deriving DecidableEq, Repr

structure Partition where
  ctxBase : DWord
  sqBase : DWord
  budBase : DWord
  lqCfg : DWord
  prctl : DWord
  /-- Action and context of the last GO, and the time at which TMO passes (R366, R367). -/
  prAct : Nat
  prCtx : Nat
  prDeadline : Nat
  gidNext : Nat
  wdctl : Word
  /-- Windows in force, and as written (R340). -/
  mwin : SMap (BitVec 128)
  mwinReg : SMap (BitVec 128)
  sqTail : SMap Word
  sqHead : SMap Word
  rr : Nat
  lq : List LqEntry
  ring : List LqEntry
  /-- Entries that the overflow ring has taken so far (R344). -/
  ringTail : Nat
  /-- Bindings in force, and as written (R400). -/
  pasid : SMap Word
  pasidReg : SMap Word
  rgn : SMap (BitVec 128)
  rgnNew : SMap Nat
  conBase : DWord
  /-- Units used in the present period of each budget entry, and the GTB at which that period began (R356). -/
  budUsed : SMap Nat
  periods : SMap Nat
  deriving DecidableEq, Repr

/-! ## Host ports -/

structure AtcEntry where
  pasid : Nat
  page : Nat
  frame : Nat
  writable : Bool
  /-- The range is 2^`bits` pages (R389). -/
  bits : Nat
  deriving DecidableEq, Repr

/-- A Translation Request or Page Request in flight (R390). `refused` is a completion that granted nothing and waits for
the access that asked; `waiters` are the accesses that wait for it, as a wave and one of its quads, or 1000 plus a store's number. -/
structure AtsReq where
  /-- Context, plus 1024 times its partition. -/
  ctx : Nat
  /-- The core that asked. -/
  core : Nat
  page : Nat
  write : Bool
  pageRequest : Bool
  refused : Bool
  since : Nat
  waiters : List (WaveKey × Nat)
  deriving DecidableEq, Repr

/-- The completion of a host's read or atomic of device memory; poisoned data go as poison (R392). -/
structure Reply where
  data : List Byte
  poisoned : Bool
  deriving DecidableEq, Repr

structure Inval where
  loads : List (Nat × Nat)
  stores : List (Nat × Nat)
  deriving DecidableEq, Repr

structure HostPort where
  up : Bool
  cxlCache : Bool
  cxlMem : Bool
  width : BitVec 5
  atc : List AtcEntry
  reqs : List AtsReq
  invals : List Inval
  errBase : DWord
  errCfg : Word
  errHead : Word
  errTail : Word
  errLost : Word
  /-- Records that wait for room, with the time they came (R404). -/
  errWait : List (ErrRecord × Nat)
  /-- Records between ERRHEAD and ERRTAIL, oldest first. -/
  errRing : List ErrRecord
  msix : List Nat
  replies : List Reply
  deriving DecidableEq, Repr

/-- R398. -/
structure HostLease where
  active : Nat
  held : Bool
  expired : Bool
  takeovers : BitVec 8
  ignored : BitVec 16
  hlexp : Nat
  lastLen : Nat
  deriving DecidableEq, Repr

structure Snoop where
  part : Nat
  addr : Nat
  own : Bool
  deriving DecidableEq, Repr

/-! ## Fabric -/

structure KeySlot where
  key : BitVec 256
  salt : BitVec 48
  valid : Bool
  ic : Nat
  deriving DecidableEq, Repr

structure Link where
  up : Bool
  detour : Bool
  relay : BitVec 4
  ctl : Word
  txSlot : Bool
  rxSlot : Bool
  tx0 : KeySlot
  tx1 : KeySlot
  rx0 : KeySlot
  rx1 : KeySlot
  fails : BitVec 2
  failTotal : BitVec 16
  txSeq : BitVec 16
  rxSeq : BitVec 16
  discarding : Bool
  replay : List Flit
  wire : List Flit
  delivered : List Flit
  keyNotice : Bool
  exhausted : Bool
  deriving DecidableEq, Repr

/-- A flit of a connection that its peer has not acknowledged; `sent` is the port and the LSEQ under which it last left, none while
it waits to be resent (R409). -/
structure Unacked where
  seq : BitVec 32
  payload : List Byte
  sent : Option (Nat × BitVec 16)
  deriving DecidableEq, Repr

/-- A reliable connection: local context, peer rank and traffic class (R409). `txSeq` and `rxSeq` are the next sequence numbers of
each direction, `window` its outstanding flits, `early` what has arrived ahead of `rxSeq`, `delivered` what has been delivered. -/
structure Conn where
  ctx : Nat
  peer : BitVec 4
  cls : BitVec 2
  txSeq : BitVec 32
  rxSeq : BitVec 32
  window : List Unacked
  early : List (BitVec 32 × List Byte)
  delivered : List (List Byte)
  deriving DecidableEq, Repr

/-- Contents that wait to leave on a connection: a write of an engine or unit to a peer's memory, or the answer to a peer's request
(R409). -/
structure Post where
  ctx : Nat
  rank : Nat
  payload : List Byte
  deriving DecidableEq, Repr

/-- A sector of a peer's memory that an engine or unit reads for a context: the flit of its request, and the answer (R409). -/
structure Fetch where
  core : Nat
  ctx : Nat
  rank : Nat
  sector : Nat
  flit : Option (BitVec 32)
  reply : Option (List Byte)
  deriving DecidableEq, Repr

/-- A flit that this device forwards as a relay (R408). -/
structure Transit where
  src : BitVec 4
  dst : BitVec 4
  ty : BitVec 4
  payload : List Byte
  deriving DecidableEq, Repr

/-- `conns` has the connection used last in front: the first 1024 stand in port SRAM, the others in the spill area, which has room
for `spill` (R409). -/
structure Fabric where
  rank : Nat
  clique : Nat
  spill : Nat
  links : List Link
  conns : List Conn
  transit : List Transit
  posts : List Post
  fetches : List Fetch
  synced : Bool
  offset : Int
  lastTime : Nat
  goodSince : Nat
  deriving DecidableEq, Repr

/-! ## I/O -/

structure IoReq where
  id : Nat
  w : WaveKey
  gid : Nat
  team : Nat
  seq : Nat
  part : Nat
  ctx : Nat
  kind : Nat
  conn : Nat
  token : Nat
  len : Nat
  buf : Nat
  raddr : Nat
  rkey : Nat
  queue : QueueRef
  core : Nat
  /-- When a placement met a page that is not present, and its address (R282). -/
  absent : Option (Nat × Nat)
  /-- Retries made of a placement that met an absent page (R282, R414). -/
  tries : Nat
  /-- What the buffer of a write held when the request took effect (R281). -/
  data : Option (List Byte)
  /-- It began while its I/O queue was not held (R356). -/
  begun : Bool
  deriving DecidableEq, Repr

/-- A completion record that waits for room in its queue (R281). -/
structure IoHeld where
  part : Nat
  core : Nat
  queue : QueueRef
  record : Nat
  deriving DecidableEq, Repr

/-- `posted` are receive buffers in post order; `broken` connections in the error state (R414); `sent` the data that left. -/
structure IoUnit where
  reqs : List IoReq
  posted : List IoReq
  held : List IoHeld
  broken : List (Nat × Nat)
  sent : List (Nat × List Byte)
  deriving DecidableEq, Repr

/-! ## Root -/

/-- An error that the root core has still to record: the partition it concerns, and its time (R395, R404). -/
structure ErrDue where
  record : ErrRecord
  part : Option Nat
  /-- Ports whose rings have it. -/
  told : List Nat
  deriving DecidableEq, Repr

structure Root where
  boot : Nat
  failCode : Nat
  mode : Nat
  measure : BitVec 384
  verified : Bool
  /-- The image that the recovery mailbox has taken (R418). -/
  recovery : Option BootImage
  reports : List (List Byte)
  errs : List ErrDue
  sbcore : BitVec 192
  sblat : DWord
  sbio : Word
  srgn : SMap (BitVec 128)
  deriving DecidableEq, Repr

/-! ## The device -/

/-- Who issued a queue's QINIT (R250); `sect` names a shipped section by its ship and lane. -/
structure QueueInfo where
  q : QueueRef
  w : WaveKey
  sect : Option (Nat × Nat)
  gid : Nat
  team : Nat
  wnum : Nat
  deriving DecidableEq, Repr

/-- The gang that issues: its wave, one of its quads, and the PAIR bit of its slot (R93). -/
structure Cur where
  w : WaveKey
  quad : Nat
  pair : Bool
  deriving DecidableEq, Repr

/-- A chosen move: let cycles pass, then a gang issues, an event of the table happens, or the supervisor core of a compute core
executes one instruction. -/
inductive Move where
  | issue (w : WaveKey) (quad : Nat)
  | event (i : Instr)
  | supervise (core : Nat)
  deriving DecidableEq, Repr

structure Act where
  cycles : Nat
  move : Move
  deriving DecidableEq, Repr

/-- The budget entry that an activity beside the contexts names in its configuration (R354): kind 1 is channel `b` of core `a`,
kind 2 traffic class `a`, kind 3 the I/O queue of connection `b` of partition `a`. -/
structure ActBud where
  kind : Nat
  a : Nat
  b : Nat
  part : Nat
  entry : Nat
  deriving DecidableEq, Repr

structure State where
  cyc : Nat
  gtbAdj : Int
  freeCtr : Nat
  nextId : Nat
  agenda : List Act
  cur : Option Cur
  mem : Memory
  hostMem : Memory
  peerMem : Memory
  eDev : SMap Nat
  eFab : SMap Nat
  /-- When the replica of a line in a die's LLC expires: line n of die d is 4n + d (R274). -/
  replicas : SMap Nat
  poison : List PoisonLoc
  cores : List Core
  waves : List Wave
  teams : List Team
  grids : List Grid
  codeObjs : List CodeObj
  mops : List MOp
  loads : List LOp
  tainted : List QueueRef
  queues : List QueueInfo
  ships : List ShipOp
  benuris : List Benuri
  parts : List Partition
  actBuds : List ActBud
  ports : List HostPort
  lease : HostLease
  snoops : List Snoop
  fabric : Fabric
  io : IoUnit
  root : Root
  deriving DecidableEq, Repr

/-! ## Reset -/

def BBuf.reset : BBuf := { data := [], fmt := 0, scales := [], valid := false, owner := none }

def Tile.reset : Tile := { cells := [], tag := 0 }

def Engine.reset : Engine :=
  { b0 := .reset, b1 := .reset, cmds := [], tiles := List.replicate 16 .reset, baton := none, queue := [],
    grantedAt := 0, budget := 100, nextBudget := 100 }

def Channel.reset : Channel :=
  { heads := [], walking := none, recFault := none, xfers := [], err := false, errTeam := none, code := 0, done := 0 }

/-- The supervisor cores start in machine mode with every register 0, but for sstatus, mstatus and misa, which name 64-bit registers
and RV64GC with S-mode (R3, log 111). -/
def Supervisor.reset : Supervisor :=
  { x := [], f := [], pc := 0, priv := 3,
    csrs := [(0x100, 0x0000000200000000#64), (0x300, 0x0000000A00000000#64), (0x301, 0x800000000014112D#64)], resv := none,
    waiting := false }

def Core.reset : Core :=
  { sup := .reset, modes := [], comb := [], combWait := [], changes := [], slices := [], scrPages := [], fifos := [], l1 := [], icache := [],
    tlb := [], locks := [], chans := List.replicate 4 .reset, tableOps := [], eng := .reset,
    tqBase := 0, tqCfg := 0, tqHead := 0, tqTail := 0, tqWait := [], sfHead := 0, sfTail := 0, sfRec := [], retry := [],
    pwsel := 0, wstat := 0, tinv := 0x00020000#32, tinvBound := 0, tuse := 0, cecnt := 0, diag := false, oos := false, lost := [],
    lastCtx := none, comblay := 0, descs := [], sliceStart := 0,
    admittedAt := 0, starting := none, retiredAt := 0 }

def Partition.reset : Partition :=
  { ctxBase := 0, sqBase := 0, budBase := 0, lqCfg := 0, prctl := 0x000003E800000000#64, prAct := 0, prCtx := 0, prDeadline := 0,
    gidNext := 1, wdctl := 0, mwin := [], mwinReg := [], sqTail := [], sqHead := [], rr := 0, lq := [], ring := [], ringTail := 0,
    pasid := [], pasidReg := [], rgn := [], rgnNew := [], conBase := 0, budUsed := [], periods := [] }

def HostPort.reset : HostPort :=
  { up := false, cxlCache := false, cxlMem := false, width := 0, atc := [], reqs := [], invals := [], errBase := 0,
    errCfg := 0, errHead := 0, errTail := 0, errLost := 0, errWait := [], errRing := [], msix := [], replies := [] }

def HostLease.reset : HostLease :=
  { active := 0, held := false, expired := false, takeovers := 0, ignored := 0, hlexp := 0, lastLen := 0 }

def KeySlot.reset : KeySlot := { key := 0, salt := 0, valid := false, ic := 0 }

def Link.reset : Link :=
  { up := false, detour := false, relay := 0, ctl := 0, txSlot := false, rxSlot := false, tx0 := .reset, tx1 := .reset,
    rx0 := .reset, rx1 := .reset, fails := 0, failTotal := 0, txSeq := 0, rxSeq := 0, discarding := false, replay := [],
    wire := [], delivered := [], keyNotice := false, exhausted := false }

def Fabric.reset : Fabric :=
  { rank := 0, clique := 1, spill := 0, links := List.replicate 15 .reset, conns := [], transit := [], posts := [], fetches := [], synced := true, offset := 0, lastTime := 0,
    goodSince := 0 }

def IoUnit.reset : IoUnit := { reqs := [], posted := [], held := [], broken := [], sent := [] }

def Root.reset : Root :=
  { boot := 0, failCode := 0, mode := 0, measure := 0, verified := false, recovery := none, reports := [], errs := [], sbcore := 0, sblat := 0,
    sbio := 0, srgn := [] }

def Benuri.reset : Benuri := { queue := [], held := [], desc := 0, tlb := [], icache := [] }

/-- The device right after reset: bring-up state 0 (R418), every bank OFF (R40), every register at the reset value of its
map (R335, R369, R397, R412, R415); where the spec gives none, the value of logs 1, 2 and 5-9. -/
def State.reset : State :=
  { cyc := 0, gtbAdj := 0, freeCtr := 0, nextId := 0, agenda := [], cur := none, mem := [], hostMem := [], peerMem := [],
    eDev := [], eFab := [], replicas := [], poison := [], cores := List.replicate 192 .reset, waves := [], teams := [], grids := [],
    codeObjs := [], mops := [], loads := [], tainted := [], queues := [], ships := [],
    benuris := List.replicate 48 .reset, parts := List.replicate 4 .reset, actBuds := [], ports := List.replicate 2 .reset,
    lease := .reset, snoops := [], fabric := .reset, io := .reset, root := .reset }

end Sys2Proof.Machine
end

