-- ==== Sys2Proof/Machine/Flags.lean ====
section
/-! DEFINITION. FSTAT's flags (02 R51) and the exact values and roundings that raise them (03 R69-R82). -/

namespace Sys2Proof.Machine

abbrev FlagBits := BitVec 6

namespace Flag
def iv : FlagBits := 0x01
def dz : FlagBits := 0x02
def ofl : FlagBits := 0x04
def uf : FlagBits := 0x08
def nx : FlagBits := 0x10
def an : FlagBits := 0x20
end Flag

/-- `f` when `b`, else no flag. -/
def Flag.when_ (b : Bool) (f : FlagBits) : FlagBits := if b then f else 0

/-! ## Exact values -/

/-- A decoded float or exact result: the magnitude of `fin` is `num / den` with `den` positive (R70). -/
inductive Val where
  | nan (signalling : Bool)
  | inf (neg : Bool)
  | fin (neg : Bool) (num den : Nat)
  deriving DecidableEq, Repr

def Val.isNan : Val → Bool
  | .nan _ => true
  | _ => false

def Val.isSnan : Val → Bool
  | .nan s => s
  | _ => false

def Val.isZero : Val → Bool
  | .fin _ n _ => n == 0
  | _ => false

def Val.neg : Val → Bool
  | .nan _ => false
  | .inf s => s
  | .fin s _ _ => s

def Val.negate : Val → Val
  | .nan s => .nan s
  | .inf s => .inf (!s)
  | .fin s n d => .fin (!s) n d

def Val.abs : Val → Val
  | .nan s => .nan s
  | .inf _ => .inf false
  | .fin _ n d => .fin false n d

def Val.ofInt (x : Int) : Val := .fin (decide (x < 0)) x.natAbs 1

def Val.one : Val := .fin false 1 1

def Val.posZero : Val := .fin false 0 1

/-- Quiets a NaN: the one that a computed result carries (R80). -/
def Val.quiet : Val → Val
  | .nan _ => .nan false
  | v => v

/-- The sum over a common denominator. -/
def addFrac (an ad bn bd : Int) : Int × Int :=
  if ad = bd then (an + bn, ad)
  else if ad % bd = 0 then (an + bn * (ad / bd), ad)
  else if bd % ad = 0 then (an * (bd / ad) + bn, bd)
  else (an * bd + bn * ad, ad * bd)

def signed (s : Bool) (n : Nat) : Int := if s then - (n : Int) else n

/-- Exact sum; an exact zero is +0, or -0 under RDN, but two zeros of one sign keep it (R173). IV for ∞ − ∞ (R80). -/
def Val.add (mode : Nat) : Val → Val → Val × FlagBits
  | .nan _, _ => (.nan false, 0)
  | _, .nan _ => (.nan false, 0)
  | .inf s, .inf t => if s = t then (.inf s, 0) else (.nan false, Flag.iv)
  | .inf s, .fin _ _ _ => (.inf s, 0)
  | .fin _ _ _, .inf t => (.inf t, 0)
  | .fin s n d, .fin t m e =>
    let r := addFrac (signed s n) d (signed t m) e
    if r.1 = 0 then
      (.fin (if n = 0 && m = 0 && s == t then s else mode == 3) 0 1, 0)
    else (.fin (decide (r.1 < 0)) r.1.natAbs r.2.natAbs, 0)

/-- Exact product; IV for 0 × ∞ (R80). -/
def Val.mul : Val → Val → Val × FlagBits
  | .nan _, _ => (.nan false, 0)
  | _, .nan _ => (.nan false, 0)
  | .inf s, .inf t => (.inf (s != t), 0)
  | .inf s, .fin t m _ => if m = 0 then (.nan false, Flag.iv) else (.inf (s != t), 0)
  | .fin s n _, .inf t => if n = 0 then (.nan false, Flag.iv) else (.inf (s != t), 0)
  | .fin s n d, .fin t m e => (.fin (s != t) (n * m) (d * e), 0)

/-- Exact quotient; IV for 0/0 and ∞/∞, DZ for a finite nonzero number over zero (R80). -/
def Val.div : Val → Val → Val × FlagBits
  | .nan _, _ => (.nan false, 0)
  | _, .nan _ => (.nan false, 0)
  | .inf _, .inf _ => (.nan false, Flag.iv)
  | .inf s, .fin t _ _ => (.inf (s != t), 0)
  | .fin s _ _, .inf t => (.fin (s != t) 0 1, 0)
  | .fin s n d, .fin t m e =>
    if m = 0 then (if n = 0 then (.nan false, Flag.iv) else (.inf (s != t), Flag.dz))
    else (.fin (s != t) (n * e) (d * m), 0)

/-- -1, 0 or 1 as a < b, a = b, a > b, zeros equal; only for operands that are no NaN. -/
def Val.cmp : Val → Val → Int
  | .inf s, .inf t => if s = t then 0 else if s then -1 else 1
  | .inf s, _ => if s then -1 else 1
  | _, .inf t => if t then 1 else -1
  | .fin s n d, .fin t m e =>
    let x := signed s n * e
    let y := signed t m * d
    if x < y then -1 else if x = y then 0 else 1
  | _, _ => 0

/-! ## Formats -/

/-- Width, fraction width, bias, and whether the format is an IEEE one (R69); codes 0-5. -/
structure FloatFmt where
  w : Nat
  f : Nat
  bias : Nat
  ieee : Bool
  nan : Nat
  deriving DecidableEq, Repr

def floatFmt (c : Nat) : FloatFmt :=
  match c % 16 with
  | 0 => ⟨64, 52, 1023, true, 0x7FF8000000000000⟩
  | 1 => ⟨32, 23, 127, true, 0x7FC00000⟩
  | 2 => ⟨16, 10, 15, true, 0x7E00⟩
  | 3 => ⟨16, 7, 127, true, 0x7FC0⟩
  | 4 => ⟨8, 3, 8, false, 0x80⟩
  | _ => ⟨8, 2, 16, false, 0x80⟩

def isFloatCode (c : Nat) : Bool := decide (c % 16 < 6)

/-- Element width of a format code (R66). -/
def codeWidth (c : Nat) : Nat :=
  match c % 16 with
  | 0 => 64
  | 1 => 32
  | 2 | 3 => 16
  | 4 | 5 => 8
  | 6 | 7 => 64
  | 8 | 9 => 32
  | 10 | 11 => 16
  | 12 | 13 => 8
  | _ => 4

def isWide (c : Nat) : Bool := codeWidth c == 64

def isSignedCode (c : Nat) : Bool := (c % 16 == 14) || (c % 16 == 15) || ((c % 16) % 2 == 0 && decide (6 ≤ c % 16))

/-- Largest finite encoding without its sign: ∞ lies one above it in the IEEE formats. -/
def FloatFmt.maxBits (p : FloatFmt) : Nat :=
  if p.ieee then (2 ^ (p.w - 1 - p.f) - 1) * 2 ^ p.f - 1 else 2 ^ (p.w - 1) - 1

/-- R70. -/
def decodeFloat (c x : Nat) : Val :=
  let p := floatFmt c
  let x := x % 2 ^ p.w
  let s := decide (2 ^ (p.w - 1) ≤ x)
  let mag := x % 2 ^ (p.w - 1)
  let e := mag / 2 ^ p.f
  let m := mag % 2 ^ p.f
  if !p.ieee && x == 0x80 then .nan false
  else if p.ieee && decide (p.maxBits < mag) then
    (if m = 0 then .inf s else .nan (decide (m < 2 ^ (p.f - 1))))
  else
    let sig := if e = 0 then m else 2 ^ p.f + m
    let ex : Int := (if e = 0 then 1 else (e : Int)) - p.bias - p.f
    if 0 ≤ ex then .fin s (sig * 2 ^ ex.toNat) 1 else .fin s sig (2 ^ (-ex).toNat)

/-- Signed or unsigned reading of the low bits (R71, R72). -/
def decodeInt (c x : Nat) : Int :=
  let w := codeWidth c
  let x := x % 2 ^ w
  if isSignedCode c && decide (2 ^ (w - 1) ≤ x) then (x : Int) - 2 ^ w else x

/-! ## Rounding -/

/-- Whether the magnitude rounds up, from its integer part's parity and the remainder `r` of `d` (R76). -/
def roundsUp (mode : Nat) (neg : Bool) (m r d : Nat) : Bool :=
  match mode with
  | 0 => decide (d < 2 * r) || (2 * r == d && m % 2 == 1)
  | 1 => false
  | 2 => decide (0 < r) && !neg
  | 3 => decide (0 < r) && neg
  | _ => decide (d ≤ 2 * r)

/-- `n / d` to an integer: the rounded magnitude and whether it was inexact. -/
def roundNat (mode : Nat) (neg : Bool) (n d : Nat) : Nat × Bool :=
  let m := n / d
  let r := n % d
  (if roundsUp mode neg m r d then m + 1 else m, r != 0)

/-- `n / d` in units of 2^q. -/
def roundAt (mode : Nat) (neg : Bool) (n d : Nat) (q : Int) : Nat × Bool :=
  if 0 ≤ q then roundNat mode neg n (d * 2 ^ q.toNat) else roundNat mode neg (n * 2 ^ (-q).toNat) d

/-- ⌊log₂ (n / d)⌋ for a positive quotient. -/
def floorLog2 (n d : Nat) : Int :=
  let e : Int := (Nat.log2 n : Int) - Nat.log2 d
  if 0 ≤ e then (if d * 2 ^ e.toNat ≤ n then e else e - 1) else (if d ≤ n * 2 ^ (-e).toNat then e else e - 1)

/-- Overflow by R78: the encoding without its sign. -/
def overflowBits (p : FloatFmt) (mode : Nat) (sat neg : Bool) : Nat :=
  if sat || !p.ieee then p.maxBits
  else
    match mode with
    | 1 => p.maxBits
    | 2 => if neg then p.maxBits else p.maxBits + 1
    | 3 => if neg then p.maxBits + 1 else p.maxBits
    | _ => p.maxBits + 1

def withSign (p : FloatFmt) (neg : Bool) (mag : Nat) : Nat :=
  if neg && (p.ieee || mag != 0) then 2 ^ (p.w - 1) + mag else mag

/-- One rounding of a positive magnitude to a float format: encoding and flags (R76-R79). Tininess is judged after
rounding with an unbounded exponent. -/
def roundMag (c mode : Nat) (sat neg : Bool) (n d : Nat) : Nat × FlagBits :=
  let p := floatFmt c
  let emin : Int := 1 - (p.bias : Int)
  let qmin := emin - p.f
  let e := floorLog2 n d
  let q := max (e - p.f) qmin
  let r := roundAt mode neg n d q
  let mag := (q - qmin).toNat * 2 ^ p.f + r.1
  if p.maxBits < mag then (withSign p neg (overflowBits p mode sat neg), Flag.ofl ||| Flag.nx)
  else
    let u := roundAt mode neg n d (e - p.f)
    let tiny := decide (e < emin) && !(e == emin - 1 && u.1 == 2 ^ (p.f + 1))
    (withSign p neg mag, Flag.when_ r.2 Flag.nx ||| Flag.when_ (r.2 && tiny) Flag.uf)

/-- An exact value to a float format (R77-R80, R82). -/
def roundVal (c mode : Nat) (sat : Bool) (v : Val) : Nat × FlagBits :=
  let p := floatFmt c
  match v with
  | .nan s => (p.nan, Flag.when_ s Flag.iv)
  | .inf s =>
    if p.ieee then (withSign p s (if sat then p.maxBits else p.maxBits + 1), 0)
    else (withSign p s p.maxBits, Flag.iv)
  | .fin s n d => if n = 0 then (withSign p s 0, 0) else roundMag c mode sat s n d

/-! ## Integers -/

/-- Least and greatest value of an integer code; code 15 holds -7 to 7 (R71, R75). -/
def intMin (c : Nat) : Int := if c % 16 == 15 then -7 else if isSignedCode c then -(2 ^ (codeWidth c - 1)) else 0

def intMax (c : Nat) : Int :=
  if c % 16 == 15 then 7 else if isSignedCode c then 2 ^ (codeWidth c - 1) - 1 else 2 ^ codeWidth c - 1

def clampInt (c : Nat) (x : Int) : Int := if x < intMin c then intMin c else if intMax c < x then intMax c else x

/-- The low bits of an exact integer. -/
def wrapBits (w : Nat) (x : Int) : Nat := (x % (2 ^ w : Int)).toNat

/-- R129: reduced modulo 2^w, or clamped under SAT. -/
def reduceInt (c : Nat) (sat : Bool) (x : Int) : Nat := wrapBits (codeWidth c) (if sat then clampInt c x else x)

/-- R72: how a w-bit element fills its register or pair. -/
def extendElem (c x : Nat) : Nat :=
  let w := codeWidth c
  let x := x % 2 ^ w
  if decide (w < 32) && isSignedCode c && decide (2 ^ (w - 1) ≤ x) then x + 2 ^ 32 - 2 ^ w else x

/-- The integer to which a value rounds, and whether it was inexact; none for NaN and infinities. -/
def roundInt (mode : Nat) : Val → Option (Int × Bool)
  | .fin s n d => let r := roundNat mode s n d; some (signed s r.1, r.2)
  | _ => none

/-- Float to integer (R82): bits of the element and flags. -/
def floatToInt (c mode : Nat) (v : Val) : Nat × FlagBits :=
  match v with
  | .nan _ => (0, Flag.iv)
  | .inf s => (wrapBits (codeWidth c) (if s then intMin c else intMax c), Flag.iv)
  | .fin s n d =>
    let r := roundNat mode s n d
    let x := signed s r.1
    (wrapBits (codeWidth c) (clampInt c x),
      Flag.when_ (decide (clampInt c x ≠ x)) Flag.iv ||| Flag.when_ r.2 Flag.nx)

/-- Largest i with i² ≤ n, bit by bit from bit `k`. -/
def isqrtFrom (n : Nat) : Nat → Nat → Nat
  | 0, acc => acc
  | k + 1, acc => let t := acc + 2 ^ k; isqrtFrom n k (if t * t ≤ n then t else acc)

def isqrt (n : Nat) : Nat := isqrtFrom n (Nat.log2 n / 2 + 1) 0

/-- A rational in the same rounding interval as √(n/d): 64 further bits and a sticky bit (R178). -/
def sqrtApprox (n d : Nat) : Nat × Nat :=
  let x := n * d * 4 ^ 64
  let s := isqrt x
  (2 * s + (if s * s = x then 0 else 1), d * 2 ^ 65)

end Sys2Proof.Machine
end

