-- ==== Sys2Proof/Machine/Ops.lean ====
section
/-! DEFINITION. Named operations over the state: its parts, registers (02 R47-R57), program counters (04 R94), loop ends
(05 R139), the taking of a trap (13 R374) and the return from one. -/

namespace Sys2Proof.Machine

/-- Bits [hi:lo] of a number (R4). -/
def field (x hi lo : Nat) : Nat := (x >>> lo) % 2 ^ (hi + 1 - lo)

/-- `x` with bits [hi:lo] replaced. -/
def setField (x hi lo v : Nat) : Nat :=
  x - field x hi lo * 2 ^ lo + (v % 2 ^ (hi + 1 - lo)) * 2 ^ lo

/-- A number read as two's complement of `w` bits. -/
def sext (w x : Nat) : Int := if 2 ^ (w - 1) ≤ x % 2 ^ w then (x % 2 ^ w : Nat) - (2 ^ w : Nat) else (x % 2 ^ w : Nat)

/-! ## Parts of the state -/

namespace State

def core (s : State) (c : Nat) : Core := s.cores.getD c Core.reset

def updCore (s : State) (c : Nat) (f : Core → Core) : State := { s with cores := s.cores.set c (f (s.core c)) }

def part (s : State) (p : Nat) : Partition := s.parts.getD p Partition.reset

def updPart (s : State) (p : Nat) (f : Partition → Partition) : State :=
  { s with parts := s.parts.set p (f (s.part p)) }

def port (s : State) (p : Nat) : HostPort := s.ports.getD p HostPort.reset

def updPort (s : State) (p : Nat) (f : HostPort → HostPort) : State :=
  { s with ports := s.ports.set p (f (s.port p)) }

def benuri (s : State) (b : Nat) : Benuri := s.benuris.getD b Benuri.reset

def updBenuri (s : State) (b : Nat) (f : Benuri → Benuri) : State :=
  { s with benuris := s.benuris.set b (f (s.benuri b)) }

def wave? (s : State) (k : WaveKey) : Option Wave := s.waves.find? (fun w => w.key == k)

/-- A wave, resident or saved with its team. -/
def anyWave? (s : State) (k : WaveKey) : Option Wave :=
  match s.wave? k with
  | some w => some w
  | none => s.teams.findSome? (fun t => t.saved.find? (fun w => w.key == k))

/-- The wave is resident, or saved with its team (R33). -/
def updWave (s : State) (k : WaveKey) (f : Wave → Wave) : State :=
  { s with
    waves := s.waves.map (fun w => if w.key = k then f w else w)
    teams := s.teams.map (fun t => { t with saved := t.saved.map (fun w => if w.key = k then f w else w) }) }

def team? (s : State) (gid n : Nat) : Option Team := s.teams.find? (fun t => t.gid == gid && t.num == n)

def updTeam (s : State) (gid n : Nat) (f : Team → Team) : State :=
  { s with teams := s.teams.map (fun t => if t.gid = gid ∧ t.num = n then f t else t) }

def grid? (s : State) (gid part : Nat) : Option Grid := s.grids.find? (fun g => g.gid == gid && g.part == part)

def updGrid (s : State) (gid part : Nat) (f : Grid → Grid) : State :=
  { s with grids := s.grids.map (fun g => if g.gid = gid ∧ g.part = part then f g else g) }

/-- The GTB in nanoseconds (R208): three cycles a nanosecond (R6) and the slew. -/
def gtb (s : State) : Nat := ((s.cyc / 3 : Nat) + s.gtbAdj).toNat

/-- A fresh handle. -/
def fresh (s : State) : Nat × State := (s.nextId, { s with nextId := s.nextId + 1 })

/-- A fresh free choice (log 1). -/
def freeBool (s : State) : Bool × State := (Config.freeBool s.freeCtr, { s with freeCtr := s.freeCtr + 1 })

def freeNat (s : State) : Nat × State := (Config.freeNat s.freeCtr, { s with freeCtr := s.freeCtr + 1 })

def freeBytes (s : State) (n : Nat) : List Byte × State :=
  ((List.range n).map (fun i => Config.freeByte (s.freeCtr + i)), { s with freeCtr := s.freeCtr + n })

def updEng (s : State) (c : Nat) (f : Engine → Engine) : State := s.updCore c (fun x => { x with eng := f x.eng })

end State

/-- The control word as the wave reads it: DIAG as its core stands, SBM 2 while it is 1 (R60, R115). -/
def State.seenWcw (s : State) (w : Wave) : Word :=
  if (s.core w.key.core).diag then (w.wcw &&& ~~~0x300#32) ||| 0x600#32 else w.wcw

/-- R2: the die of a compute core; Benuri core n is core 256 + n. -/
def dieOf (core : Nat) : Nat := if core < 256 then core / 48 else (core - 256) / 12

/-- R336: the partition of a die under the partition mode. -/
def partOfDie (mode die : Nat) : Nat :=
  match mode with
  | 0 => 0
  | 1 => die / 2
  | _ => die

def State.partOf (s : State) (core : Nat) : Nat := partOfDie s.root.mode (dieOf core)

/-- The model's handle of a grid: its 40-bit identifier is that of its partition (R345), so the partition stands above it.
Whatever software sees is the handle modulo 2^40. -/
def gridHandle (part id : Nat) : Nat := id % 2 ^ 40 + 2 ^ 40 * part

/-- The dies of a partition, ascending. -/
def State.diesOf (s : State) (p : Nat) : List Nat := [0, 1, 2, 3].filter (fun d => partOfDie s.root.mode d == p)

/-- The lowest core of a partition, for which its distributor writes completion objects. -/
def State.partCore (s : State) (p : Nat) : Nat := 48 * (s.diesOf p).headD 0

/-- The context descriptor as a number of 1024 bits (R337). -/
def State.ctxDesc (s : State) (p ctx : Nat) : Nat := s.mem.readNat ((s.part p).ctxBase.toNat + 128 * ctx) 128

/-! ## Program counters -/

def Pc.line (pc : Pc) : Nat := pc.toNat / 64 * 64

def Pc.slot (pc : Pc) : Nat := pc.toNat % 8

/-- R94: slot n + 1, or slot 0 of the next line. -/
def nextPc (pc : Pc) : Pc := if Pc.slot pc < 4 then pc + 1 else BitVec.ofNat 48 (Pc.line pc + 64)

/-- `n` slots further in sequential flow. -/
def pcAfter (pc : Pc) : Nat → Pc
  | 0 => pc
  | n + 1 => nextPc (pcAfter pc n)

/-- Slot bits 0-4 and bits [5:3] zero (R94, R95). -/
def pcFormed (pc : Nat) : Bool := decide (pc < 2 ^ 48) && decide (pc % 8 < 5) && decide (pc / 8 % 8 = 0)

/-- Position in sequential flow, for comparing two PCs. -/
def pcOrder (pc : Pc) : Nat := pc.toNat / 64 * 8 + Pc.slot pc

/-! ## A wave's registers -/

def vkey (n lane : Nat) : Nat := n * 96 + lane

def staleGet (l : List RegWr) (f : RegFile) (n lane : Nat) : Option Word :=
  (l.find? (fun r => r.file == f && r.n == n && r.lane == lane)).map (·.x)

namespace Wave

/-- Lane's quad still lives (R16); a lane of an ended quad reads 0 (R58, R130). -/
def quadLive (w : Wave) (q : Nat) : Bool :=
  match w.quads[q]? with
  | some x => !x.ended
  | none => false

/-- A vector register's value; an uncovered read in mode 0 may see the value before (R113). -/
def rdV (w : Wave) (n lane : Nat) : Word :=
  if w.quadLive (lane / 4) then
    match staleGet w.stale .vec n lane with
    | some x => x
    | none => SMap.get 0#32 w.vregs (vkey n lane)
  else 0

/-- s0-s59 general, s60-s62 the activity mask, s63 FSTAT (R50), as beat `beat` reads them (R113). -/
def rdSB (w : Wave) (n beat : Nat) : Word :=
  match staleGet w.stale .sca n beat with
  | some x => x
  | none =>
    if n = 60 then w.act.extractLsb' 0 32
    else if n = 61 then w.act.extractLsb' 32 32
    else if n = 62 then w.act.extractLsb' 64 32
    else if n = 63 then w.fstat.zeroExtend 32
    else SMap.get 0#32 w.sregs n

def rdS (w : Wave) (n : Nat) : Word := w.rdSB n 0

/-- p0 reads true (R52). -/
def rdP (w : Wave) (p lane : Nat) : Bool :=
  if p = 0 then true
  else
    match staleGet w.stale .pred p lane with
    | some x => x.getLsbD 0
    | none => SMap.get false w.preds (vkey p lane)

def wrV (w : Wave) (n lane : Nat) (x : Word) : Wave := { w with vregs := SMap.set 0#32 w.vregs (vkey n lane) x }

def wrP (w : Wave) (p lane : Nat) (b : Bool) : Wave :=
  if p = 0 then w else { w with preds := SMap.set false w.preds (vkey p lane) b }

/-- Bits of lanes that exist and have not ended (R15). -/
def writableLanes (w : Wave) : Mask := (BitVec.allOnes 96 >>> (96 - w.width)) &&& ~~~w.ended

/-- Writing s60-s62 writes the activity mask where it is writable (R15); s63 replaces the flags (R51), also for a write of it that
issued before and has not retired (R17). -/
def wrS (w : Wave) (n : Nat) (x : Word) : Wave :=
  if n = 63 then { w with fstat := x.extractLsb' 0 6, late := w.late.map (fun y => { y with fstat := none }) }
  else if 60 ≤ n then
    let sh := 32 * (n - 60)
    let part : Mask := (BitVec.allOnes 32).zeroExtend 96 <<< sh
    let new : Mask := (w.act &&& ~~~part) ||| ((x.zeroExtend 96 : Mask) <<< sh)
    { w with act := new &&& w.writableLanes }
  else { w with sregs := SMap.set 0#32 w.sregs n x }

def wr (w : Wave) (r : RegWr) : Wave :=
  match r.file with
  | .vec => if w.quadLive (r.lane / 4) then w.wrV r.n r.lane r.x else w
  | .sca => w.wrS r.n r.x
  | .pred => w.wrP r.n r.lane (r.x.getLsbD 0)

def wrAll (w : Wave) (l : List RegWr) : Wave := l.foldl wr w

/-- R51: flags are ORed in at retirement. -/
def orFlags (w : Wave) (f : FlagBits) : Wave := { w with fstat := w.fstat ||| f }

/-- R54: max with what stands, as non-negative F32 patterns. -/
def amaxMax (w : Wave) (k : Nat) (x : Word) : Wave :=
  if (SMap.get 0#32 w.amax k).toNat < x.toNat then { w with amax := SMap.set 0#32 w.amax k x } else w

def amaxAll (w : Wave) (l : List (Nat × Word)) : Wave := l.foldl (fun w p => w.amaxMax p.1 p.2) w

/-- The scoreboard mode of a control word as the wave sees it (R60). -/
def sbm (w : Wave) : Nat := if w.wcw.getLsbD 10 then 2 else (w.wcw.extractLsb' 8 2).toNat

def rm (w : Wave) : Nat := (w.wcw.extractLsb' 0 3).toNat

/-- The gang that holds quad `q`. -/
def gangOf (w : Wave) (q : Nat) : Option Gang := w.gangs.find? (fun g => g.quads.contains q)

def updGang (w : Wave) (q : Nat) (f : Gang → Gang) : Wave :=
  { w with gangs := w.gangs.map (fun g => if g.quads.contains q then f g else g) }

def pcOf (w : Wave) (q : Nat) : Pc := (w.quads.getD q { pc := 0, mask := 0, ended := true, stack := [] }).pc

def maskOf (w : Wave) (q : Nat) : BitVec 4 := (w.quads.getD q { pc := 0, mask := 0, ended := true, stack := [] }).mask

def updQuad (w : Wave) (q : Nat) (f : Quad → Quad) : Wave :=
  { w with quads := w.quads.modify q f }

def setPcs (w : Wave) (qs : List Nat) (pc : Pc) : Wave := qs.foldl (fun w q => w.updQuad q (fun x => { x with pc := pc })) w

/-- Lanes of a gang whose activity-mask bit and quad mask bit are set, ascending (R16, R138). -/
def liveLanes (w : Wave) (g : Gang) : List Nat :=
  (List.range 96).filter (fun l =>
    g.quads.contains (l / 4) && w.act.getLsbD l && (w.maskOf (l / 4)).getLsbD (l % 4) && decide (l < w.width))

end Wave

/-- A wave that runs a shipped section (R255). -/
def Wave.section? (w : Wave) : Bool := w.info.isSome

def laneMask (l : List Nat) : Mask := l.foldl (fun m i => m ||| ((1#96) <<< i)) 0

/-- The wave's team's engine lies on the team's core (R289). -/
def State.engineCore (s : State) (w : Wave) : Nat :=
  match s.team? w.grid w.team with
  | some t => t.core
  | none => w.key.core

/-! ## Gangs -/

/-- Splits a list of quads by PC, in ascending order of the quads (R18). -/
def groupByPc (w : Wave) : List Nat → List (Pc × List Nat)
  | [] => []
  | q :: t =>
    let rest := groupByPc w t
    let pc := w.pcOf q
    match rest.find? (fun p => p.1 == pc) with
    | some (_, qs) => (pc, q :: qs) :: rest.filter (fun p => p.1 != pc)
    | none => (pc, [q]) :: rest

/-- A gang splits into one gang for each distinct PC of its live quads (R18); ended quads leave. -/
def splitGang (w : Wave) (g : Gang) : List Gang :=
  (groupByPc w (g.quads.filter w.quadLive)).map (fun p => { g with quads := p.2 })

def Wave.resplit (w : Wave) : Wave := { w with gangs := (w.gangs.map (splitGang w)).flatten }

/-! ## Loop ends -/

/-- At the end E of the innermost level the counter falls; a level that closes lets the enclosing level that shares its E
take the same step (R139). Levels are innermost first; the innermost of n levels counts in lc(n-1). -/
def loopEnd (pc : Pc) : List (Pc × Pc) → SMap Word → List (Pc × Pc) × SMap Word × Pc
  | [], lc => ([], lc, nextPc pc)
  | (st, e) :: rest, lc =>
    if e = pc then
      let n := SMap.get 0#32 lc rest.length - 1
      let lc' := SMap.set 0#32 lc rest.length n
      if n = 0 then loopEnd pc rest lc' else ((st, e) :: rest, lc', st)
    else ((st, e) :: rest, lc, nextPc pc)

/-- Sequential flow of a gang at `pc`; true when a body end meets a wave of more than one gang (R139). No quad, no flow. -/
def Wave.flow (w : Wave) (quads : List Nat) (pc : Pc) : Wave × Bool :=
  match w.levels with
  | [] => (w.setPcs quads (nextPc pc), false)
  | (_, e) :: _ =>
    if quads.isEmpty then (w, false)
    else if e = pc then
      if w.gangs.length ≤ 1 then
        let r := loopEnd pc w.levels w.lc
        ({ w with levels := r.1, lc := r.2.1 }.setPcs quads r.2.2, false)
      else (w.setPcs quads (nextPc pc), true)
    else (w.setPcs quads (nextPc pc), false)

/-! ## Taking a trap -/

namespace Trap
def illegalOpcode : BitVec 8 := 0x01
def illegalField : BitVec 8 := 0x02
def illegalLine : BitVec 8 := 0x03
def branchTarget : BitVec 8 := 0x04
def stallUndersize : BitVec 8 := 0x05
def divergenceOverflow : BitVec 8 := 0x06
def loopBody : BitVec 8 := 0x07
def registerRange : BitVec 8 := 0x08
def userTrap : BitVec 8 := 0x09
def loadFault : BitVec 8 := 0x10
def storeFault : BitVec 8 := 0x11
def alignment : BitVec 8 := 0x12
def rangeConflict : BitVec 8 := 0x13
def secureAccess : BitVec 8 := 0x14
def handleStale : BitVec 8 := 0x15
def queueScope : BitVec 8 := 0x16
def shipTarget : BitVec 8 := 0x17
def shipAbort : BitVec 8 := 0x18
def illegalWait : BitVec 8 := 0x20
def starvation : BitVec 8 := 0x21
def clusterAbort : BitVec 8 := 0x22
def fpNanFirst : BitVec 8 := 0x30
def fpNanVector : BitVec 8 := 0x31
def matrixFormat : BitVec 8 := 0x32
def baton : BitVec 8 := 0x33
def copyFault : BitVec 8 := 0x40
def ioError : BitVec 8 := 0x41
def poison : BitVec 8 := 0x50
def machineCheck : BitVec 8 := 0x51
end Trap

/-- What an instruction tells of its trap; the PC is added where it is taken. -/
structure TrapInfo where
  code : BitVec 8
  mask : Mask := 0
  addr : Nat := 0
  det1 : Nat := 0
  det2 : Nat := 0
  deriving DecidableEq, Repr

def TrapInfo.at_ (t : TrapInfo) (pc : Pc) : TrapRec :=
  { code := t.code, mask := t.mask, addr := BitVec.ofNat 64 t.addr, det1 := BitVec.ofNat 32 t.det1,
    det2 := BitVec.ofNat 11 t.det2, pc := pc }

/-- The record's 256 bits (R370). -/
def TrapRec.bits (t : TrapRec) : Nat :=
  t.code.toNat + Pc.slot t.pc * 2 ^ 8 + (t.pc.toNat / 64) * 2 ^ 11 + t.det2.toNat * 2 ^ 53 + t.det1.toNat * 2 ^ 64
    + t.addr.toNat * 2 ^ 96 + t.mask.toNat * 2 ^ 160

/-- The entry's 512 bits (R374). -/
def TrapEntry.bits (e : TrapEntry) : Nat :=
  e.record.bits + (e.slot % 4) * 2 ^ 357 + (e.place % 32) * 2 ^ 359 + (e.kind % 4) * 2 ^ 364 + (e.ctx % 1024) * 2 ^ 366
    + (e.grid % 2 ^ 40) * 2 ^ 376 + (e.team % 2 ^ 32) * 2 ^ 416 + (e.gtb % 2 ^ 64) * 2 ^ 448

/-- Entries a trap queue holds: log2 from 4 to 12 (R369). -/
def ringCapacity (cfg : Word) : Nat := 2 ^ (max 4 (min 12 (cfg.toNat % 16)))

/-! ## Regions -/

/-- Number and state of the region of an address (R401): host memory is `space` 0, device memory 1. 1 is HOST. -/
def regionOf (l : SMap (BitVec 128)) (space addr : Nat) : Option (Nat × Nat) :=
  (l.find? (fun p =>
    let r := p.2.toNat
    let sz := field r 6 2
    r.testBit 64 && field r 67 67 == space && decide (12 ≤ sz) && decide (sz ≤ 21)
      && decide (field r 63 12 * 4096 / 2 ^ sz = addr / 2 ^ sz))).map (fun p => (p.1, p.2.toNat % 4))

/-- Number and state of the region of a place (R401); scratchpad and peer places lie in none. -/
def regionAt (s : State) (part : Nat) (t : Target) : Option (Nat × Nat) :=
  match t with
  | .dev pa => regionOf (s.part part).rgn 1 pa
  | .host _ a => regionOf (s.part part).rgn 0 a
  | _ => none

/-- The state a region is moving to. -/
def movingTo (s : State) (part n : Nat) : Option Nat :=
  let x := SMap.get 0 (s.part part).rgnNew n
  if x = 0 then none else some (x - 1)

/-- A region in SHARED that a device store meets (R403). -/
def sharedRegion (s : State) (part : Nat) (t : Target) : Option Nat :=
  match regionAt s part t with
  | some (n, 2) => some n
  | _ => none

/-- Regions of a partition that are CONTESTED or on their way to it. -/
def contestedCount (s : State) (part : Nat) : Nat :=
  ((s.part part).rgn.filter (fun (p : Nat × BitVec 128) =>
    p.2.getLsbD 64 && ((p.2.toNat % 4 == 3) || movingTo s part p.1 == some 3))).length

/-- A change of state begins: BUSY, and the state to come (R403). -/
def beginMove (s : State) (part n st : Nat) : State :=
  s.updPart part (fun p =>
    { p with
      rgn := SMap.set 0 p.rgn n (SMap.get 0 p.rgn n ||| (1#128 <<< 66)), rgnNew := SMap.set 0 p.rgnNew n (st + 1) })

/-- The automatic move to CONTESTED, or to HOST at the limit (R403). -/
def autoContest (s : State) (part n : Nat) : State :=
  if (movingTo s part n).isSome then s else beginMove s part n (if 256 ≤ contestedCount s part then 1 else 3)

/-- The partition and the SHARED region that a write by a block of the device, which belongs to no core, meets at a place. -/
def sharedAny (s : State) (t : Target) : Option (Nat × Nat) :=
  [0, 1, 2, 3].findSome? (fun p => (sharedRegion s p t).map (fun n => (p, n)))

/-- A write that meets a SHARED region moves it, and waits (R403). -/
def contestAt (s : State) (t : Target) : State :=
  match sharedAny s t with
  | some (p, n) => autoContest s p n
  | none => s

/-- A device line may be written by the device itself: its region is not SHARED (R403), no lease stands on it, and no store that has
arrived there is pending (R209, R212). -/
def State.lineFree (s : State) (pa : Nat) : Bool :=
  let d := SMap.get 0 s.eDev (pa / 128)
  let f := SMap.get 0 s.eFab (pa / 128)
  (d == 0 || decide (d + 4 ≤ s.gtb)) && (f == 0 || decide (f + 40 ≤ s.gtb)) && (sharedAny s (.dev pa)).isNone
    && s.mops.all (fun o => o.elems.all (fun e =>
      match e.phase, e.target with
      | .arrived _ _, some (.dev a) => a / 128 != pa / 128
      | _, _ => true))

/-! ## Errors to be recorded -/

/-- Records of one place (R395). -/
def sameSpot (a b : ErrRecord) : Bool :=
  a.kind == b.kind && a.die == b.die && a.unit == b.unit && a.index == b.index && a.bank == b.bank && a.paddr == b.paddr

/-- The root core has an error to record; a corrected one is folded into the record of its place while that one's second lasts (R395,
log 117). -/
def State.oweRecord (s : State) (r : ErrRecord) (part : Option Nat) : State :=
  let folds (d : ErrDue) : Bool :=
    r.kind == 1 && sameSpot d.record r && d.told.isEmpty && decide (s.gtb < d.record.egtb + 1000000000)
  let more (d : ErrDue) : ErrDue := { d with record := { d.record with count := (d.record.count + r.count) % 2 ^ 32 } }
  let l := s.root.errs
  let errs := if l.any folds then l.map (fun d => if folds d then more d else d) else l ++ [{ record := r, part := part, told := [] }]
  { s with root := { s.root with errs := errs } }

/-- An error of a core; where in the core, and its syndrome, the device alone knows (log 117). -/
def State.oweError (s : State) (kind core ctx : Nat) (part : Option Nat) : State :=
  let u := s.freeNat
  let b := u.2.freeNat
  let y := b.2.freeNat
  y.2.oweRecord
    { kind := kind, die := dieOf core, unit := 1 + u.1 % 6, index := core % 256, bank := b.1 % 2 ^ 32, paddr := 0, synd := y.1 % 2 ^ 64, ctx := ctx,
      count := 1, egtb := s.gtb } part

/-- A soft error in a core is corrected, counted and reported (R392). -/
def State.correctedIn (s : State) (core : Nat) : State :=
  (s.oweError 1 core 0xFFFFFFFF (some (s.partOf core))).updCore core (fun x => { x with cecnt := x.cecnt + 1 })

/-- Writes waiting trap entries while the ring has room and the entry's line may be written (R374 step 3, R209). -/
def drainTrapQueue (s : State) (c : Nat) : Nat → State
  | 0 => s
  | fuel + 1 =>
    let x := s.core c
    match x.tqWait with
    | [] => s
    | e :: rest =>
      let cap := ringCapacity x.tqCfg
      let a := x.tqBase.toNat + 64 * (x.tqTail.toNat % cap)
      if cap ≤ (x.tqTail - x.tqHead).toNat then s
      else if s.lineFree a then
        let s := { s with mem := s.mem.writeNat a 64 (TrapEntry.bits { e with gtb := s.gtb }) }
        drainTrapQueue (s.updCore c (fun x => { x with tqWait := rest, tqTail := x.tqTail + 1 })) c fuel
      else contestAt s (.dev a)

/-- Appends an entry to a core's trap queue. Poison that a context has consumed is an error to be recorded (R392, R395). -/
def postTrap (s : State) (c : Nat) (e : TrapEntry) : State :=
  let s := if e.record.code = Trap.poison then s.oweError 3 c e.ctx (some (s.partOf c)) else s
  let s := s.updCore c (fun x => { x with tqWait := x.tqWait ++ [e] })
  drainTrapQueue s c (s.core c).tqWait.length

/-- A trap-queue entry of a team or an engine (KIND 1 or 2). -/
def postEvent (s : State) (c kind : Nat) (ctx gid team : Nat) (slot place : Nat) (r : TrapRec) : State :=
  postTrap s c
    { record := r, gtb := s.gtb, team := team, grid := gid, ctx := ctx, kind := kind, place := place, slot := slot }

/-- R374 step 1: a blocking instruction that has not completed returns to the unissued state. SHIP keeps waiting; SLEEP and
COMBCFG, which the rule does not name, run to completion. -/
def Gang.unissue (g : Gang) : Gang :=
  let wait : Wait :=
    match g.wait with
    | .ship id => .ship id
    | .sleep t => .sleep t
    | .comb b d => .comb b d
    | _ => .none
  { g with wait := wait, released := false, bound := none, stalledAt := none, hist := [], last := none }

/-- Progress events restart the starvation timer (R361). -/
def Wave.progress (w : Wave) : Wave := { w with starv := 0 }

/-- Kernels and sections of a context's code objects. -/
def State.kernels (s : State) (ctx : Nat) : List Kernel := (s.codeObjs.filter (fun o => o.ctx == ctx)).flatMap (·.kernels)

/-- The code object of a grid's kernel. -/
def State.objectOf (s : State) (g : Grid) : Option CodeObj := s.codeObjs.find? (fun o => o.ctx == g.ctx && o.kernels.contains g.kernel)

/-- An entry of a side table, as its 128 bits lay it out (R119). -/
def sideEntry (x : BitVec 128) : SideEntry :=
  { pc := x.extractLsb' 0 48, nv := x.extractLsb' 48 8, np := x.extractLsb' 56 8, ns := x.extractLsb' 64 7, rsvLo := x.getLsbD 71
    tiles := x.extractLsb' 72 16, llv := x.extractLsb' 88 2, rsvMid := x.extractLsb' 90 6, b0l := x.getLsbD 96, b1l := x.getLsbD 97
    al := x.getLsbD 98, ql := x.getLsbD 99, rsvHi := x.extractLsb' 100 28 }

/-- The side table of a grid's code object; empty without one. -/
def State.sideOf (s : State) (g : Grid) : List SideEntry := ((s.objectOf g).map (fun o => o.side.map sideEntry)).getD []

/-- A wave whose wait completes becomes Pending (R352). -/
def Wave.unblock (w : Wave) : Wave := if w.sched = .blocked then { w with sched := .pending } else w

/-- A blocking wait of R29; ACCWAIT is one by R316. -/
def Wait.blocks : Wait → Bool
  | .barrier _ _ => true
  | .queue _ _ _ _ => true
  | .waitb _ => true
  | .tbwait _ _ _ => true
  | .launch _ _ => true
  | .ship _ => true
  | .baton => true
  | .acc _ _ => true
  | _ => false

/-- A wait completes: the gang's PC goes on (R146, R219), and the starvation timer restarts if it was a blocking wait (R361). A body
end in a split wave leaves the gang to trap at its next issue, which `Wave.flow` reports. -/
def Wave.completeWait (w : Wave) (q : Nat) : Wave :=
  match w.gangOf q with
  | none => w
  | some g =>
    let r := w.flow g.quads (w.pcOf q)
    let r1 := if r.2 then
        { r.1 with async := r.1.async ++
          [{ prio := 6, next := false,
             record := ({ code := Trap.loopBody, mask := laneMask (w.liveLanes g), det1 := 3 } : TrapInfo).at_ (nextPc (w.pcOf q)) }] }
      else r.1
    let r2 := r1.updGang q (fun g => { g with wait := .none, yielding := false, released := false, bound := none, replay := none, owed := none })
    (if g.wait.blocks then r2.progress else r2).unblock

def Wait.isBaton : Wait → Bool
  | .baton => true
  | _ => false

/-- Some gang of the wave waits in BTAKE. -/
def Wave.wantsBaton (w : Wave) : Bool := w.gangs.any (fun g => g.wait.isBaton)

/-- Buffers that another team than `owner` filled lose their valid bit (R293). -/
def Engine.disown (e : Engine) (owner : Nat × Nat) : Engine :=
  let clear (b : BBuf) : BBuf := if b.owner = some owner then b else { b with valid := false }
  { e with b0 := clear e.b0, b1 := clear e.b1 }

/-- A mark in the engine's list, which takes effect when it comes to the head. -/
def markCmd (gid team : Nat) (k : CmdKind) : Cmd :=
  { id := 0, w := ⟨0, 0, 0⟩, gid := gid, team := team, ctx := 0, pc := 0, seq := 0, ntm := false, kind := k, started := false,
    granule := 0, seen := [], stop := none }

/-- A team's saved buffers and commands come back to the engine (R309). -/
def restoreEngine (s : State) (c gid team : Nat) : State :=
  match s.team? gid team with
  | none => s
  | some t =>
    if t.savedBufs.isEmpty && t.savedCmds.isEmpty then s
    else
      (s.updEng c (fun e => { e with cmds := e.cmds ++ markCmd gid team (.restore t.savedBufs) :: t.savedCmds })).updTeam gid team
        (fun t => { t with savedBufs := [], savedCmds := [] })

/-- With the baton free, resumed teams of which no wave asks for it have their buffers and commands back as if it had been granted to
them: the rule speaks of a first grant, which there is not (R309, log 112). -/
def restoreIdle (s : State) (c : Nat) : State :=
  (s.teams.filter (fun t => t.core == c && t.res == .resident && !(t.savedBufs.isEmpty && t.savedCmds.isEmpty))).foldl (fun s t =>
    restoreEngine (s.updEng c (fun e => { e with cmds := e.cmds ++ [markCmd t.gid t.num (.inval (t.gid, t.num))] })) c t.gid t.num) s

/-- Every gang that waits in BTAKE goes on: the instruction acts for the whole wave (R292). -/
def Wave.batonGiven (w : Wave) : Wave :=
  ((w.gangs.filter (fun g => g.wait.isBaton)).map (fun g => g.quads.headD 0)).foldl Wave.completeWait { w with rejoin := false }

/-- A place in the queue; requests of one cycle stand in the order of core, slot and place (R291). -/
def joinQueue (k : WaveKey) (cyc : Nat) : List (WaveKey × Nat) → List (WaveKey × Nat)
  | [] => [(k, cyc)]
  | x :: t =>
    let order (k : WaveKey) : Nat := (k.core * 4 + k.slot) * 32 + k.place
    if x.2 = cyc ∧ order k < order x.1 then (k, cyc) :: x :: t else x :: joinQueue k cyc t

/-- Without a wave's request. -/
def Engine.unqueue (e : Engine) (k : WaveKey) : Engine := { e with queue := e.queue.filter (fun x => x.1 != k) }

/-- The baton goes to a wave: BTAKE completes, or the wave that lost it may issue again (R291, R295). A wave saved with its
team has no place on a core; for it the baton is held (R292). -/
def grantBaton (s : State) (c : Nat) (k : WaveKey) : State :=
  match s.wave? k with
  | none => s.updEng c (fun e => { e.unqueue k with baton := if k.slot < 4 then none else some k })
  | some w =>
    let owner := (w.grid, w.team)
    let s := s.updEng c (fun e =>
      { e with
        baton := some k, queue := (e.unqueue k).queue, grantedAt := s.gtb, budget := e.nextBudget
        cmds := e.cmds ++ [markCmd w.grid w.team (.inval owner)] })
    let s := restoreEngine s c w.grid w.team
    s.updWave k Wave.batonGiven

/-- The baton passes: to the named waiter, else to the head of the queue, else it is free (R293). -/
def passBaton (s : State) (c : Nat) (named : Option WaveKey) : State :=
  let e := (s.core c).eng
  let next : Option WaveKey :=
    match named with
    | some k =>
      if e.queue.any (fun x => x.1 == k) && (s.wave? k).any Wave.wantsBaton then some k else e.queue.head?.map (·.1)
    | none => e.queue.head?.map (·.1)
  match next with
  | none => restoreIdle (s.updEng c (fun e => { e with baton := none })) c
  | some k => grantBaton s c k

/-- A wave asks for the baton: granted when it is free, else the wave joins the queue (R291). -/
def takeBaton (s : State) (c : Nat) (k : WaveKey) : State :=
  match (s.core c).eng.baton with
  | none => grantBaton s c k
  | some _ => s.updEng c (fun e => if e.queue.any (fun x => x.1 == k) then e else { e with queue := joinQueue k s.cyc e.queue })

/-- A wave that stops, ends or is saved gives up the baton, or its place in the queue (R291). -/
def releaseBaton (s : State) (k : WaveKey) : State :=
  match s.wave? k with
  | none => s
  | some w =>
    let c := s.engineCore w
    let e := (s.core c).eng
    if e.baton = some k then passBaton s c none else s.updEng c (fun e => e.unqueue k)

/-- A wave that lost the baton asks for it again (R295). -/
def rejoinBaton (s : State) (k : WaveKey) : State :=
  match s.wave? k with
  | some w => if w.rejoin then takeBaton s (s.engineCore w) k else s
  | none => s

/-- A section ends: every lane, with its status and results (R257, R260). The first end stands. -/
def endSection (s : State) (k : WaveKey) (status : Nat) (results : List Word) : State :=
  s.updWave k (fun w =>
    { w with
      act := 0, quads := w.quads.map (fun q => { q with ended := true, mask := 0, stack := [] }), gangs := [], pend := []
      info := w.info.map (fun i => if i.outcome.isSome then i else { i with outcome := some (status, results) }) })

/-- THE taking of a trap by a wave (R374): every gang stops, waits return to the unissued state, the record is saved, the
baton passes and the trap-queue entry is posted. A section that traps is aborted instead (R260). RESUME continues at the quads' PCs as
PWSTATE holds them (R375). -/
def park (s : State) (k : WaveKey) (r : TrapRec) : State :=
  match s.wave? k with
  | none => s
  | some w =>
    if w.section? then
      let s := if r.code = Trap.poison then s.oweError 3 k.core w.ctx (some (s.partOf k.core)) else s
      endSection s k (0x100 + r.code.toNat) []
    else
    let held := (s.core (s.engineCore w)).eng.baton == some k
    let s := s.updWave k (fun w =>
      { w with
        gangs := w.gangs.map Gang.unissue, trap := some r, sched := .trapped, starv := 0, stale := []
        rejoin := w.rejoin || (held && !(r.code == Trap.baton && r.det1 == 2)) })
    let s := releaseBaton s k
    postTrap s k.core
      { record := r, gtb := s.gtb, team := w.team, grid := w.grid, ctx := w.ctx, kind := 0, place := k.place,
        slot := k.slot }


/-- An asynchronous report waits for the wave's next issue boundary (R374). -/
def reportAt (s : State) (k : WaveKey) (prio : Nat) (next : Bool) (r : TrapRec) : State :=
  s.updWave k (fun w => { w with async := w.async ++ [{ prio := prio, next := next, record := r }] })

/-- Reports whose record names the first unissued instruction (R371). -/
def Trap.atNext (code : BitVec 8) : Bool :=
  code == Trap.machineCheck || code == Trap.clusterAbort || code == Trap.starvation || code == Trap.baton

def report (s : State) (k : WaveKey) (prio : Nat) (r : TrapRec) : State := reportAt s k prio (Trap.atNext r.code) r

/-! ## Time -/

/-- A blocking wait of R29, or SLEEP: what `.blk` counts (R170). -/
def Wait.blocking (w : Wait) : Bool :=
  w.blocks || match w with | .sleep _ => true | _ => false

/-- Waits for which the starvation timer stands (R361). -/
def Wait.untimed (w : Wait) : Bool :=
  w.blocking ||
    match w with
    | .fence _ _ _ => true
    | .drain _ _ _ => true
    | .drainst _ => true
    | .comb _ _ => true
    | _ => false

/-- Every gang of the wave waits in the given way. -/
def Wave.allGangs (w : Wave) (p : Wait → Bool) : Bool := w.gangs.all (fun g => p g.wait) && !w.gangs.isEmpty

/-- A write of s63 stands for a retirement; flags are ORed into what stands then (R51). -/
def Wave.retire (w : Wave) (x : Late) : Wave :=
  let v := match x.fstat with | some y => { w with fstat := y.extractLsb' 0 6 } | none => w
  (v.orFlags x.flags).amaxAll x.amax

/-- In the order of their retirement, and of their issue within a cycle. -/
def insertLate (x : Late) : List Late → List Late
  | [] => [x]
  | y :: t => if x.left < y.left then x :: y :: t else y :: insertLate x t

def sortLate (l : List Late) : List Late := l.foldl (fun a x => insertLate x a) []

/-- What retires within `n` cycles has its effect (R51, R90). -/
def Wave.retireIn (n : Nat) (w : Wave) : Wave :=
  (sortLate (w.late.filter (fun x => decide (x.left ≤ n)))).foldl Wave.retire
    { w with late := (w.late.filter (fun x => decide (n < x.left))).map (fun x => { x with left := x.left - n }) }

/-- Everything under way in the pipes has retired, and the wave issues again only when its other results are written as well (R114). -/
def Wave.retireAll (w : Wave) : Wave := (sortLate w.late).foldl Wave.retire { w with late := [], settling := true }

/-- The wave issues again (R375): what was pending completes first (R114), the trap record goes, gangs form by PC (R376). -/
def unpark (s : State) (k : WaveKey) : State :=
  rejoinBaton (s.updWave k (fun w =>
    { w.retireAll with trap := none, fetchFault := false, engStop := none, sched := .pending, starv := 0 }.resplit)) k

def Wave.tick (n : Nat) (w : Wave) : Wave :=
  let w := if w.late.isEmpty then w else w.retireIn n
  { w with
    cntRes := w.cntRes + n
    cntBlk := if w.allGangs Wait.blocking then w.cntBlk + n else w.cntBlk
    starv :=
      if w.allGangs Wait.untimed || w.sched == .trapped || w.sched == .held then w.starv else w.starv + n }

/-- `n` cycles of the arithmetic clock pass; a dirty sector leaves within 64 of them (R205). -/
def State.advance (s : State) (n : Nat) : State :=
  { s with
    cyc := s.cyc + n, waves := s.waves.map (Wave.tick n)
    mops := s.mops.map (fun o =>
      { o with
        elems := o.elems.map (fun e =>
          match e.phase with
          | .dirty t => if t + 64 ≤ s.cyc + n then { e with phase := .sent } else e
          | _ => e) }) }

end Sys2Proof.Machine
end

