-- ==== Sys2Proof/Machine/Operands.lean ====
section
/-! DEFINITION. Operand forms: which register files and permutations a field admits (02 R44-R58, 04 R101, R108), what an
instruction reads and writes (04 R113, R116), and how an operand's value is read (02 R58, 03 R72, 04 R102). -/

namespace Sys2Proof.Machine

/-! ## Footprints -/

/-- Registers an instruction reads or writes: `cnt` registers from `n`. Vector numbers from 240 are queue ports (R49); with
`cnt` 0, a port that a queue instruction names. -/
structure Opnd where
  file : RegFile
  n : Nat
  cnt : Nat
  deriving DecidableEq, Repr

def Opnd.vec (n cnt : Nat) : Opnd := ⟨.vec, n, cnt⟩
def Opnd.sca (n cnt : Nat) : Opnd := ⟨.sca, n, cnt⟩
def Opnd.pred (n cnt : Nat) : Opnd := ⟨.pred, n, cnt⟩

def Opnd.isPort (o : Opnd) : Bool := o.file == .vec && decide (240 ≤ o.n)

def Opnd.keys (o : Opnd) : List RegKey :=
  if o.isPort then [] else (List.range o.cnt).map (fun i => ⟨o.file, o.n + i⟩)

/-- What R108 and R111-R116 need to know of an instruction. -/
structure Sig where
  /-- Each field's highest bit and whether the field is legal, from bit 95 down. -/
  legal : List (Nat × Bool)
  dst : List Opnd
  srcs : List Opnd
  /-- Source fields that name a port: position 0-2 and register number. -/
  pops : List (Nat × Nat)
  /-- Fixed latency L; 0 when the result is scoreboarded or there is none. -/
  lat : Nat
  sb : Bool
  /-- Uses the vector pipe with a scalar destination as well (R116). -/
  pipe : Bool
  /-- Barred from pairing (R116); a branch may stand second. -/
  control : Bool
  branch : Bool
  /-- One of the instructions of R115. -/
  native64 : Bool
  /-- REGANG (R114). -/
  regang : Bool := false
  deriving DecidableEq, Repr

/-- The first illegal field's highest bit (R108). -/
def firstIllegal : List (Nat × Bool) → Option Nat
  | [] => none
  | (b, ok) :: t => if ok then firstIllegal t else some b

/-! ## Sources -/

/-- Legal permutation kind and parameter for the wave's width (R58). -/
def permOk (w16 : Bool) (s : Src) : Bool :=
  let k := s.k.toNat
  match s.kind.toNat with
  | 0 => k == 0
  | 1 | 2 | 3 | 6 => decide (k < if w16 then 16 else 32)
  | 4 => decide (1 ≤ k) && decide (k ≤ if w16 then 4 else 5)
  | 5 => decide (k < 4)
  | _ => false

def srcZero (s : Src) : Bool := s.reg == 0 && s.kind == 0 && s.k == 0

/-- How an instruction uses a source field. -/
inductive SrcUse where
  /-- Unused: all zero, scalar-file bit zero (R101). -/
  | unused
  /-- A vector register, port or scalar of 32 bits, or a pair; with a scalar destination it must be a scalar (R128). -/
  | reg (wide : Bool)
  /-- As `reg`, free of the rule of R128. -/
  | any (wide : Bool)
  | sca (wide : Bool)
  | vec (wide : Bool)
  /-- A window of `cnt` vector registers; the base is a multiple of `align`. A window of single registers that reaches 240 is out of
  range (R44); a single one may be a port, if its field may be permuted; with `noPort` neither holds (R49, R237). -/
  | win (cnt align : Nat) (perm noPort : Bool)
  /-- A predicate number in the register bits (R52). -/
  | pred
  | port
  /-- A small-matrix window from an even base (R63): one that reaches 240 is out of range. -/
  | mx (cnt : Nat)
  /-- Carries a value of its own; whether it is legal. -/
  | field (ok : Bool)
  deriving DecidableEq, Repr

/-- A vector field: a port is single and unpermuted, a pair is even (R44, R48, R49, R58). -/
def vecOk (w16 : Bool) (wide : Bool) (s : Src) : Bool :=
  if 240 ≤ s.reg.toNat then !wide && s.kind == 0 && s.k == 0
  else permOk w16 s && (!wide || s.reg.toNat % 2 == 0)

/-- A scalar field (R50, R101). -/
def scaOk (wide : Bool) (s : Src) : Bool :=
  decide (s.reg.toNat < 64) && s.kind == 0 && s.k == 0 && (!wide || s.reg.toNat % 2 == 0)

/-- Whether the field and its scalar-file bit are legal. -/
def SrcUse.ok (u : SrcUse) (w16 strict scl : Bool) (s : Src) : Bool × Bool :=
  match u with
  | .unused => (srcZero s, !scl)
  | .reg wide => (if scl then scaOk wide s else !strict && vecOk w16 wide s, true)
  | .any wide => (if scl then scaOk wide s else vecOk w16 wide s, true)
  | .sca wide => (scl && scaOk wide s, true)
  | .vec wide => (!scl && vecOk w16 wide s, true)
  | .win cnt align perm noPort =>
    (!scl && decide (s.reg.toNat % align = 0)
      && decide (s.reg.toNat < 240 ∨ (noPort = false ∧ (cnt = 1 → perm = true ∧ s.kind = 0 ∧ s.k = 0)))
      && (if perm then permOk w16 s else s.kind == 0 && s.k == 0), true)
  | .pred => (!scl && decide (s.reg.toNat < 128) && s.kind == 0 && s.k == 0, true)
  | .port => (!scl && decide (240 ≤ s.reg.toNat) && s.kind == 0 && s.k == 0, true)
  | .mx _ => (!scl && s.reg.toNat % 2 == 0 && s.kind == 0 && s.k == 0, true)
  | .field ok => (ok, !scl)

/-- With a TYPE that the instruction does not accept, no field is judged as a pair (log 14). -/
def SrcUse.sized (u : SrcUse) (ty : Bool) : SrcUse :=
  match u with
  | .reg w => .reg (w && ty)
  | .any w => .any (w && ty)
  | .sca w => .sca (w && ty)
  | .vec w => .vec (w && ty)
  | u => u

def mxOpnd (n cnt : Nat) : Opnd := .vec n (if 240 ≤ n then max cnt 2 else cnt)

def SrcUse.opnd (u : SrcUse) (scl : Bool) (s : Src) : List Opnd :=
  let n := s.reg.toNat
  match u with
  | .unused => []
  | .reg wide | .any wide => if scl then [.sca n (if wide then 2 else 1)] else [.vec n (if wide then 2 else 1)]
  | .sca wide => [.sca n (if wide then 2 else 1)]
  | .vec wide => [.vec n (if wide then 2 else 1)]
  | .win cnt _ _ _ => [.vec n cnt]
  | .pred => [.pred n 1]
  | .port => [.vec n 0]
  | .mx cnt => [mxOpnd n cnt]
  | .field _ => []

def portPops (l : List (Nat × List Opnd)) : List (Nat × Nat) :=
  (l.map (fun p => (p.2.filter (fun o => o.isPort && o.cnt == 1)).map (fun o => (p.1, o.n)))).flatten

/-! ## Destinations -/

inductive DstUse where
  | none
  /-- A vector register, port or, with DS, a scalar. -/
  | reg (wide : Bool)
  /-- `cnt` vector registers from a multiple of `align`. A window of single registers that reaches 240 is out of range (R44); a single
  one may be a port; with `noPort` neither holds (R49, R237). -/
  | vec (cnt align : Nat) (noPort : Bool)
  /-- `cnt` scalars from a multiple of `align`, the last at most `last`. -/
  | sca (cnt align last : Nat)
  | pred
  /-- Any other use of the field: whether it is legal, and what it writes. -/
  | other (ok : Bool) (l : List Opnd)
  deriving DecidableEq, Repr

def DstUse.ok (u : DstUse) (ds : Bool) (d : BitVec 8) : Bool :=
  let n := d.toNat
  match u with
  | .none => n == 0
  | .reg wide =>
    if ds then decide (n < 64) && (!wide || n % 2 == 0)
    else if 240 ≤ n then !wide else !wide || n % 2 == 0
  | .vec _ align noPort => decide (n % align = 0) && (decide (n < 240) || !noPort)
  | .sca cnt align last => decide (n % align = 0) && decide (n + cnt ≤ last + 1)
  | .pred => decide (n < 128)
  | .other ok _ => ok

def DstUse.sized (u : DstUse) (ty : Bool) : DstUse :=
  match u with
  | .reg w => .reg (w && ty)
  | u => u

def DstUse.opnd (u : DstUse) (ds : Bool) (d : BitVec 8) : List Opnd :=
  let n := d.toNat
  match u with
  | .none => []
  | .reg wide => if ds then [.sca n (if wide then 2 else 1)] else [.vec n (if wide then 2 else 1)]
  | .vec cnt _ _ => [.vec n cnt]
  | .sca cnt _ _ => [.sca n cnt]
  | .pred => if n = 0 then [] else [.pred n 1]
  | .other _ l => l

/-- Whether a destination takes DS = 1, DS = 0, or either. -/
inductive DsUse where
  | zero
  | one
  | either
  deriving DecidableEq, Repr

def DsUse.ok (u : DsUse) (ds : Bool) : Bool :=
  match u with
  | .zero => !ds
  | .one => ds
  | .either => true

/-! ## Signatures -/

def guardOpnd (h : Hdr) : List Opnd := if h.gp = 0 then [] else [.pred h.gp.toNat 1]

/-- GP and GN are 0 where an instruction is not guarded. -/
def guardFields (h : Hdr) (guarded : Bool) : List (Nat × Bool) :=
  if guarded then [] else [(81, h.gp == 0), (74, !h.gn)]

/-- What an instruction of formats A and I lets its fields be. -/
structure UseA where
  dst : DstUse := .none
  a : SrcUse := .unused
  b : SrcUse := .unused
  c : SrcUse := .unused
  ty : Bool
  rnd : Bool
  sat : Bool
  ds : DsUse := .zero
  sub : Bool
  lat : Nat := 0
  sb : Bool := false
  pipe : Bool := false
  guarded : Bool := true
  control : Bool := false
  branch : Bool := false
  native64 : Bool := false
  more : List Opnd := []

/-- Every field of MOD zero. -/
def plainMod (m : Mod) : UseA := { ty := m.ty == 0, rnd := m.rnd == 0, sat := !m.sat, sub := m.sub == 0 }

/-- Class A with a permuted source takes class-B latency (R59). -/
def permLat (lat : Nat) (perm : Bool) : Nat := if lat = 2 && perm then 4 else lat

def sigA (w16 : Bool) (h : Hdr) (f : FmtA) (u : UseA) : Sig :=
  let m := f.m
  let strict := m.ds && u.ds != .zero
  let a := (u.a.sized u.ty).ok w16 strict m.sa f.sa
  let b := (u.b.sized u.ty).ok w16 strict m.sb f.sb
  let c := (u.c.sized u.ty).ok w16 strict m.sc f.sc
  let oa := u.a.opnd m.sa f.sa
  let ob := u.b.opnd m.sb f.sb
  let oc := u.c.opnd m.sc f.sc
  { legal := guardFields h u.guarded ++
      [(73, (u.dst.sized u.ty).ok m.ds h.dst), (65, a.1), (49, b.1), (33, c.1), (17, u.ty), (12, u.rnd), (9, u.sat),
       (8, a.2 && b.2 && c.2), (5, u.ds.ok m.ds), (4, u.sub)]
    dst := u.dst.opnd m.ds h.dst
    srcs := oa ++ ob ++ oc ++ u.more ++ guardOpnd h
    pops := portPops [(0, oa), (1, ob), (2, oc)]
    lat := permLat u.lat (f.sa.kind != 0 || f.sb.kind != 0 || f.sc.kind != 0)
    sb := u.sb, pipe := u.pipe, control := u.control, branch := u.branch, native64 := u.native64 }

/-- Format I: `imm` gives the fields of the immediate by their highest word bit. -/
def sigI (w16 : Bool) (h : Hdr) (f : FmtI) (u : UseA) (imm : List (Nat × Bool)) : Sig :=
  let m := f.m
  let a := (u.a.sized u.ty).ok w16 (m.ds && u.ds != .zero) m.sa f.sa
  let oa := u.a.opnd m.sa f.sa
  { legal := guardFields h u.guarded ++
      [(73, (u.dst.sized u.ty).ok m.ds h.dst), (65, a.1)] ++ imm
        ++ [(17, u.ty), (12, u.rnd), (9, u.sat), (8, a.2 && !m.sb && !m.sc), (5, u.ds.ok m.ds), (4, u.sub)]
    dst := u.dst.opnd m.ds h.dst
    srcs := oa ++ u.more ++ guardOpnd h
    pops := portPops [(0, oa)]
    lat := permLat u.lat (f.sa.kind != 0)
    sb := u.sb, pipe := u.pipe, control := u.control, branch := u.branch, native64 := u.native64 }

/-- What an instruction of format M lets its fields be. `base` is legal unless the instruction uses none. -/
structure UseM where
  dst : DstUse := .none
  useBase : Bool := true
  data : SrcUse := .unused
  dataSca : Bool := false
  ofs : Bool := true
  ty : Bool
  scope : Bool
  order : Bool
  space : Bool
  /-- Acts per issue: SBASE is 1 (R235). -/
  perIssue : Bool := false
  sub : Bool
  sb : Bool := false
  pipe : Bool := false
  more : List Opnd := []

/-- The base field: a pair, or a single register for `c:` (R99). -/
def baseUse (m : ModM) : SrcUse :=
  if m.sbase then .sca (m.space != 1#2) else .vec (m.space != 1#2)

def sigM (w16 : Bool) (h : Hdr) (f : FmtM) (u : UseM) : Sig :=
  let m := f.m
  let au : SrcUse := if u.useBase then baseUse m else .unused
  let a := if u.useBase then (au.ok w16 false m.sbase f.sa).1 else srcZero f.sa
  let b := (u.data.sized u.ty).ok w16 false u.dataSca f.sb
  let oa := au.opnd m.sbase f.sa
  let ob := u.data.opnd u.dataSca f.sb
  { legal :=
      [(73, (u.dst.sized u.ty).ok false h.dst), (65, a), (49, b.1), (33, u.ofs || f.ofs == 0),
       (17, u.ty), (12, u.scope), (9, u.order), (7, u.space), (5, if u.perIssue then m.sbase else u.useBase || !m.sbase),
       (4, u.sub)]
    dst := u.dst.opnd false h.dst
    srcs := oa ++ ob ++ u.more ++ guardOpnd h
    pops := portPops [(0, oa), (1, ob)]
    lat := 0, sb := u.sb, pipe := u.pipe, control := false, branch := false, native64 := false }

/-- What an instruction of format X lets its fields be. -/
structure UseX where
  dst : DstUse := .none
  a : SrcUse := .unused
  b : SrcUse := .unused
  c : SrcUse := .unused
  ty : Bool
  tile : Bool
  aux : Bool
  sub3 : Bool
  lat : Nat := 0
  sb : Bool := false
  pipe : Bool := false
  more : List Opnd := []
  /-- Legality of a source field beyond its use. -/
  aOk : Bool := true
  bOk : Bool := true
  cOk : Bool := true

def sigX (w16 : Bool) (h : Hdr) (f : FmtX) (u : UseX) : Sig :=
  let m := f.m
  let a := u.a.ok w16 false m.sa f.sa
  let b := u.b.ok w16 false m.sb f.sb
  let c := u.c.ok w16 false m.sc f.sc
  let oa := u.a.opnd m.sa f.sa
  let ob := u.b.opnd m.sb f.sb
  let oc := u.c.opnd m.sc f.sc
  { legal :=
      [(73, u.dst.ok false h.dst), (65, a.1 && u.aOk), (49, b.1 && u.bOk), (33, c.1 && u.cOk), (17, u.ty), (12, u.tile),
       (8, a.2 && b.2 && c.2), (5, u.aux), (2, u.sub3)]
    dst := u.dst.opnd false h.dst
    srcs := oa ++ ob ++ oc ++ u.more ++ guardOpnd h
    pops := portPops [(0, oa), (1, ob), (2, oc)]
    lat := permLat u.lat (f.sa.kind != 0 || f.sb.kind != 0 || f.sc.kind != 0)
    sb := u.sb, pipe := u.pipe, control := false, branch := false, native64 := false }

/-- A scope code (R107). -/
def scopeOk (m : ModM) : Bool := m.scope != 7#3

/-! ## The issuing gang -/

/-- A gang at its issue: the wave with its latch and stale values set, the PC, the live lanes and the lanes of `active()`
(R16), ascending. -/
structure Ctx where
  k : WaveKey
  w : Wave
  g : Gang
  q : Nat
  pc : Pc
  live : List Nat
  lanes : List Nat
  deriving DecidableEq, Repr

def Ctx.core (c : Ctx) : Nat := c.k.core

def Ctx.w16 (c : Ctx) : Bool := c.w.width == 16

/-- Key of a latched pop: the instruction and its source position (R49). -/
def latchKey (pc : Pc) (i : Nat) : Nat := pc.toNat * 4 + i

def latchGet (w : Wave) (pc : Pc) (i lane : Nat) : Option Word :=
  match w.latch.find? (fun p => p.1 == latchKey pc i) with
  | some p => (p.2.find? (fun r => r.1 == lane)).map (·.2)
  | none => none

/-- The lane that a permuted source reads; none is the value 0 of SHD (R58). -/
def permLane (w16 : Bool) (s : Src) (lane : Nat) : Option Nat :=
  let n := if w16 then 16 else 32
  let i := lane % n
  let base := lane - i
  let k := s.k.toNat
  match s.kind.toNat with
  | 1 => some (base + (i + k) % n)
  | 2 => some (base + k)
  | 3 => some (base + (i ^^^ k))
  | 4 => some (base + (i ^^^ (2 ^ k - 1)))
  | 5 => some (base + (4 * (i / 4) + k))
  | 6 => if n ≤ i + k then none else some (base + (i + k))
  | _ => some lane

/-- Register `s.reg + ofs` as source `i` of a lane. A lane that is not active popped nothing at a port, and SHFL may read it: that value is
free (R49, R166, log 130). -/
def Ctx.regAt (c : Ctx) (i : Nat) (scl : Bool) (s : Src) (ofs lane : Nat) : Word :=
  if scl then c.w.rdSB (s.reg.toNat + ofs) (lane / 32)
  else if 240 ≤ s.reg.toNat then (latchGet c.w c.pc i lane).getD (Config.unpopped c.w.cntIss lane)
  else
    match permLane c.w16 s lane with
    | some j => c.w.rdV (s.reg.toNat + ofs) j
    | none => 0

/-- A 32-bit source, or a pair (R48). -/
def Ctx.src (c : Ctx) (i : Nat) (scl : Bool) (s : Src) (wide : Bool) (lane : Nat) : Nat :=
  if wide then (c.regAt i scl s 0 lane).toNat + 2 ^ 32 * (c.regAt i scl s 1 lane).toNat
  else (c.regAt i scl s 0 lane).toNat

/-- opB of format I by TYPE (R102): the bits of the element. -/
def immValue (ty : Nat) (imm : Word) : Nat :=
  match ty % 16 with
  | 6 => (imm.signExtend 64).toNat
  | 0 => (roundVal 0 0 false (decodeFloat 1 imm.toNat)).1
  | _ => imm.toNat

/-- Bits above a narrow element are 0 (R102). -/
def immOk (ty : Nat) (imm : Word) : Bool := decide (32 ≤ codeWidth ty) || decide (imm.toNat < 2 ^ codeWidth ty)

/-- Writes of a destination that a lane (or, scalar, the issue) receives: one register or a pair. -/
def dstWr (ds : Bool) (d : BitVec 8) (wide : Bool) (lane : Nat) (x : Nat) : List RegWr :=
  let f : RegFile := if ds then .sca else .vec
  let l := if ds then 0 else lane
  if wide then [⟨f, d.toNat, l, BitVec.ofNat 32 x⟩, ⟨f, d.toNat + 1, l, BitVec.ofNat 32 (x / 2 ^ 32)⟩]
  else [⟨f, d.toNat, l, BitVec.ofNat 32 x⟩]

def predWr (d : Nat) (lane : Nat) (b : Bool) : RegWr := ⟨.pred, d, lane, if b then 1 else 0⟩

/-- A destination written in each lane of `active()`, or once, when some lane is active (R128). -/
def Ctx.dstAll (c : Ctx) (ds : Bool) (d : BitVec 8) (wide : Bool) (f : Nat → Nat) : List RegWr :=
  if ds then
    match c.lanes with
    | [] => []
    | l :: _ => dstWr true d wide 0 (f l)
  else (c.lanes.map (fun l => dstWr false d wide l (f l))).flatten

def Ctx.predAll (c : Ctx) (d : Nat) (f : Nat → Bool) : List RegWr := c.lanes.map (fun l => predWr d l (f l))

end Sys2Proof.Machine
end

