-- ==== Sys2Proof/Machine/Translate.lean ====
section
/-! DEFINITION. Address translation (12 R340, 13 R384-R391), the spaces (04 R105, 07 R200-R204), bytes at a place, and the
fetch of code lines (04 R93-R97). -/

namespace Sys2Proof.Machine

/-! ## Context descriptors as read -/

/-- The descriptor of a context as its core last read it (R337). -/
def State.desc (s : State) (core ctx : Nat) : Nat :=
  if core < 256 then SMap.get 0 (s.core core).descs ctx else (s.benuri (core - 256)).desc

def State.waveDesc (s : State) (w : Wave) (hi lo : Nat) : Nat := field (s.desc w.key.core w.ctx) hi lo

/-- A budget entry (R355), and the entry that stands in memory. -/
def budAddr (s : State) (part entry : Nat) : Nat := (s.part part).budBase.toNat + 16 * entry

def budEntry (s : State) (part entry : Nat) : Nat := s.mem.readNat (budAddr s part entry) 16

/-- The context's budget is exhausted: its entry is HELD and limited (R355, R356). -/
def State.ctxHeld (s : State) (core ctx : Nat) : Bool :=
  let d := s.desc core ctx
  decide (core < 256) && d.testBit 496 &&
    (let x := budEntry s (s.partOf core) (field d 495 488)
     x.testBit 10 && decide (field x 9 0 ≠ 0))

/-- The entry of an activity beside the contexts (R354). -/
def State.actEntry (s : State) (kind a b : Nat) : Option (Nat × Nat) :=
  (s.actBuds.find? (fun x => x.kind == kind && x.a == a && x.b == b)).map (fun x => (x.part, x.entry))

/-- The activity is held (R356). -/
def State.actHeld (s : State) (kind a b : Nat) : Bool :=
  (s.actEntry kind a b).any (fun p =>
    let x := budEntry s p.1 p.2
    x.testBit 10 && decide (field x 9 0 ≠ 0))

/-- Units of 64 bytes are charged to the activity (R355). -/
def State.chargeAct (s : State) (kind a b n : Nat) : State :=
  match s.actEntry kind a b with
  | none => s
  | some (part, i) => s.updPart part (fun p => { p with budUsed := SMap.set 0 p.budUsed i (SMap.get 0 p.budUsed i + n) })

def State.wavePriv (s : State) (w : Wave) : Bool := s.waveDesc w 497 497 == 1

/-! ## Windows and secure regions -/

/-- Windows that hold a physical address (R340). -/
def windowHits (l : SMap (BitVec 128)) (pa : Nat) : Nat :=
  (l.filter (fun p =>
    let w := p.2.toNat
    let base := field w 17 0 * 2 ^ 30
    let size := field w 63 46 * 2 ^ 30
    decide (base ≤ pa) && decide (pa < base + size))).length

def State.inWindow (s : State) (part pa : Nat) : Bool := windowHits (s.part part).mwin pa == 1

/-- The base die that homes an address: page k of a window goes to the (k mod m)-th of its m dies, ascending (R340). -/
def homeDie (l : SMap (BitVec 128)) (pa : Nat) : Option Nat :=
  (l.find? (fun p => windowHits [p] pa == 1)).bind (fun p =>
    let w := p.2.toNat
    let dies := (List.range 4).filter (fun d => w.testBit (68 + d))
    dies[(pa - field w 17 0 * 2 ^ 30) / 4096 % dies.length]?)

/-- The lowest valid secure region that holds a device address (R415). -/
def secureRegion (l : SMap (BitVec 128)) (pa : Nat) : Option Nat :=
  (l.find? (fun p =>
    let r := p.2.toNat
    let sz := field r 69 64
    r.testBit 71 && r.testBit 70 && decide (12 ≤ sz) && decide (sz ≤ 47)
      && decide (field r 63 12 * 4096 / 2 ^ sz = pa / 2 ^ sz))).map (·.1)

/-- World of a core: compute core c or Benuri core 256 + n (R415). -/
def State.secureCore (s : State) (core : Nat) : Bool :=
  if core < 256 then s.root.sbcore.getLsbD core else s.root.sblat.getLsbD (core - 256)

/-- The secure region that a core's access to a device address would touch against R416. -/
def State.secureHit (s : State) (core pa : Nat) : Option Nat :=
  if s.secureCore core then none else secureRegion s.root.srgn pa

/-! ## Page tables -/

/-- What an access needs of the leaf besides U (R241, R384). -/
inductive Need where
  | load
  | store
  | fetch
  | user
  deriving DecidableEq, Repr

inductive Walk where
  | leaf (pte level at_ : Nat)
  | fault (cause : Nat)
  deriving DecidableEq, Repr

def pteLeaf (e : Nat) : Bool := field e 3 1 != 0

def ptePpn (e : Nat) : Nat := field e 53 10

/-- The malformed entries of R384. -/
def pteBad (clique level e : Nat) : Bool :=
  let leaf := pteLeaf e
  e.testBit 54 || (e.testBit 2 && !e.testBit 1) || (leaf && decide (3 ≤ level))
    || (leaf && ptePpn e % 2 ^ (9 * level) != 0) || (e.testBit 63 && !(leaf && level == 0)) || (!leaf && level == 0)
    || decide (clique ≤ field e 61 58)

/-- The walk from the table at `base`, whose entries are of level `n - 1` (R384). -/
def walkFrom (s : State) (part va : Nat) : Nat → Nat → Walk
  | 0, _ => .fault 10
  | n + 1, base =>
    let a := base + 8 * field va (20 + 9 * n) (12 + 9 * n)
    if !s.inWindow part a then .fault 7
    else
      let e := s.mem.readNat a 8
      if !e.testBit 0 then .fault 1
      else if pteBad s.fabric.clique n e then .fault 10
      else if pteLeaf e then .leaf e n a
      else walkFrom s part va n (ptePpn e * 4096)

def Need.allows (need : Need) (e : Nat) : Bool :=
  e.testBit 4 &&
    match need with
    | .load => e.testBit 1
    | .store => e.testBit 2
    | .fetch => e.testBit 3
    | .user => true

/-- Bytes that a leaf maps, as a power of two. -/
def leafLog (pte level : Nat) : Nat := if pte.testBit 63 then 16 else 12 + 9 * level

/-- Where a leaf puts an address. -/
def leafAddr (pte level va : Nat) : Nat :=
  let n := leafLog pte level
  ptePpn pte * 4096 / 2 ^ n * 2 ^ n + va % 2 ^ n

inductive Xlat where
  | ok (t : Target) (lease : Nat)
  | fault (cause : Nat)
  deriving DecidableEq, Repr

/-- Cached translations of an agent (R228). -/
def State.tlb (s : State) (core : Nat) : List TlbEntry :=
  if core < 256 then (s.core core).tlb else (s.benuri (core - 256)).tlb

def State.updTlb (s : State) (core : Nat) (f : List TlbEntry → List TlbEntry) : State :=
  if core < 256 then s.updCore core (fun x => { x with tlb := f x.tlb })
  else s.updBenuri (core - 256) (fun x => { x with tlb := f x.tlb })

/-- A cached leaf that maps the address. -/
def tlbFind (l : List TlbEntry) (ctx va : Nat) : Option TlbEntry :=
  l.find? (fun e => e.ctx == ctx && e.vpn == va / 2 ^ leafLog e.pte.toNat e.level)

/-- The port that faces a rank (R405). -/
def portTo (s : State) (rank : Nat) : Nat := (rank + 31 - s.fabric.rank) % 16

/-- A peer is reached over its own link, or over a relay (R408). -/
def State.reachable (s : State) (rank : Nat) : Bool :=
  match s.fabric.links[portTo s rank]? with
  | some l => l.up || l.detour
  | none => false

/-- The place lies on a peer that nothing reaches (R408). -/
def State.unreached (s : State) (t : Target) : Bool :=
  match t with
  | .peer r _ => !s.reachable r
  | _ => false

/-- The flit that carries a wave's store, atomic or shipped request to a peer has left, and does not wait to be resent (R409). -/
def State.flitGone (s : State) (ctx rank : Nat) (flit : Option (BitVec 32)) : Bool :=
  match flit with
  | none => false
  | some n => s.fabric.conns.all (fun c =>
      !(c.ctx == ctx && c.peer.toNat == rank && c.cls == Config.connClass && c.window.any (fun u => u.seq == n && u.sent.isNone)))

/-- The place of an allowed leaf. Space 3 needs a peer entry (R105), and a peer that is reached (R408); device addresses lie in
one window (R340). -/
def leafPlace (s : State) (part : Nat) (space3 : Bool) (pte level va : Nat) : Xlat :=
  let pa := leafAddr pte level va
  if pte.testBit 62 && field pte 61 58 != s.fabric.rank then
    if s.reachable (field pte 61 58) then .ok (.peer (field pte 61 58) pa) (field pte 57 55) else .fault 1
  else if space3 then .fault 3
  else if !s.inWindow part pa then .fault 7
  else .ok (.dev pa) (field pte 57 55)

/-- The walker's key among the operations under way. -/
def walkerKey : WaveKey := ⟨512, 0, 0⟩

/-- A leaf's A and D bits are ORed in at the entry's home (R385): at once when the line may be written, else when its leases allow it,
as an atomic OR of the walker (R209, R212, R242), which moves a SHARED region as any store does (R403). -/
def orEntry (s : State) (ctx a bits : Nat) : State :=
  let e := s.mem.readNat a 8
  if e ||| bits = e then s
  else
    let t : Nat := max (let d := SMap.get 0 s.eDev (a / 128); if d = 0 then 0 else d + 4)
      (let f := SMap.get 0 s.eFab (a / 128); if f = 0 then 0 else f + 40)
    if s.lineFree a then { s with mem := s.mem.writeNat a 8 (e ||| bits) }
    else
      let f := s.fresh
      let el : MElem :=
        { lane := 0, va := a, size := 8, data := bits, cmp := 0, old := 0, target := some (.dev a), lease := 7, dst := 0,
          phase := if (sharedAny s (.dev a)).isSome then .sent else .arrived (max t s.gtb) f.1, removal := .notNeeded }
      { f.2 with mops := f.2.mops ++
          [{ id := f.1, w := walkerKey, gid := 0, team := 0, ctx := ctx, seq := 0, iss := 0, pc := 0, scope := 4, order := 0, space := 0,
             kind := .atomic 5 7 false, checked := true, keys := [], port := none, whole := 0, byElem := false, gtb := s.gtb,
             cyc := s.cyc, table := none, elems := [el] }] }

/-- A walk of the context has an A or D bit still to set: a write that its walks have translated comes after it (R385). -/
def walkerBusy (s : State) (ctx : Nat) : Bool := s.mops.any (fun p => p.w == walkerKey && p.ctx == ctx)

/-- A walk's outcome for an access: the leaf's A and D are set, and the translation is cached; a fault never is (R378, R385). -/
def useWalk (s : State) (core ctx : Nat) (need : Need) (space3 : Bool) (va : Nat) : Walk → Xlat × State
  | .fault c => (.fault c, s)
  | .leaf e lvl a =>
    if !need.allows e then (.fault 8, s)
    else
      let bits := 0x40 + (if need = .store then 0x80 else 0)
      let s := orEntry s ctx a bits
      let entry : TlbEntry := { ctx := ctx, level := lvl, vpn := va / 2 ^ leafLog e lvl, pte := BitVec.ofNat 64 (e ||| bits) }
      let s := s.updTlb core (fun l => entry :: l.filter (fun x => !(x.ctx == ctx && x.level == lvl && x.vpn == entry.vpn)))
      (leafPlace s (s.partOf core) space3 e lvl va, s)

/-- Translation of a `g:` or peer address (R201, R228, R384, R385). A cached leaf may serve although the tables changed:
the choice is free (R228). A fault is never cached (R378). -/
def translateG (s : State) (core ctx : Nat) (need : Need) (space3 : Bool) (va : Nat) : Xlat × State :=
  if 2 ^ 57 ≤ va then (.fault 4, s)
  else
    let part := s.partOf core
    let walk := walkFrom s part va 5 (field (s.desc core ctx) 63 0)
    match tlbFind (s.tlb core) ctx va with
    | none => useWalk s core ctx need space3 va walk
    | some c =>
      let cached := c.pte.toNat
      let same : Bool :=
        match walk with
        | .leaf e lvl _ => lvl == c.level && (e ||| 0xC0) == (cached ||| 0xC0)
        | .fault _ => false
      if !need.allows cached || (need = .store && !cached.testBit 7) || same then useWalk s core ctx need space3 va walk
      else
        let r := s.freeBool
        if r.1 then (leafPlace r.2 part space3 cached c.level va, r.2) else useWalk r.2 core ctx need space3 va walk

/-! ## Windows of the comb store -/

/-- A comb offset of a team's window byte, by its 4 KiB pages (R64). -/
def Team.windowOff (t : Team) (off : Nat) : Nat := t.pages.getD (off / 4096) 0 * 4096 + off % 4096

/-- The team whose window a `c:` address names, and the offset (R105). -/
def windowTeam (s : State) (gid team : Nat) (a : Nat) : Option (Team × Nat) :=
  match s.team? gid team with
  | none => none
  | some t =>
    if a.testBit 30 then
      let c := ((s.grid? gid (s.partOf t.core)).map (·.kernel.cluster)).getD 1
      let r := field a 29 28
      if field a 27 20 != 0 || decide (c ≤ r) then none
      else (s.team? gid (t.num - t.rank + r)).map (fun u => (u, field a 19 0))
    else some (t, a)

/-- The team of a window is saved: nothing of the window is on a core (R33). -/
def windowAway (s : State) (gid team va : Nat) : Bool :=
  !va.testBit 31 && ((windowTeam s gid team va).map (fun p => p.1.res != .resident && p.1.res != .ended)).getD false

/-- Place of a `c:` address (R46, R64, R105). The alias of a privileged section, whose core has no comb store, raises cause 9 as its
other `c:` accesses do (R256): the spec names no cause for it (log 110). -/
def placeC (s : State) (core : Nat) (priv : Bool) (gid team : Nat) (sect : Bool) (a size : Nat) : Xlat :=
  if a.testBit 31 then
    if !priv then .fault 2
    else if sect || 0x200000 < a - 0x80000000 + size then .fault 9
    else .ok (.rawComb core (a - 0x80000000)) 7
  else if sect then .fault 9
  else
    match windowTeam s gid team a with
    | none => .fault 9
    | some (t, off) =>
      if t.scomb < off + size then .fault 9
      else
        match t.res with
        | .ended => .fault 9
        | _ => .ok (.comb t.core (t.windowOff off)) 7

/-! ## Host translation -/

/-- The port that serves a context's `h:` traffic (R396, R400). -/
def hostPort (s : State) (core ctx : Nat) : Nat :=
  let p := s.partOf core
  match s.root.mode with
  | 0 => ((SMap.get 0#32 (s.part p).pasid ctx).extractLsb' 20 1).toNat
  | 1 => p
  | _ => p / 2

/-- The PASID of a valid binding (R400). -/
def pasidOf (s : State) (core ctx : Nat) : Option Nat :=
  let b := SMap.get 0#32 (s.part (s.partOf core)).pasid ctx
  if b.getLsbD 31 then some (b.extractLsb' 0 20).toNat else none

/-- Outcome of an `h:` translation: a place, a fault, or the access waits for its completion (R390). -/
inductive HostX where
  | ok (t : Target)
  | fault (cause : Nat)
  | wait
  deriving DecidableEq, Repr

def atcFind (p : HostPort) (pasid page : Nat) (write : Bool) : Option AtcEntry :=
  p.atc.find? (fun e => e.pasid == pasid && e.page / 2 ^ e.bits == page / 2 ^ e.bits && (!write || e.writable))

/-- The frame of a page within its range. -/
def AtcEntry.frameOf (e : AtcEntry) (page : Nat) : Nat := e.frame / 2 ^ e.bits * 2 ^ e.bits + page % 2 ^ e.bits

/-- How a port's requests name a context: each partition has contexts of its own. -/
def atsCtx (s : State) (core ctx : Nat) : Nat := ctx + 1024 * s.partOf core

/-- R389-R391, R399, R400: a hit, a Page Request outstanding, a refused completion, or the access waits. A miss on a port
whose link is down is a Response Failure. -/
def hostLook (s : State) (core ctx : Nat) (write : Bool) (va : Nat) : HostX :=
  match pasidOf s core ctx with
  | none => .fault 11
  | some pasid =>
    let p := s.port (hostPort s core ctx)
    match atcFind p pasid (va / 4096) write with
    | some e => .ok (.host (hostPort s core ctx) (e.frameOf (va / 4096) * 4096 + va % 4096))
    | none =>
      match p.reqs.find? (fun r => r.ctx == atsCtx s core ctx && r.page == va / 4096) with
      | some r => if r.pageRequest then .fault 6 else if r.refused then .fault 11 else .wait
      | none => if p.up then .wait else .fault 6

/-- A miss sends one Translation Request for its page, which a later one joins (R390). -/
def hostAsk (s : State) (core ctx : Nat) (write : Bool) (waiter : Option (WaveKey × Nat)) (va : Nat) : State :=
  let n := hostPort s core ctx
  let mine (r : AtsReq) : Bool := r.ctx == atsCtx s core ctx && r.page == va / 4096
  if (s.port n).reqs.any mine then
    s.updPort n (fun p =>
      { p with reqs := p.reqs.map (fun r =>
          if mine r then { r with waiters := r.waiters ++ (waiter.toList.filter (fun x => !r.waiters.contains x)) } else r) })
  else
    s.updPort n (fun p =>
      { p with
        reqs := p.reqs ++ [{ ctx := atsCtx s core ctx, core := core, page := va / 4096, write := write, pageRequest := false,
                             refused := false, since := s.gtb, waiters := waiter.toList }] })

/-- What a decided access leaves: a refused completion is used up, a Response Failure is told to the supervisor (R390,
R399). -/
def hostAfter (s : State) (core ctx : Nat) (waiter : Option (WaveKey × Nat)) (va : Nat) : State :=
  let n := hostPort s core ctx
  let p := s.port n
  match pasidOf s core ctx with
  | none => s
  | some pasid =>
    if (atcFind p pasid (va / 4096) false).isNone && !p.up && !p.reqs.any (fun r => r.ctx == atsCtx s core ctx && r.page == va / 4096) then
      postEvent s core 2 ctx 0 0 0 0 (({ code := Trap.loadFault, addr := va, det1 := 1 } : TrapInfo).at_ 0)
    else
      s.updPort n (fun p =>
        { p with reqs := (p.reqs.filter (fun r => !(r.refused && r.ctx == atsCtx s core ctx && r.page == va / 4096))).map (fun r =>
            if r.ctx = atsCtx s core ctx ∧ r.page = va / 4096 then { r with waiters := r.waiters.filter (fun x => some x != waiter) } else r) })

/-! ## The fabric's time base -/

/-- The time reference: the lowest rank that is reached, this device included (R410). -/
def referenceRank (s : State) : Nat :=
  ((List.range s.fabric.clique).find? (fun r => r == s.fabric.rank || s.reachable r)).getD s.fabric.rank

/-- R410: no time flit of the reference for 10 µs, or an offset above 16 ns. -/
def timeLost (s : State) : Bool :=
  referenceRank s != s.fabric.rank && (decide (s.fabric.lastTime + 10000 < s.gtb) || decide (16 < s.fabric.offset.natAbs))

/-- The time base is known to lie within the clique's bound (R208). -/
def State.fabricLive (s : State) : Bool := s.fabric.synced && !timeLost s

/-! ## Bytes at a place -/

/-- Byte key of host memory of a port, and of a peer's memory. -/
def hostKey (port hpa : Nat) : Nat := port * 2 ^ 64 + hpa

def peerKey (rank pa : Nat) : Nat := rank * 2 ^ 64 + pa

/-- The slice of a wave that holds a comb byte: its base and quad. -/
def sliceAt (w : Wave) (off : Nat) : Option (Nat × Nat) :=
  w.slices.zipIdx.findSome? (fun p =>
    match p.1 with
    | some b => if b ≤ off ∧ off < b + 16 * w.nvec then some (b, p.2) else none
    | none => none)

/-- A byte of a REG bank, from the slice that holds it (R43, R46). -/
def regBankByte (s : State) (core off : Nat) : Option Byte :=
  let hit := s.waves.findSome? (fun w =>
    if w.key.core = core then
      (sliceAt w off).map (fun p => (w, p))
    else none)
  match hit with
  | none => none
  | some (w, (base, q)) =>
    let r := off - base
    let x := SMap.get 0#32 w.vregs (vkey (r / 16) (4 * q + r % 16 / 4))
    some (x.extractLsb' (8 * (r % 4)) 8)

def State.bankMode (s : State) (core bank : Nat) : Nat := SMap.get 0 (s.core core).modes bank

/-- The slot of a FIFO bank's element storage that holds a comb byte: which of its elements, oldest first, when one stands there.
Element j lies at (j mod capacity) × size, as in a ring (log 109). -/
def fifoSlot (f : Fifo) (off : Nat) : Option Nat :=
  let size := 4 * 2 ^ f.esz
  let cap := 32768 / size
  let k := (off % 0x8000 / size + cap - f.head % cap) % cap
  if k < f.elems.length then some k else none

def fifoAt (s : State) (core bank : Nat) : Option Fifo := (s.core core).fifos.find? (fun f => f.bank == bank)

/-- A byte of the raw comb store, as the privileged window and COMBWIN read it (R46, R369). A FIFO bank holds what was pushed last into
each place of its storage, whether or not an element stands there now. -/
def rawCombByte (s : State) (core off : Nat) : Byte :=
  match s.bankMode core (off / 0x8000) with
  | 0 => 0
  | 1 => (regBankByte s core off).getD ((s.core core).comb.get off)
  | _ => (s.core core).comb.get off

/-- A place where writes are discarded: the alias of an OFF or a CWY bank (R46). -/
def State.discards (s : State) (t : Target) : Bool :=
  match t with
  | .rawComb c o => s.bankMode c (o / 0x8000) == 0 || s.bankMode c (o / 0x8000) == 3
  | _ => false

/-- Writes a byte of the raw comb store (R46): OFF and CWY discard. -/
def rawCombSet (s : State) (core off : Nat) (b : Byte) : State :=
  match s.bankMode core (off / 0x8000) with
  | 0 => s
  | 3 => s
  | 1 =>
    let hit := s.waves.findSome? (fun w =>
      if w.key.core = core then
        (sliceAt w off).map (fun p => (w.key, p))
      else none)
    match hit with
    | none => s.updCore core (fun x => { x with comb := x.comb.set off b })
    | some (k, (base, q)) =>
      let r := off - base
      s.updWave k (fun w =>
        let key := vkey (r / 16) (4 * q + r % 16 / 4)
        let old := SMap.get 0#32 w.vregs key
        let m : Word := 0xFF#32 <<< (8 * (r % 4))
        { w with vregs := SMap.set 0#32 w.vregs key ((old &&& ~~~m) ||| (b.zeroExtend 32 <<< (8 * (r % 4)))) })
  | 4 =>
    match (fifoAt s core (off / 0x8000)).bind (fun f => (fifoSlot f off).map (fun k => (f, k))) with
    | none => s.updCore core (fun x => { x with comb := x.comb.set off b })
    | some (f, k) =>
      let i := off % (4 * 2 ^ f.esz)
      s.updCore core (fun x =>
        { x with
          comb := x.comb.set off b
          fifos := x.fifos.map (fun (g : Fifo) =>
            if g.bank = f.bank then { g with elems := g.elems.modify k (fun v => setField v (8 * i + 7) (8 * i) b.toNat) } else g) })
  | _ => s.updCore core (fun x => { x with comb := x.comb.set off b })

/-- The place `n` bytes further on. -/
def Target.plus (t : Target) (n : Nat) : Target :=
  match t with
  | .dev pa => .dev (pa + n)
  | .comb c o => .comb c (o + n)
  | .rawComb c o => .rawComb c (o + n)
  | .host p a => .host p (a + n)
  | .peer r a => .peer r (a + n)

def State.byteAt (s : State) (t : Target) : Byte :=
  match t with
  | .dev pa => s.mem.get pa
  | .comb c o => (s.core c).comb.get o
  | .rawComb c o => rawCombByte s c o
  | .host p a => s.hostMem.get (hostKey p a)
  | .peer r a => s.peerMem.get (peerKey r a)

def State.setByte (s : State) (t : Target) (b : Byte) : State :=
  match t with
  | .dev pa => { s with mem := s.mem.set pa b }
  | .comb c o => s.updCore c (fun x => { x with comb := x.comb.set o b })
  | .rawComb c o => rawCombSet s c o b
  | .host p a => { s with hostMem := s.hostMem.set (hostKey p a) b }
  | .peer r a => { s with peerMem := s.peerMem.set (peerKey r a) b }

def State.bytesAt (s : State) (t : Target) : Nat → List Byte
  | 0 => []
  | n + 1 => s.byteAt t :: s.bytesAt (t.plus 1) n

def State.setBytes (s : State) (t : Target) : List Byte → State
  | [] => s
  | b :: l => State.setBytes (s.setByte t b) (t.plus 1) l

def State.readAt (s : State) (t : Target) (n : Nat) : Nat := bytesToNat (s.bytesAt t n)

def State.writeAt (s : State) (t : Target) (n x : Nat) : State := s.setBytes t (natToBytes n x)

def Target.isPeer (t : Target) : Bool := match t with | .peer _ _ => true | _ => false

/-- What an engine, a unit or the machine itself has just written to a peer's memory for a context leaves on the context's connection
(R409); `peerMem` holds it from the write on. -/
def State.posted (s : State) (core ctx : Nat) (t : Target) (n : Nat) : State :=
  match t with
  | .peer r a =>
    { s with fabric := { s.fabric with posts := s.fabric.posts ++
        [{ ctx := ctx, rank := r, payload := Config.connStore (s.secureCore core) a (s.bytesAt t n) }] } }
  | _ => s

/-- The 128-byte line of a place. -/
def Target.line : Target → Target
  | .dev pa => .dev (pa / 128 * 128)
  | .comb c o => .comb c (o / 128 * 128)
  | .rawComb c o => .rawComb c (o / 128 * 128)
  | .host p a => .host p (a / 128 * 128)
  | .peer r a => .peer r (a / 128 * 128)

def Target.offset : Target → Nat
  | .dev pa => pa
  | .comb _ o => o
  | .rawComb _ o => o
  | .host _ a => a
  | .peer _ a => a

/-- Key of a line in the lease records (R210). -/
def Target.leaseKey : Target → Nat
  | .dev pa => pa / 128
  | .host p a => 2 ^ 80 + hostKey p (a / 128)
  | .peer r a => 2 ^ 81 + peerKey r (a / 128)
  | .comb c o => 2 ^ 82 + c * 2 ^ 32 + o / 128
  | .rawComb c o => 2 ^ 82 + c * 2 ^ 32 + o / 128

/-- A device sector or a scratchpad sector is poisoned (R392). -/
def State.poisonedAt (s : State) (t : Target) : Bool :=
  match t with
  | .dev pa => s.poison.contains (.memory (pa / 32))
  | .comb c o => s.poison.contains (.scratchpad c (o / 32))
  | .rawComb c o => s.poison.contains (.scratchpad c (o / 32))
  | _ => false

/-! ## Code lines -/

/-- The line's 512 bits. -/
def lineNat (l : List Byte) : Nat := bytesToNat l

def lineWord (line : Nat) : Nat := field line 511 480

def lineSlot (line slot : Nat) : InstrWord := BitVec.ofNat 96 (line >>> (96 * slot))

def parity : Nat → Nat → Bool
  | 0, _ => false
  | n + 1, x => xor (x % 2 == 1) (parity n (x / 2))

/-- The parity syndrome of R96: bit n for slot n, bit 5 for the line word. -/
def lineSyndrome (line : Nat) : Nat :=
  ((List.range 5).map (fun n =>
    if parity 97 ((line >>> (96 * n)) % 2 ^ 96 + 2 ^ 96 * field line (485 + n) (485 + n)) then 2 ^ n else 0)).sum
  + (if parity 32 (lineWord line) then 32 else 0)

/-- A reserved field or parity fault (R96). -/
def lineBad (line : Nat) : Bool := lineSyndrome line != 0 || field line 511 495 != 0

def lineTgt (line slot : Nat) : Bool := decide (slot < 5) && line.testBit (480 + slot)

def linePair (line slot : Nat) : Bool := decide (slot < 4) && line.testBit (491 + slot)

def State.icache (s : State) (core : Nat) : List CodeLine :=
  if core < 256 then (s.core core).icache else (s.benuri (core - 256)).icache

def State.updIcache (s : State) (core : Nat) (f : List CodeLine → List CodeLine) : State :=
  if core < 256 then s.updCore core (fun x => { x with icache := f x.icache })
  else s.updBenuri (core - 256) (fun x => { x with icache := f x.icache })

inductive Fetched where
  | line (l : Nat)
  | fault (cause : Nat)
  | poisoned
  | secure (region : Nat)
  deriving DecidableEq, Repr

/-- The secure region in which a place lies, for a core of the other world (R416). -/
def secureOf (s : State) (core : Nat) (t : Target) : Option Nat :=
  match t with
  | .dev pa => s.secureHit core pa
  | _ => none

/-- Translates a code line as an instruction fetch and reads it into the instruction cache (R95, R97). A line of a secure region is not
reached (R416, log 136). -/
def fetchMiss (s : State) (core ctx va : Nat) : Fetched × State :=
  match translateG s core ctx .fetch false va with
  | (.fault c, s) => (.fault c, s)
  | (.ok t _, s) =>
    let data := s.bytesAt t 64
    match secureOf s core t with
    | some n => (.secure n, s)
    | none =>
    if s.poisonedAt t || s.poisonedAt (t.plus 32) then (.poisoned, s)
    else
      let entry : CodeLine := { ctx := ctx, va := va, place := t, mapped := true, data := data }
      (.line (lineNat data), s.updIcache core (fun l => entry :: l.filter (fun e => !(e.ctx == ctx && e.va == va))))

/-- A cached line whose translation has been dropped is looked up again (R386): it serves where its place is the same. -/
def remapLine (s : State) (core : Nat) (e : CodeLine) : Fetched × State :=
  match translateG s core e.ctx .fetch false e.va with
  | (.fault c, s) => (.fault c, s)
  | (.ok t _, s) =>
    if t = e.place then
      (.line (lineNat e.data), s.updIcache core (fun l => l.map (fun x => if x = e then { x with mapped := true } else x)))
    else fetchMiss s core e.ctx e.va

/-- The line of a PC. A cached line serves although memory no longer agrees with it, until a launch or a FLUSH drops it (R97). One whose
parity is wrong is read once more from memory, and a mismatch that this clears is a corrected error (R96). -/
def fetchLine (s : State) (core ctx va : Nat) : Fetched × State :=
  match (s.icache core).find? (fun e => e.ctx == ctx && e.va == va) with
  | none => fetchMiss s core ctx va
  | some e =>
    if lineSyndrome (lineNat e.data) = 0 then (if e.mapped then (.line (lineNat e.data), s) else remapLine s core e)
    else
      match fetchMiss s core ctx va with
      | (.line l, s1) => (.line l, if lineSyndrome l = 0 then s1.correctedIn core else s1)
      | x => x

/-- Translations of a core go: cached code lines are looked up again (R338, R386). -/
def unmapLines (p : CodeLine → Bool) (l : List CodeLine) : List CodeLine := l.map (fun e => if p e then { e with mapped := false } else e)

/-- What R95 finds of a destination: legal, BRANCH_TARGET, or a fetch fault with its cause. -/
inductive TargetCheck where
  | ok
  | bad
  | fault (cause : Nat)
  | poisoned
  | secure (region : Nat)
  deriving DecidableEq, Repr

def checkTarget (s : State) (core ctx : Nat) (pc : Nat) : TargetCheck × State :=
  if !pcFormed pc then (.bad, s)
  else
    match fetchLine s core ctx (pc / 64 * 64) with
    | (.fault c, s) => (.fault c, s)
    | (.poisoned, s) => (.poisoned, s)
    | (.secure n, s) => (.secure n, s)
    | (.line l, s) => (if lineTgt l (pc % 8) then .ok else .bad, s)

end Sys2Proof.Machine
end

