-- ==== Sys2Proof/Machine/QueueOps.lean ====
section
/-! DEFINITION. Queues (02 R49, 08 R247-R250), producer records and the legality of waits (12 R358-R360). -/

namespace Sys2Proof.Machine

/-! ## Producer records -/

/-- R358. -/
def recordBits (gid pgrid seq : Nat) (obj hwp begun : Bool) (cls : Nat) : Nat :=
  cls % 4 + (if begun then 4 else 0) + (if hwp then 8 else 0) + (if obj then 16 else 0) + (seq % 2 ^ 32) * 2 ^ 16
    + (pgrid % 2 ^ 40) * 2 ^ 48 + (gid % 2 ^ 40) * 2 ^ 88

/-- A wave's progress class; 3 in a section (R13, R420). -/
def State.waveClass (s : State) (w : Wave) : Nat :=
  if w.section? then 3 else ((s.grid? w.grid (s.partOf w.key.core)).map (·.cls)).getD 3

def State.waveTeam (s : State) (w : Wave) : Option Team := if w.section? then none else s.team? w.grid w.team

def State.clusterSize (s : State) (w : Wave) : Nat :=
  ((s.grid? w.grid (s.partOf w.key.core)).map (·.kernel.cluster)).getD 1

/-- The check of R359 on a record; the code of R360 when the wait is illegal. -/
def judge (s : State) (w : Wave) (yielding : Bool) (r : Nat) : Option Nat :=
  if r.testBit 3 then none
  else
    match s.waveTeam w with
    | none => some 5
    | some t =>
      let cls := s.waveClass w
      let c := s.clusterSize w
      let seq := field r 47 16
      let plainOr : Option Nat := if yielding then none else some 4
      if r.testBit 4 && field r 87 48 == w.grid % 2 ^ 40 && seq == t.seq then (if cls = 0 then some 3 else plainOr)
      else if field r 127 88 = w.grid % 2 ^ 40 then
        if t.seq ≤ seq + t.rank ∧ seq + t.rank ≤ t.seq + c - 1 then none
        else if cls = 0 then none
        else if cls = 2 then some 3
        else if seq < t.seq then none
        else plainOr
      else if field r 1 0 = 2 then some 3
      else if r.testBit 2 then none
      else if cls = 0 then some 3
      else plainOr

/-- The check of R359 on a transaction barrier's class and floor. -/
def judgeBarrier (s : State) (w : Wave) (yielding : Bool) (bcl floor : Nat) : Option Nat :=
  match s.waveTeam w with
  | none => some 5
  | some t =>
    let m : Int := 2 ^ 16
    let d := ((floor : Int) - (t.seq - t.rank)) % m
    let b := ((t.seq : Int) - floor) % m
    if bcl = 3 then none
    else if d < s.clusterSize w then none
    else if bcl = 0 then none
    else if bcl = 2 then some 3
    else if 1 ≤ b ∧ b < 2 ^ 15 then none
    else if yielding && s.waveClass w != 0 then none
    else some 4

/-! ## Queue objects -/

/-- A queue's header as the queue unit sees it (R247). -/
structure QHead where
  base : Nat
  cap : Nat
  esz : Nat
  hw : Bool
  scope : Nat
  valid : Bool
  head : Nat
  tail : Nat
  prec : Nat
  crec : Nat
  deriving DecidableEq, Repr

/-- Element size in bytes. -/
def QHead.size (q : QHead) : Nat := 4 * 2 ^ q.esz

def QHead.count (q : QHead) : Nat := (q.tail + 2 ^ 64 - q.head) % 2 ^ 64

/-- Where a ring's header lies; a FIFO has none. -/
def queuePlace (s : State) (q : QueueRef) : Option Target :=
  match q with
  | .ring _ none pa => some (.dev pa)
  | .ring _ (some (g, t)) pa => (s.team? g t).map (fun u => .comb u.core (u.windowOff pa))
  | .far _ rank pa => some (.peer rank pa)
  | .fifo _ _ => none

def headerOf (x : Nat) : QHead :=
  { base := field x 63 0, cap := field x 95 64, esz := field x 97 96, hw := x.testBit 119, scope := field x 114 112,
    valid := x.testBit 120, head := field x 191 128, tail := field x 255 192, prec := field x 383 256,
    crec := field x 511 384 }

def State.fifo? (s : State) (core bank : Nat) : Option Fifo := (s.core core).fifos.find? (fun f => f.bank == bank)

def State.updFifo (s : State) (core bank : Nat) (f : Fifo → Fifo) : State :=
  s.updCore core (fun x => { x with fifos := x.fifos.map (fun q => if q.bank = bank then f q else q) })

def readQueue (s : State) (q : QueueRef) : Option QHead :=
  match q with
  | .fifo core bank =>
    (s.fifo? core bank).map (fun f =>
      { base := 0, cap := 32768 / (4 * 2 ^ f.esz), esz := f.esz, hw := f.hw, scope := f.scope, valid := true,
        head := f.head, tail := f.tail, prec := f.prec.toNat, crec := f.crec.toNat })
  | q => (queuePlace s q).map (fun t => headerOf (s.readAt t 64))

/-- Place of element `j` of a ring, through the context's tables for `g:` storage. -/
def elemPlace (s : State) (core : Nat) (q : QueueRef) (h : QHead) (j : Nat) (need : Need) : Option Target × State :=
  let a := h.base + j % h.cap * h.size
  let far (ctx : Nat) : Option Target × State :=
    match translateG s core ctx need false a with
    | (.ok t _, s) => (some t, s)
    | (.fault _, s) => (none, s)
  match q with
  | .ring ctx none _ => far ctx
  | .far ctx _ _ => far ctx
  | .ring _ (some (g, t)) _ => ((s.team? g t).map (fun u => .comb u.core (u.windowOff (a % 2 ^ 20))), s)
  | .fifo _ _ => (none, s)

/-- Plain accesses to a valid ring leave its contents unspecified (R247): its elements are then free. -/
def State.isTainted (s : State) (q : QueueRef) : Bool := s.tainted.contains q

/-- The space in which accesses of a queue act: 1 for a window or a bank of the comb store (R214). -/
def QueueRef.space : QueueRef → Nat
  | .ring _ none _ => 0
  | .far _ _ _ => 0
  | _ => 1

/-- An element enters a FIFO bank; its bytes lie in the bank (R46). -/
def fifoPush (f : Fifo) (x : Nat) (s : State) (core : Nat) : State :=
  let size := 4 * 2 ^ f.esz
  s.updCore core (fun y =>
    { y with
      comb := y.comb.writeNat (f.bank * 0x8000 + f.tail % (32768 / size) * size) size x
      fifos := y.fifos.map (fun g => if g.bank = f.bank then { g with elems := g.elems ++ [x], tail := g.tail + 1 } else g) })

/-- The context of a ring. -/
def QueueRef.context (q : QueueRef) : Nat := match q with | .ring ctx _ _ => ctx | .far ctx _ _ => ctx | .fifo _ _ => 0

/-- Removes the oldest element. -/
def popOne (s : State) (core : Nat) (q : QueueRef) : Nat × State :=
  match q with
  | .fifo c b =>
    match s.fifo? c b with
    | none => (0, s)
    | some f =>
      (f.elems.headD 0,
        if f.elems.isEmpty then s else s.updFifo c b (fun f => { f with elems := f.elems.tail, head := f.head + 1 }))
  | _ =>
    match readQueue s q, queuePlace s q with
    | some h, some t =>
      let p := elemPlace s core q h h.head .load
      let r : Nat × State :=
        match p.1 with
        | none => (0, p.2)
        | some e =>
          if p.2.isTainted q then
            let b := p.2.freeBytes h.size
            (bytesToNat b.1, b.2)
          else (p.2.readAt e h.size, p.2)
      (r.1, (r.2.writeAt (t.plus 16) 8 (h.head + 1)).posted core q.context (t.plus 16) 8)
    | _, _ => (0, s)

/-- Appends an element: its apply (R247). -/
def pushOne (s : State) (core : Nat) (q : QueueRef) (x : Nat) : State :=
  match q with
  | .fifo c b => match s.fifo? c b with | some f => fifoPush f x s c | none => s
  | _ =>
    match readQueue s q, queuePlace s q with
    | some h, some t =>
      let p := elemPlace s core q h h.tail .store
      let s1 :=
        match p.1 with
        | none => p.2
        | some e => p.2.writeAt e h.size x
      s1.writeAt (t.plus 24) 8 (h.tail + 1)
    | _, _ => s

/-- A unit appends an element; to a queue of a peer it goes on a connection (R409). -/
def unitPush (s : State) (core : Nat) (q : QueueRef) (x : Nat) : State :=
  let s1 := pushOne s core q x
  match q, readQueue s q with
  | .far ctx r pa, some h =>
    { s1 with fabric := { s1.fabric with posts := s1.fabric.posts ++
        [{ ctx := ctx, rank := r, payload := Config.connUpdate (s.secureCore core) .push pa h.size x 0 }] } }
  | _, _ => s1

/-- Sectors of `n` bytes from a place are poisoned (R392). -/
def State.poisonedIn (s : State) (t : Target) (n : Nat) : Bool :=
  (List.range (n / 32 + 1)).any (fun i => s.poisonedAt (t.plus (32 * i)) && decide (32 * i < n))

/-- Where poison lies, as POISON tells it (R392): 4 the scratchpad, 1 memory. -/
def poisonSource (t : Target) : Nat :=
  match t with
  | .comb _ _ => 4
  | .rawComb _ _ => 4
  | _ => 1

/-- An access of a queue that takes `n` elements reads poison: of its header, or of one of them (R392). -/
def queuePoison (s : State) (core : Nat) (q : QueueRef) (n : Nat) : Option Nat :=
  match q with
  | .fifo c b =>
    match s.fifo? c b with
    | some f =>
      let size := 4 * 2 ^ f.esz
      if (List.range (min n f.elems.length)).any (fun i =>
          s.poisonedAt (.comb c (f.bank * 0x8000 + (f.head + i) % (32768 / size) * size))) then some 4 else none
    | none => none
  | _ =>
    match readQueue s q, queuePlace s q with
    | some h, some t =>
      if s.poisonedIn t 64 || (List.range (min n h.count)).any (fun i =>
          ((elemPlace s core q h (h.head + i) .load).1.map s.poisonedAt).getD false) then some (poisonSource t) else none
    | _, _ => none

/-- `n` pops taken together. -/
def popMany (s : State) (core : Nat) (q : QueueRef) : Nat → List Nat × State
  | 0 => ([], s)
  | n + 1 =>
    let r := popOne s core q
    let t := popMany r.2 core q n
    (r.1 :: t.1, t.2)

/-- Elements whose push has issued and not applied; they hold their room (R49). -/
def reservedRoom (s : State) (q : QueueRef) : Nat :=
  (s.mops.map (fun o =>
    (if o.kind = .push q then
      (o.elems.filter (fun e => match e.phase with | .sent => true | .arrived _ _ => true | _ => false)).length
     else 0) + (if o.port = some q then o.elems.length else 0))).sum
  + (s.ships.map (fun o => if o.port = some q then o.reqs.length else 0)).sum
  + (s.loads.map (fun l => if l.port = some q then l.elems.length else 0)).sum
  + (s.waves.map (fun w =>
      (w.pend.map (fun p => match p.push with | some (r, l) => if r = q then l.length else 0 | none => 0)).sum)).sum

def roomOf (s : State) (q : QueueRef) (h : QHead) : Nat := h.cap - h.count - reservedRoom s q

/-- A shipped section by its ship and lane. -/
def Wave.sectionId (w : Wave) : Option (Nat × Nat) := w.info.map (fun i => (i.ship, i.lane))

/-- Whether a wave lies inside a queue's scope (R214, R250). Inside the wave, team or cluster of a section, which has no team (R420), is
that section alone (log 125). -/
def insideScope (s : State) (w : Wave) (i : QueueInfo) (scope : Nat) : Bool :=
  match scope, i.sect with
  | 0, none => !w.section? && w.grid == i.gid && w.team == i.team && w.wnum == i.wnum
  | 1, none => !w.section? && w.grid == i.gid && w.team == i.team
  | 2, none => !w.section? && w.grid == i.gid && w.team / s.clusterSize w == i.team / s.clusterSize w
  | 3, _ => dieOf w.key.core == dieOf i.w.core
  | _ + 4, _ => true
  | _, some x => w.sectionId == some x

/-- A queue that no QINIT of this device has initialised was initialised by a peer: a scope within a device leaves the wave out (R250,
log 125). -/
def queueScopeOk (s : State) (w : Wave) (q : QueueRef) (scope : Nat) : Bool :=
  match s.queues.find? (fun i => i.q == q) with
  | some i => insideScope s w i scope
  | none => decide (5 ≤ scope)

/-- The queue bound to a port (R249). -/
def Wave.portQueue (w : Wave) (reg : Nat) : Option QueueRef :=
  (w.ports.find? (fun p => p.1 == reg - 240)).map (·.2.1)

/-- The address that a trap record gives for a port's queue (R371). -/
def Wave.portAddr (w : Wave) (reg : Nat) : Nat :=
  ((w.ports.find? (fun p => p.1 == reg - 240)).map (·.2.2)).getD 0

/-- Bound to a queue of 4-byte elements: a register operand (R49). -/
def portBound (s : State) (w : Wave) (reg : Nat) : Bool :=
  match w.portQueue reg with
  | none => false
  | some q =>
    match readQueue s q with
    | some h => h.esz == 0
    | none => false

end Sys2Proof.Machine
end

