-- ==== Sys2Proof/Machine/Issue.lean ====
section
/-! DEFINITION. The issue of an instruction by a gang: decode traps in the order of 04 R108, the scoreboard (R111-R116), the
queue ports (02 R49), the writing of results, and the advance of the PC (R94, 05 R139). Every instruction's meaning is
`issue` of its signature and its body. -/

namespace Sys2Proof.Machine

/-! ## Fences -/

/-- The scope at which an access acts: a window access never reaches beyond its cluster (R214). -/
def actScope (space scope : Nat) : Nat := if space = 1 then min scope 2 else scope

def Phase.outstanding (p : Phase) : Bool :=
  match p with
  | .returned => false
  | .discarded => false
  | _ => true

def MKind.isAtomic (k : MKind) : Bool :=
  match k with
  | .atomic _ _ _ => true
  | .cas => true
  | .barrier _ => true
  | _ => false

/-- ACCST's rows are stores of its wave, outstanding from its issue, that a fence at `scope` waits for (R315). -/
def Cmd.storesAt (k : Cmd) (scope : Nat) : Bool :=
  match k.kind with
  | .accst _ _ comb _ _ _ _ => decide (scope ≤ if comb then 2 else 4)
  | _ => false

/-- Every engine command that has not run, those saved with a team included. -/
def State.engCmds (s : State) : List Cmd := (s.cores.map (·.eng.cmds)).flatten ++ (s.teams.map (·.savedCmds)).flatten

/-- R219: what a fence at `scope` issued as number `seq` of the wave waits for. -/
def fenceReady (s : State) (w : Wave) (scope seq : Nat) : Bool :=
  s.loads.all (fun l => !(l.w == w.key && decide (l.seq < seq)))
  && w.gangs.all (fun g => g.owed.all (fun o => decide (seq ≤ o.seq)))
  && s.mops.all (fun o =>
      !(o.w == w.key && decide (o.seq < seq) && (o.kind.isAtomic || decide (scope ≤ actScope o.space o.scope))
        && o.elems.any (fun e => e.phase.outstanding)))
  && s.engCmds.all (fun k => !(k.w == w.key && decide (k.seq < seq) && k.storesAt scope))
  && (List.range 7).all (fun i => decide (i < scope) || decide ((SMap.get 0#64 w.wct i).toNat ≤ s.gtb))

/-- Not yet applied at the home. -/
def Phase.unapplied (p : Phase) : Bool :=
  match p with
  | .unchecked => true
  | .dirty _ => true
  | .sent => true
  | .arrived _ _ => true
  | _ => false

/-- The number from which a waiting fence holds the wave's accesses (R219, R220, R229). -/
def Wait.fenceSeq : Wait → Option Nat
  | .fence _ n _ => some n
  | .release _ n => some n
  | .drain _ n _ => some n
  | _ => Option.none

/-- An acquire that has not returned, replayed lanes included, or a fence that has not completed, comes before access number `seq`
(R219, R220, R226). -/
def orderHeld (s : State) (k : WaveKey) (seq : Nat) : Bool :=
  s.loads.any (fun o => o.w == k && decide (o.seq < seq) && o.acquire)
  || s.mops.any (fun o => o.w == k && decide (o.seq < seq) && o.kind.isAtomic && o.order % 2 == 1
      && o.elems.any (fun e => e.phase.unapplied))
  || (match s.anyWave? k with
    | some w => w.gangs.any (fun g =>
        (match g.wait.fenceSeq with | some n => decide (n ≤ seq) | none => false)
          || g.owed.any (fun o => o.acquire && decide (o.seq < seq)))
    | none => false)

/-- The place of the instruction's accesses in its wave's order: for replayed lanes, that of its first issue (R226). -/
def Ctx.seq (c : Ctx) : Nat := (c.g.owed.map (·.seq)).getD c.w.opSeq

/-! ## Beats, pairing and the count distance -/

/-- Beats of a gang (R19). -/
def gangBeats (g : Gang) : Nat :=
  max 1 ((List.range 3).filter (fun b => g.quads.any (fun q => q / 8 == b))).length

def Ctx.diag (c : Ctx) : Bool := c.w.wcw.getLsbD 10

/-- Beats and latency of this issue; the native 64-bit path doubles the beats (R115). -/
def Ctx.beats (c : Ctx) (g : Sig) : Nat := if g.native64 && c.diag then 2 * gangBeats c.g else gangBeats c.g

def Ctx.latency (c : Ctx) (g : Sig) : Nat := if g.native64 && c.diag then 8 else g.lat

def Sig.readKeys (g : Sig) : List RegKey := (g.srcs.map Opnd.keys).flatten

def Sig.writeKeys (g : Sig) : List RegKey := (g.dst.map Opnd.keys).flatten

/-- Uses the vector pipe (R116): latency classes A to D, of 2 to 10 cycles, with a vector destination, and `pipe`. -/
def Sig.vecPipe (g : Sig) : Bool := g.pipe || (decide (0 < g.lat) && decide (g.lat ≤ 10) && g.dst.any (fun o => o.file == .vec))

/-- This instruction issues in the same cycle as the gang's previous one (R116). -/
def pairsWith (l : LastIssue) (pc : Pc) (g : Sig) : Bool :=
  l.pairBit && !l.second && pc == l.pc + 1 && l.stall == 0 && !(l.vecPipe && g.vecPipe)
    && (g.readKeys ++ g.writeKeys).all (fun k => !l.writes.contains k) && !l.control && (!g.control || g.branch)

/-- The distance that the previous instruction adds (R113). -/
def lastStep (g : Gang) (pc : Pc) (sig : Sig) : Nat :=
  match g.last with
  | none => 0
  | some l => if pairsWith l pc sig then 0 else max l.stall l.beats

/-- Its count covers the result. -/
def Hist.covered (h : Hist) : Bool := !h.inter && decide (h.need ≤ h.dist)

/-- A covered result has landed: what the register held before it, and what earlier writes of it would have shown, is seen no more
(R113, R114). -/
def dropCovered : List Hist → List Hist
  | [] => []
  | h :: t =>
    if h.covered then dropCovered t
    else
      let landed := (t.filter (fun x => x.covered && x.key == h.key)).foldl (fun (m : Mask) x => m ||| x.stale) 0
      { h with stale := h.stale &&& ~~~landed } :: dropCovered t

/-- The gang's results that its count does not cover, and those of other gangs (R113, R114). -/
def aged (g : Gang) (n : Nat) : List Hist := dropCovered (g.hist.map (fun h => { h with dist := h.dist + n }))

/-- Results that this instruction reads before their count covers them (R113). -/
def uncovered (h : List Hist) (g : Sig) : List Hist := h.filter (fun x => g.readKeys.contains x.key)

/-- The uncovered results that the instruction reads, in the order of their issue. -/
def Ctx.uncovered (c : Ctx) (g : Sig) : List Hist := Machine.uncovered (aged c.g (lastStep c.g c.pc g)) g

/-- Those that the scoreboard mode judges: all of its own gang's, unless it is the first instruction after a REGANG (R113, R114). -/
def Ctx.judged (c : Ctx) (g : Sig) : List Hist :=
  if c.g.last.any (·.regang) then [] else (c.uncovered g).filter (fun h => !h.inter)

/-- Those for which it waits: in interlock mode all; otherwise other gangs' results, and every one after a REGANG (R113, R114). -/
def Ctx.awaited (c : Ctx) (g : Sig) : List Hist :=
  (if c.w.sbm = 2 || c.g.last.any (·.regang) then c.uncovered g else (c.uncovered g).filter (·.inter))
  ++ ((c.w.gangs.filter (fun x => x.quads != c.g.quads)).map (fun x => Machine.uncovered x.hist g)).flatten

/-- The word that STALL_UNDERSIZE gives (R113). -/
def RegKey.det (k : RegKey) : Nat :=
  k.n + match k.file with
    | .vec => 0
    | .sca => 2 ^ 8
    | .pred => 2 ^ 9

/-- The beat that a recorded old value belongs to. -/
def RegWr.beat (r : RegWr) : Nat :=
  match r.file with
  | .sca => r.lane
  | _ => r.lane / 32

/-- In mode 0 each beat reads the register before or after the write: a free choice for each (R113). -/
def staleChoices (s : State) : List (Hist × Nat) → List RegWr × State
  | [] => ([], s)
  | (h, b) :: t =>
    let r := s.freeBool
    let u := staleChoices r.2 t
    (if r.1 then h.old.filter (fun o => o.beat == b && h.stale.getLsbD (if o.file = .sca then 0 else o.lane)) ++ u.1 else u.1, u.2)

/-! ## Busy registers -/

/-- Registers of results that are on their way: scoreboarded ones, loads and atomics (R111). -/
def pendingKeys (s : State) (w : Wave) : List RegKey :=
  (w.pend.map (·.keys)).flatten
  ++ ((s.loads.filter (fun l => l.w == w.key)).map (·.keys)).flatten
  ++ ((s.mops.filter (fun o => o.w == w.key && o.elems.any (fun e => e.phase.outstanding))).map (·.keys)).flatten

/-- Registers whose scoreboarded result has not been written (R111, R114). -/
def busyKeys (s : State) (w : Wave) : List RegKey :=
  pendingKeys s w
  ++ (w.gangs.map (fun g => match g.wait with | .comb _ d => [(⟨.sca, d⟩ : RegKey)] | _ => [])).flatten
  ++ ((s.ships.filter (fun o => o.w == w.key && o.tokens.isNone && o.port.isNone)).map (fun o =>
        (List.range o.nres).map (fun i => (⟨.vec, o.dst + i⟩ : RegKey)))).flatten

/-- R379: the wave has issued 32 instructions after its oldest unchecked store, which was number `iss` of its instructions. -/
def skidFull (s : State) (w : Wave) : Bool :=
  s.mops.any (fun o => o.w == w.key && !o.checked && decide (o.iss + 33 ≤ w.cntIss))

/-! ## Results -/

/-- What an arithmetic instruction produces. -/
structure Alu where
  writes : List RegWr
  flags : FlagBits := 0
  amax : List (Nat × Word) := []
  deriving DecidableEq, Repr

/-- How the body of an instruction ends. -/
inductive Exit where
  /-- Register results only. -/
  | alu (r : Alu)
  /-- The effect is in the state; the gang goes on. -/
  | done (s : State)
  /-- The effect is in the state, the PCs of the quads included. -/
  | jump (s : State)
  /-- The gang waits before this instruction and issues it again when it is woken. -/
  | wait (s : State) (w : Wait)
  /-- The instruction has issued and blocks its gang until its wait completes. -/
  | block (s : State) (w : Wait)
  /-- Nothing issued; the gang tries again. -/
  | stall (s : State)
  /-- A trap raised at issue. -/
  | trap (s : State) (t : TrapInfo)
  /-- A trap raised after the instruction: the wave resumes at the next slot. -/
  | trapAfter (s : State) (t : TrapInfo)
  deriving Repr

/-- s60-s62, on which every instruction depends (R15). -/
def maskKeys : List RegKey := [⟨.sca, 60⟩, ⟨.sca, 61⟩, ⟨.sca, 62⟩]

/-- A write of s63, FSTAT. -/
def RegWr.isFstat (r : RegWr) : Bool := r.file == .sca && r.n == 63

def RegWr.isPort (r : RegWr) : Bool := r.file == .vec && decide (240 ≤ r.n)

/-- What registers held before writes, scalars once for each beat. -/
def oldValues (w : Wave) (l : List RegWr) : List RegWr :=
  (l.map (fun r =>
    match r.file with
    | .vec => [{ r with x := w.rdV r.n r.lane }]
    | .pred => [{ r with x := if w.rdP r.n r.lane then 1 else 0 }]
    | .sca => (List.range 3).map (fun b => { r with lane := b, x := w.rdS r.n }))).flatten

/-- The wave's dirty sectors at the given places leave for their homes (R205). -/
def transmit (s : State) (k : WaveKey) (p : Target → Bool) : State :=
  { s with
    mops := s.mops.map (fun o =>
      if o.w = k then
        { o with
          elems := o.elems.map (fun e =>
            match e.phase, e.target with
            | .dirty _, some t => if p t then { e with phase := .sent } else e
            | _, _ => e) }
      else o) }

/-- Sends elements to a queue as one push; it applies at the queue's home (R247). -/
def sendPush (s : State) (w : Wave) (pc : Pc) (q : QueueRef) (l : List Nat) : State :=
  if l.isEmpty then s
  else
    let scope := ((readQueue s q).map (·.scope)).getD 0
    let size := ((readQueue s q).map (·.size)).getD 4
    let place : Option Target :=
      match q with
      | .fifo c b => some (.comb c (b * 0x8000))
      | _ => queuePlace s q
    let f := s.fresh
    let op : MOp :=
      { id := f.1, w := w.key, gid := w.grid, team := w.team, ctx := w.ctx, seq := w.opSeq, iss := w.cntIss, pc := pc,
        scope := scope, order := 2, space := q.space,
        kind := .push q, checked := true, keys := [], port := none, whole := 0, byElem := false, gtb := s.gtb, cyc := s.cyc,
        table := none,
        elems := l.zipIdx.map (fun p =>
          { lane := p.2, va := 0, size := size, data := p.1, cmp := 0, old := 0, target := place, lease := 7, dst := 0,
            phase := .sent, removal := .notNeeded }) }
    ({ f.2 with mops := f.2.mops ++ [op] }).updWave w.key (fun w => { w with opSeq := w.opSeq + 1 })

/-- A write of s63 that would retire after one that issues later is not made: the later issue stands (R17, R114). -/
def overtaken (left : Nat) (l : List Late) : List Late := l.map (fun x => if left < x.left then { x with fstat := none } else x)

/-- Register results enter the wave: at once with a fixed latency, or through the scoreboard (R111). With a fixed latency, FSTAT and the
amax registers change at the retirement (R51, R90). Values for a port go to its queue in ascending lane order (R49). -/
def commitAlu (s : State) (c : Ctx) (g : Sig) (r : Alu) : State :=
  let regs := r.writes.filter (fun x => !x.isPort)
  let vals := (r.writes.filter RegWr.isPort).map (fun x => x.x.toNat)
  let q : Option QueueRef := ((g.dst.find? Opnd.isPort).bind (fun o => c.w.portQueue o.n))
  if g.sb then
    let push := q.map (fun q => (q, vals))
    if regs.isEmpty && vals.isEmpty && r.flags == 0 then s
    else
      s.updWave c.k (fun w =>
        { w with pend := w.pend ++ [{ writes := regs, flags := r.flags, amax := r.amax, keys := g.writeKeys, push := push }] })
  else
    let left := c.beats g - 1 + c.latency g
    let late : List Late :=
      ((regs.filter RegWr.isFstat).map (fun x => { left := left, fstat := some x.x, flags := 0, amax := [] }))
      ++ (if r.flags == 0 && r.amax.isEmpty then [] else [{ left := left, fstat := none, flags := r.flags, amax := r.amax }])
    let s := s.updWave c.k (fun w =>
      let v := w.wrAll (regs.filter (fun x => !x.isFstat))
      { v with late := (if regs.any RegWr.isFstat then overtaken left v.late else v.late) ++ late })
    match q with
    | some q => sendPush s c.w c.pc q vals
    | none => s

/-! ## Queue ports -/

/-- A blocking pop or push of `n` elements at a port: its checks, and whether it must wait. -/
inductive PortCheck where
  | ready (q : QueueRef)
  | wait (w : Wait)
  | trap (t : TrapInfo)
  deriving DecidableEq, Repr

/-- R27, R49, R250, R392: scope, legality, poison, then availability or room. -/
def checkPort (s : State) (c : Ctx) (yielding push : Bool) (reg n : Nat) : PortCheck :=
  match c.w.portQueue reg with
  | none => .trap { code := Trap.registerRange, det1 := reg }
  | some q =>
    match readQueue s q with
    | none => .trap { code := Trap.registerRange, det1 := reg }
    | some h =>
      let a := c.w.portAddr reg
      if !queueScopeOk s c.w q h.scope then .trap { code := Trap.queueScope, mask := laneMask c.lanes, addr := a }
      else
        match judge s c.w yielding (if push then h.crec else h.prec) with
        | some d => .trap { code := Trap.illegalWait, mask := laneMask c.live, addr := a, det1 := d }
        | none =>
          match queuePoison s c.k.core q (if push then 0 else n) with
          | some d => .trap { code := Trap.poison, mask := laneMask c.lanes, det1 := d }
          | none =>
          if push then
            if roomOf s q h < n then .wait (.queue true q n a)
            else if c.g.released || fenceReady s c.w (actScope q.space h.scope) c.seq then .ready q
            else .wait (.release (actScope q.space h.scope) c.seq)
          else if h.count < n then .wait (.queue false q n a)
          else .ready q

/-- Lanes whose pop for source `i` is not yet in the latch. -/
def missingLanes (c : Ctx) (i : Nat) : List Nat := c.lanes.filter (fun l => (latchGet c.w c.pc i l).isNone)

def latchAdd (w : Wave) (key : Nat) (l : List (Nat × Word)) : Wave :=
  let old := ((w.latch.find? (fun p => p.1 == key)).map (·.2)).getD []
  { w with latch := (key, old ++ l) :: w.latch.filter (fun p => p.1 != key) }

/-- The lanes' latched values are used up. -/
def latchDrop (w : Wave) (pc : Pc) (lanes : List Nat) : Wave :=
  { w with
    latch := (w.latch.map (fun p =>
      if p.1 / 4 = pc.toNat then (p.1, p.2.filter (fun r => !lanes.contains r.1)) else p)).filter (fun p => !p.2.isEmpty) }

/-- How port operands stand at issue. -/
inductive PortsReady where
  | go (s : State)
  | wait (w : Wait)
  | trap (t : TrapInfo)
  deriving Repr

/-- Every check of every port operand, with nothing moved. A queue named more than once holds enough for all its namings. -/
def checkPorts (s : State) (c : Ctx) (yielding : Bool) : List (Nat × Nat) → Option Nat → Option PortCheck
  | (i, reg) :: t, p =>
    let also := t.filter (fun x => c.w.portQueue x.2 == c.w.portQueue reg)
    let n := (missingLanes c i).length + (also.map (fun x => (missingLanes c x.1).length)).sum
    if n = 0 then checkPorts s c yielding t p
    else
      match checkPort s c yielding false reg n with
      | .ready _ => checkPorts s c yielding t p
      | x => some x
  | [], some reg =>
    if c.lanes.isEmpty then none
    else
      match checkPort s c yielding true reg c.lanes.length with
      | .ready _ => none
      | x => some x
  | [], none => none

/-- Pops into the latch, source by source, lanes ascending (R49). -/
def popPorts (s : State) (c : Ctx) : List (Nat × Nat) → State
  | [] => s
  | (i, reg) :: t =>
    let l := missingLanes c i
    match c.w.portQueue reg with
    | none => popPorts s c t
    | some q =>
      let r := popMany s c.k.core q l.length
      let vals := l.zip (r.1.map (BitVec.ofNat 32))
      popPorts (r.2.updWave c.k (fun w => latchAdd w (latchKey c.pc i) vals)) c t

/-! ## Leaving an issue -/

/-- The gang waits: its PC stays. The wait yields in a `.y` form outside a concurrent grid (R32). The fence of a releasing access sends
the wave's dirty sectors on their way (R205, R220). -/
def enterWait (s : State) (c : Ctx) (yielding : Bool) (x : Wait) : State :=
  let s := match x with | .release _ _ => transmit s c.k (fun _ => true) | _ => s
  s.updWave c.k (fun w =>
    let v := w.updGang c.q (fun g => { g with wait := x, yielding := yielding, waitSince := s.gtb, bound := some c.w.ports })
    { v with stale := [], sched := if v.gangs.all (fun g => g.wait != .none) then .blocked else v.sched })

/-- The gang may issue in this cycle for all that its last issue says: the first beat is due, or it may pair (R112, R116), and it has
not just been found unable to (R23). -/
def Gang.due (g : Gang) (cyc : Nat) : Bool :=
  g.wait == Wait.none && g.stalledAt != some cyc &&
    match g.last with
    | none => true
    | some l => decide (l.cyc + max l.stall l.beats ≤ cyc) || (l.pairBit && l.stall == 0 && !l.second && !l.control)

/-- Scheduling hints after an issue of `n` beats (R23, R121, R170): counters, rotation, the last issue of the wave. `consec` counts the
gang's consecutive issues while another gang of the wave was ready. -/
def countIssue (s : State) (c : Ctx) (n : Nat) : State :=
  s.updWave c.k (fun w =>
    { w with
      cntIss := w.cntIss + 1, lastIssue := s.cyc
      consec :=
        if w.gangs.any (fun g => g.quads.headD 0 != c.g.quads.headD 0 && g.due s.cyc) then
          (if w.rot = c.g.quads.headD 0 then w.consec + 1 else 1)
        else 0
      rot := c.g.quads.headD 0, stale := []
      preempt := (match w.preempt with | .running m l => .running (m + n) l | p => p) })

/-- Slot-cycles are charged to the context's budget entry (R355). -/
def charge (s : State) (c : Ctx) (n : Nat) : State :=
  if 256 ≤ c.k.core then s
  else
    let d := s.desc c.k.core c.w.ctx
    if d.testBit 496 then
      let i := field d 495 488
      s.updPart (s.partOf c.k.core) (fun p => { p with budUsed := SMap.set 0 p.budUsed i (SMap.get 0 p.budUsed i + n) })
    else s

/-- Records the issue for the count distance (R113) and drops what it used. A result stays until its count covers it; a later write
takes the lanes it writes, and what they held before is seen no more once that write has landed, as a scoreboarded one has before its
register is read (R114). -/
def recordIssue (s : State) (c : Ctx) (h : Hdr) (g : Sig) (pair : Bool) (old : List RegWr) : State :=
  let n := lastStep c.g c.pc g
  let second := (c.g.last.map (fun l => pairsWith l c.pc g)).getD false
  let lanes (k : RegKey) : Mask := match k.file with | .sca => 1 | _ => laneMask c.lanes
  let fresh : List Hist :=
    if 0 < c.latency g ∧ !c.lanes.isEmpty then
      g.writeKeys.map (fun k =>
        { key := k, lanes := lanes k, stale := lanes k, need := c.latency g + c.beats g - 1, dist := 0,
          ready := s.cyc + c.beats g - 1 + c.latency g, inter := false,
          old := old.filter (fun r => r.file == k.file && r.n == k.n) })
    else []
  let cover (y : Hist) : Hist :=
    if g.writeKeys.contains y.key && !c.lanes.isEmpty then
      { y with
        lanes := y.lanes &&& ~~~lanes y.key
        stale := if c.latency g = 0 then y.stale &&& ~~~lanes y.key else y.stale }
    else y
  let last : LastIssue :=
    { pc := c.pc, pairBit := pair, stall := h.stall.toNat, beats := c.beats g, vecPipe := g.vecPipe, control := g.control,
      writes := g.writeKeys, second := second, regang := g.regang, cyc := s.cyc }
  (charge s c (if second then 0 else c.beats g)).updWave c.k (fun w =>
    { w with
      settling := false
      gangs := w.gangs.map (fun x =>
        if x.quads.any (fun q => c.g.quads.contains q) then
          { x with
            hist := ((aged c.g n).filter (fun y => !y.inter || decide (s.cyc < y.ready))).map cover ++ fresh
            last := some last, replay := none, owed := none, released := false, bound := none, stalledAt := none }
        else x) })

/-- Sequential flow after the instruction, the loop end included (R139). -/
def goOn (s : State) (c : Ctx) : State :=
  match s.wave? c.k with
  | none => s
  | some w =>
    let quads := c.g.quads.filter w.quadLive
    let r := w.flow quads c.pc
    let s := s.updWave c.k (fun _ => r.1)
    if r.2 then park s c.k (({ code := Trap.loopBody, mask := laneMask c.live, det1 := 3 } : TrapInfo).at_ (nextPc c.pc)) else s

/-- As `goOn`, where the instruction itself traps after its effect: a body end met by several gangs is reported behind it. -/
def goOnQuiet (s : State) (c : Ctx) : State :=
  match s.wave? c.k with
  | none => s
  | some w =>
    let r := w.flow (c.g.quads.filter w.quadLive) c.pc
    let s := s.updWave c.k (fun _ => r.1)
    if r.2 then report s c.k 6 (({ code := Trap.loopBody, mask := laneMask c.live, det1 := 3 } : TrapInfo).at_ (nextPc c.pc)) else s

/-- A trap raised at issue: nothing of the instruction counts (R371). -/
def trapOut (s : State) (c : Ctx) (t : TrapInfo) : State :=
  park (s.updWave c.k (fun w => w.updGang c.q (fun g => { g with replay := none }))) c.k (t.at_ c.pc)

def Sig.port (g : Sig) : Option Nat := (g.dst.find? Opnd.isPort).map (·.n)

/-- A register outside the window, or an unbound port (R44, R49, R63). -/
def rangeFault (s : State) (w : Wave) : List Opnd → Option Nat
  | [] => none
  | o :: t =>
    if o.isPort && o.cnt == 0 then (if ((w.portQueue o.n).bind (readQueue s)).isSome then rangeFault s w t else some o.n)
    else if o.isPort && o.cnt == 1 then (if portBound s w o.n then rangeFault s w t else some o.n)
    else if o.file == .vec && decide (0 < o.cnt) && decide (w.nvec < o.n + o.cnt) then some (max o.n w.nvec)
    else rangeFault s w t

/-- Registers of ports named as sources count for the range check as well. -/
def Sig.ranged (g : Sig) : List Opnd := g.dst ++ g.srcs

/-- The decode traps of R108 that follow the line check, in their order. Of several uncovered registers STALL_UNDERSIZE names the one
whose producer issued first: the model's choice (log 105). -/
def decodeTrap (s : State) (c : Ctx) (opOk : Bool) (g : Sig) : Option TrapInfo :=
  if !opOk then some { code := Trap.illegalOpcode }
  else
    match firstIllegal g.legal with
    | some b => some { code := Trap.illegalField, det1 := b }
    | none =>
      match rangeFault s c.w g.ranged with
      | some n => some { code := Trap.registerRange, det1 := n }
      | none =>
        if c.w.sbm = 1 then
          match (c.judged g).filter (fun h => h.lanes != 0) with
          | [] => none
          | x :: _ => some { code := Trap.stallUndersize, det1 := x.key.det, det2 := x.need - x.dist }
        else none

/-- The first cycle at which the gang may issue (R112), and at which the results it waits for are ready. -/
def earliest (c : Ctx) (g : Sig) : Nat :=
  ((c.awaited g).map (·.ready)).foldl max (((c.g.last.map (·.cyc)).getD 0) + lastStep c.g c.pc g)

/-- Time passes to that cycle. -/
def waitFor (s : State) (c : Ctx) (g : Sig) : State := s.advance (earliest c g - s.cyc)

/-- `active()`: the live lanes whose guard is true (R16); a replay issues in the recorded lanes only (R375). -/
def activeLanes (h : Hdr) (w : Wave) (g : Gang) (live : List Nat) : List Nat :=
  let act := live.filter (fun l => xor (w.rdP h.gp.toNat l) h.gn)
  match g.replay with
  | none => act
  | some m => act.filter (fun l => m.getLsbD l)

/-- Stale values of mode 0 enter the wave's reads, its guard among them. -/
def withStale (s : State) (c : Ctx) (h : Hdr) (g : Sig) : Ctx × State :=
  if c.w.sbm = 0 then
    let r := staleChoices s (((c.judged g).map (fun h => (List.range 3).map (fun b => (h, b)))).flatten)
    let w := { c.w with stale := r.1 }
    ({ c with w := w, lanes := activeLanes h w c.g c.live }, r.2)
  else (c, s)

/-- The gang stands before an instruction at which its pre-empted wave stops (R120, R121). -/
def Wave.atPoint (w : Wave) (g : Gang) : Bool :=
  match w.preempt with
  | .running _ l => l.contains (w.pcOf (g.quads.headD 0))
  | _ => false

/-- The gangs that may issue. -/
def Wave.dueGangs (w : Wave) (cyc : Nat) : List Nat :=
  (w.gangs.filter (fun g => g.due cyc && !w.atPoint g)).map (fun g => g.quads.headD 0)

/-- Loads of the wave that wait for the home of their data: they missed the L1, or go to `h:` or to a peer (R352). -/
def missKeys (s : State) (k : WaveKey) : List RegKey := ((s.loads.filter (fun l => l.w == k && l.missed)).map (·.keys)).flatten

/-- The gang finds that it cannot issue in this cycle, and the next of its wave takes its turn (R23). With none left, a wave that waits
for a load of the pool goes there; one that waits for another scoreboarded result gives its place to a Pending wave that is ready
(R352). `keys` are the busy registers that it names. -/
def stalled (s : State) (c : Ctx) (keys : List RegKey) : State :=
  let s := s.updWave c.k (fun w => w.updGang c.q (fun g => { g with stalledAt := some s.cyc }))
  let waits := keys.filter (fun k => (missKeys s c.k).contains k)
  match s.wave? c.k with
  | none => s
  | some w =>
    if keys.isEmpty || w.sched != .active || !(w.dueGangs s.cyc).isEmpty then s
    else if !waits.isEmpty then s.updWave c.k (fun w => { w with sched := .pool, pooled := waits })
    else
      match s.waves.find? (fun x => x.key.core == c.k.core && x.key.slot == c.k.slot && x.key != c.k && x.sched == .pending
          && x.preempt != .stopped && !x.rejoin && !(x.dueGangs s.cyc).isEmpty) with
      | none => s
      | some x => { s with waves := s.waves.map (fun y =>
          if y.key = c.k then { y with sched := .pending } else if y.key = x.key then { y with sched := .active } else y) }

/-- The body has run: how the issue ends. -/
def finish (c : Ctx) (h : Hdr) (g : Sig) (pair yielding : Bool) (s0 : State) : Exit → State
  | .alu r =>
    let old := if c.w.sbm = 0 then oldValues c.w (r.writes.filter (fun x => !x.isPort)) else []
    goOn (recordIssue (countIssue ((commitAlu s0 c g r).updWave c.k (fun w => latchDrop w c.pc c.lanes)) c (c.beats g)) c h g pair old) c
  | .done s =>
    goOn (recordIssue (countIssue (s.updWave c.k (fun w => latchDrop w c.pc c.lanes)) c (c.beats g)) c h g pair []) c
  | .jump s => recordIssue (countIssue (s.updWave c.k (fun w => latchDrop w c.pc c.lanes)) c (c.beats g)) c h g pair []
  | .wait s x => enterWait s c yielding x
  | .block s x =>
    enterWait (recordIssue (countIssue (s.updWave c.k (fun w => latchDrop w c.pc c.lanes)) c (c.beats g)) c h g pair []) c yielding x
  | .stall s => stalled s c []
  | .trap s t => trapOut s c t
  | .trapAfter s t =>
    let s1 := goOnQuiet (recordIssue (countIssue (s.updWave c.k (fun w => latchDrop w c.pc c.lanes)) c (c.beats g)) c h g pair []) c
    park s1 c.k (t.at_ c.pc)

/-- Poisoned wave state or a poisoned slice that the instruction reads (R392). -/
def poisonTrap (s : State) (c : Ctx) (g : Sig) : Option TrapInfo :=
  if s.poison.contains (.waveState c.k) && g.srcs.any (fun o => o.file != .vec) then
    some { code := Trap.poison, mask := laneMask c.lanes, det1 := 3 }
  else if g.srcs.any (fun o => o.file == .vec) && c.g.quads.any (fun q => s.poison.contains (.slice c.k q)) then
    some { code := Trap.poison, mask := laneMask c.lanes, det1 := 2 }
  else none

/-- The wave with the ports the gang began to wait with (R249). -/
def Gang.holding (g : Gang) (w : Wave) : Wave :=
  match g.bound with
  | some p => { w with ports := p }
  | none => w

/-- Registers of the instruction that wait for a scoreboarded result, the activity mask among them (R15, R111); of a wave that comes
back, everything that is on its way (R114). -/
def Ctx.busy (s : State) (c : Ctx) (g : Sig) : List RegKey :=
  (g.readKeys ++ g.writeKeys ++ maskKeys).filter (fun k => (busyKeys s c.w).contains k)
    ++ (if c.w.settling then pendingKeys s c.w else [])

/-- The wave as it stands once the gang's ports have been popped. -/
def Ctx.after (c : Ctx) (s : State) : Ctx :=
  { c with w := { c.g.holding ((s.wave? c.k).getD c.w) with wcw := c.w.wcw, stale := c.w.stale } }

/-- A store or atomic comes to its T before the gang's time to issue: it applies first (R209, R212). -/
def dueBefore (s : State) (c : Ctx) (g : Sig) : Bool :=
  let n := earliest c g - s.cyc
  decide (0 < n) && s.mops.any (fun o => o.elems.any (fun e =>
    match e.phase with
    | .arrived x _ => decide (x ≤ (s.advance n).gtb)
    | _ => false))

/-- A port still to be popped: a pop comes after the acquires and fences before it (R219, R220). -/
def Ctx.popsHeld (s : State) (c : Ctx) (g : Sig) : Bool :=
  g.pops.any (fun p => !(missingLanes c p.1).isEmpty) && orderHeld s c.k c.seq

/-- Beyond decoding: busy registers, the store skid, the ports, then the body. -/
def issueBody (c0 : Ctx) (h : Hdr) (g : Sig) (pair : Bool) (body : Ctx → State → Exit) (s0 : State) : State :=
  if !(c0.busy s0 g).isEmpty || skidFull s0 c0.w || dueBefore s0 c0 g || c0.popsHeld s0 g then stalled s0 c0 (c0.busy s0 g)
  else
    let r := withStale s0 c0 h g
    let c := r.1
    match poisonTrap r.2 c g, checkPorts r.2 c h.yld g.pops g.port with
    | some t, _ => trapOut r.2 c t
    | _, some (.trap t) => trapOut r.2 c t
    | _, some (.wait x) => enterWait r.2 c h.yld x
    | _, _ =>
      let s := popPorts (waitFor r.2 c g) c g.pops
      finish (c.after s) h g pair h.yld s (body (c.after s) s)

/-- The issuing gang: `cur`, with the lanes of `active()` and the control word as the wave sees it (R60). -/
def ctxOf (h : Hdr) (s : State) : Option (Ctx × Bool) :=
  match s.cur with
  | none => none
  | some u =>
    match s.wave? u.w with
    | none => none
    | some w =>
      match w.gangOf u.quad with
      | none => none
      | some g =>
        let live := w.liveLanes g
        some ({ k := u.w, w := { g.holding w with wcw := s.seenWcw w }, g := g, q := u.quad, pc := w.pcOf u.quad, live := live,
                lanes := activeLanes h w g live }, u.pair)

/-- THE issue of an instruction: `opOk` is false where the wave's core has no such opcode (R256, R257). -/
def issue (h : Hdr) (opOk : Ctx → Bool) (sig : Ctx → Sig) (body : Ctx → State → Exit) (s : State) :
    Host.Outcome State Fault Refusal :=
  match ctxOf h s with
  | none => .fault .noIssuer
  | some (c, pair) =>
    let s := { s with cur := none }
    match decodeTrap s c (opOk c) (sig c) with
    | some t => .next (trapOut s c t)
    | none => .next (issueBody c h (sig c) pair body s)

def always (_ : Ctx) : Bool := true

/-- An opcode of shipped sections alone (R257). -/
def inSection (c : Ctx) : Bool := c.w.section?

/-- Opcodes a shipped section may not use (R256). -/
def notInSection (c : Ctx) : Bool := !c.w.section?

end Sys2Proof.Machine
end

