-- ==== Sys2Proof/Machine/Integer.lean ====
section
/-! DEFINITION. Moves, integer arithmetic, logic, compare and 64-bit integers (05 R127-R161). -/

namespace Sys2Proof.Machine

def tyIn (m : Mod) (lo hi : Nat) : Bool := decide (lo ≤ m.ty.toNat) && decide (m.ty.toNat ≤ hi)

/-! ## Moves -/

def sigMov (h : Hdr) (f : FmtA) (c : Ctx) : Sig :=
  let wide := f.m.ty == 7
  sigA c.w16 h f
    { plainMod f.m with
      dst := .reg wide, a := .any wide, ty := f.m.ty == 9 || wide, ds := .either, lat := 2 }

/-- R153. -/
def execMov (h : Hdr) (f : FmtA) (s : State) : Host.Outcome State Fault Refusal :=
  let wide := f.m.ty == 7
  issue h always (sigMov h f)
    (fun c _ => .alu { writes := c.dstAll f.m.ds h.dst wide (c.src 0 f.m.sa f.sa wide) }) s

def sigMovi (h : Hdr) (f : FmtI) (c : Ctx) : Sig :=
  let ty := f.m.ty.toNat
  let wide := isWide ty
  sigI c.w16 h f
    { plainMod f.m with dst := .reg wide, ty := tyIn f.m 0 13, ds := .either, lat := 2 }
    [(49, !tyIn f.m 0 13 || immOk ty f.imm)]

/-- R102, R153. -/
def execMovi (h : Hdr) (f : FmtI) (s : State) : Host.Outcome State Fault Refusal :=
  let ty := f.m.ty.toNat
  let wide := isWide ty
  issue h always (sigMovi h f)
    (fun c _ => .alu { writes := c.dstAll f.m.ds h.dst wide (fun _ => extendElem ty (immValue ty f.imm)) }) s

/-- A team's linear number as coordinates (R12, R350). -/
def teamCoord (g : Grid) (n i : Nat) : Nat :=
  if g.desc.flags % 2 = 1 then (if i = 0 then n else 0)
  else
    match i with
    | 0 => n % g.desc.nx
    | 1 => n / g.desc.nx % g.desc.ny
    | _ => n / (g.desc.nx * g.desc.ny)

def gridDim (g : Grid) (i : Nat) : Nat :=
  if g.desc.flags % 2 = 1 then (if i = 0 then g.nextTeam else 1)
  else
    match i with
    | 0 => g.desc.nx
    | 1 => g.desc.ny
    | _ => g.desc.nz

/-- The special value of a selector (R57, R420). -/
def special (s : State) (w : Wave) (sel lane : Nat) : Nat :=
  let t := s.waveTeam w
  let g := if w.section? then none else s.grid? w.grid (s.partOf w.key.core)
  match sel with
  | 0 => lane
  | 1 => lane / 4
  | 2 => if w.section? then 0 else w.wnum
  | 3 => (g.map (fun g => (g.kernel.x * g.kernel.y * g.kernel.z + w.width - 1) / w.width)).getD 1
  | 4 | 5 | 6 => (g.map (fun g => teamCoord g w.team (sel - 4))).getD 0
  | 7 | 8 | 9 => (g.map (fun g => gridDim g (sel - 7))).getD 1
  | 10 => w.key.core
  | 11 => dieOf w.key.core
  | 12 => s.fabric.rank
  | 13 => s.waveClass w
  | 14 => (t.map (·.seq)).getD 0 % 2 ^ 32
  | 15 => w.width
  | 16 => s.gtb % 2 ^ 64
  | 24 => (s.seenWcw w).toNat
  | _ => if sel ≤ 23 then (SMap.get 0#64 w.wct (sel - 17)).toNat else (SMap.get 0#32 w.lc (sel - 25)).toNat

def sigMovsp (h : Hdr) (f : FmtA) (c : Ctx) : Sig :=
  let sel := f.m.sub.toNat
  let wide := decide (16 ≤ sel) && decide (sel ≤ 23)
  sigA c.w16 h f
    { plainMod f.m with
      dst := .reg wide, ds := if sel < 2 then .zero else .either, sub := decide (sel < 28), lat := 2 }

def execMovsp (h : Hdr) (f : FmtA) (s : State) : Host.Outcome State Fault Refusal :=
  let sel := f.m.sub.toNat
  let wide := decide (16 ≤ sel) && decide (sel ≤ 23)
  issue h always (sigMovsp h f)
    (fun c s => .alu { writes := c.dstAll f.m.ds h.dst wide (special s c.w sel) }) s

/-! ## Arithmetic -/

/-- Sources as integers of TYPE, the exact result reduced by R129. -/
def intBody (h : Hdr) (f : FmtA) (op : Nat → Int → Int → Int → Int) (c : Ctx) (_ : State) : Exit :=
  let ty := f.m.ty.toNat
  let wide := isWide ty
  let m := f.m
  .alu
    { writes := c.dstAll m.ds h.dst wide (fun l =>
        extendElem ty (reduceInt ty m.sat
          (op ty (decodeInt ty (c.src 0 m.sa f.sa wide l)) (decodeInt ty (c.src 1 m.sb f.sb wide l))
            (decodeInt ty (c.src 2 m.sc f.sc wide l))))) }

/-- `n` sources, TYPE from `lo` to `hi`, SAT where allowed. -/
def sigInt (h : Hdr) (f : FmtA) (n lo hi : Nat) (sat : Bool) (lat : Nat) (sb : Bool) (c : Ctx) : Sig :=
  let wide := isWide f.m.ty.toNat
  let u : SrcUse := .reg wide
  sigA c.w16 h f
    { plainMod f.m with
      dst := .reg wide, a := u, b := if 1 < n then u else .unused, c := if 2 < n then u else .unused,
      ty := tyIn f.m lo hi, sat := sat || !f.m.sat, ds := .either, lat := lat, sb := sb, pipe := sb }

def execIadd (h : Hdr) (f : FmtA) (s : State) : Host.Outcome State Fault Refusal :=
  issue h always (sigInt h f 2 8 13 true 2 false) (intBody h f (fun _ a b _ => a + b)) s

def execIsub (h : Hdr) (f : FmtA) (s : State) : Host.Outcome State Fault Refusal :=
  issue h always (sigInt h f 2 8 13 true 2 false) (intBody h f (fun _ a b _ => a - b)) s

def execImul (h : Hdr) (f : FmtA) (s : State) : Host.Outcome State Fault Refusal :=
  issue h always (sigInt h f 2 8 13 true 6 false) (intBody h f (fun _ a b _ => a * b)) s

def execImulh (h : Hdr) (f : FmtA) (s : State) : Host.Outcome State Fault Refusal :=
  issue h always (sigInt h f 2 8 13 false 6 false) (intBody h f (fun ty a b _ => a * b / 2 ^ codeWidth ty)) s

def execImad (h : Hdr) (f : FmtA) (s : State) : Host.Outcome State Fault Refusal :=
  issue h always (sigInt h f 3 8 13 true 6 false) (intBody h f (fun _ a b x => a * b + x)) s

/-- R155. -/
def intDiv (ty : Nat) (a b : Int) : Int :=
  if b = 0 then
    (if isSignedCode ty then (if a < 0 then -(2 ^ (codeWidth ty - 1)) else 2 ^ (codeWidth ty - 1) - 1)
     else 2 ^ codeWidth ty - 1)
  else Int.tdiv a b

def intRem (a b : Int) : Int := if b = 0 then a else Int.tmod a b

def execIdiv (h : Hdr) (f : FmtA) (s : State) : Host.Outcome State Fault Refusal :=
  issue h always (sigInt h f 2 8 13 true 0 true) (intBody h f (fun ty a b _ => intDiv ty a b)) s

def execIrem (h : Hdr) (f : FmtA) (s : State) : Host.Outcome State Fault Refusal :=
  issue h always (sigInt h f 2 8 13 false 0 true) (intBody h f (fun _ a b _ => intRem a b)) s

def execImin (h : Hdr) (f : FmtA) (s : State) : Host.Outcome State Fault Refusal :=
  issue h always (sigInt h f 2 8 13 false 2 false) (intBody h f (fun _ a b _ => min a b)) s

def execImax (h : Hdr) (f : FmtA) (s : State) : Host.Outcome State Fault Refusal :=
  issue h always (sigInt h f 2 8 13 false 2 false) (intBody h f (fun _ a b _ => max a b)) s

def sigIabs (h : Hdr) (f : FmtA) (c : Ctx) : Sig :=
  sigA c.w16 h f
    { plainMod f.m with
      dst := .reg false, a := .reg false, ty := tyIn f.m 8 13 && isSignedCode f.m.ty.toNat, sat := true, ds := .either,
      lat := 2 }

def execIabs (h : Hdr) (f : FmtA) (s : State) : Host.Outcome State Fault Refusal :=
  issue h always (sigIabs h f)
    (intBody h f (fun _ a _ _ => (a.natAbs : Int))) s

/-! ## Logic, shift, bit-field -/

/-- 32 bits in, 32 bits out (R156). -/
def logicBody (h : Hdr) (f : FmtA) (op : Nat → Nat → Nat → Nat) (c : Ctx) (_ : State) : Exit :=
  let m := f.m
  .alu
    { writes := c.dstAll m.ds h.dst false (fun l =>
        op (c.src 0 m.sa f.sa false l) (c.src 1 m.sb f.sb false l) (c.src 2 m.sc f.sc false l)) }

def sigLogic (h : Hdr) (f : FmtA) (n : Nat) (sub : Bool) (c : Ctx) : Sig :=
  sigA c.w16 h f
    { plainMod f.m with
      dst := .reg false, a := .reg false, b := if 1 < n then .reg false else .unused,
      c := if 2 < n then .reg false else .unused, ty := f.m.ty == 9, ds := .either, sub := f.m.sub == 0 || sub, lat := 2 }

def execAnd (h : Hdr) (f : FmtA) (s : State) : Host.Outcome State Fault Refusal :=
  issue h always (sigLogic h f 2 false) (logicBody h f (fun a b _ => a &&& b)) s

def execOr (h : Hdr) (f : FmtA) (s : State) : Host.Outcome State Fault Refusal :=
  issue h always (sigLogic h f 2 false) (logicBody h f (fun a b _ => a ||| b)) s

def execXor (h : Hdr) (f : FmtA) (s : State) : Host.Outcome State Fault Refusal :=
  issue h always (sigLogic h f 2 false) (logicBody h f (fun a b _ => a ^^^ b)) s

def execNot (h : Hdr) (f : FmtA) (s : State) : Host.Outcome State Fault Refusal :=
  issue h always (sigLogic h f 1 false) (logicBody h f (fun a _ _ => 2 ^ 32 - 1 - a)) s

def execShl (h : Hdr) (f : FmtA) (s : State) : Host.Outcome State Fault Refusal :=
  issue h always (sigLogic h f 2 false) (logicBody h f (fun a b _ => a * 2 ^ min b 32 % 2 ^ 32)) s

def execShr (h : Hdr) (f : FmtA) (s : State) : Host.Outcome State Fault Refusal :=
  issue h always (sigLogic h f 2 false) (logicBody h f (fun a b _ => a / 2 ^ min b 32)) s

def execSar (h : Hdr) (f : FmtA) (s : State) : Host.Outcome State Fault Refusal :=
  issue h always (sigLogic h f 2 false) (logicBody h f (fun a b _ => wrapBits 32 (sext 32 a / 2 ^ min b 32))) s

def execFshl (h : Hdr) (f : FmtA) (s : State) : Host.Outcome State Fault Refusal :=
  issue h always (sigLogic h f 3 false)
    (logicBody h f (fun a b x => (a * 2 ^ 32 + b) * 2 ^ min x 32 % 2 ^ 64 / 2 ^ 32)) s

def leadingZeros (a : Nat) : Nat := if a = 0 then 32 else 31 - Nat.log2 a

def execClz (h : Hdr) (f : FmtA) (s : State) : Host.Outcome State Fault Refusal :=
  issue h always (sigLogic h f 1 false) (logicBody h f (fun a _ _ => leadingZeros a)) s

def bitList (n a : Nat) : List Nat := (List.range n).map (fun i => a / 2 ^ i % 2)

def execPopc (h : Hdr) (f : FmtA) (s : State) : Host.Outcome State Fault Refusal :=
  issue h always (sigLogic h f 1 false) (logicBody h f (fun a _ _ => (bitList 32 a).sum)) s

def reverseBits (n a : Nat) : Nat := (bitList n a).foldl (fun r b => 2 * r + b) 0

def execBrev (h : Hdr) (f : FmtA) (s : State) : Host.Outcome State Fault Refusal :=
  issue h always (sigLogic h f 1 false) (logicBody h f (fun a _ _ => reverseBits 32 a)) s

/-- Position and cut length of a field operand (R157). -/
def bfPos (b : Nat) : Nat := b % 256

def bfLen (b : Nat) : Nat := if bfPos b < 32 then min (b / 256 % 256) (32 - bfPos b) else 0

def bfExtract (signed : Bool) (a b : Nat) : Nat :=
  let n := bfLen b
  let x := a / 2 ^ bfPos b % 2 ^ n
  if n = 0 then 0 else if signed then wrapBits 32 (sext n x) else x

def bfInsert (a b x : Nat) : Nat :=
  let n := bfLen x
  let p := bfPos x
  a - a / 2 ^ p % 2 ^ n * 2 ^ p + b % 2 ^ n * 2 ^ p

def execBfe (h : Hdr) (f : FmtA) (s : State) : Host.Outcome State Fault Refusal :=
  issue h always (sigLogic h f 2 (f.m.sub == 1)) (logicBody h f (fun a b _ => bfExtract (f.m.sub == 1) a b)) s

def execBfi (h : Hdr) (f : FmtA) (s : State) : Host.Outcome State Fault Refusal :=
  issue h always (sigLogic h f 3 false) (logicBody h f (fun a b x => if bfLen x = 0 then a else bfInsert a b x)) s

/-! ## Compare and select -/

/-- R158. -/
def intCmp (sub : Nat) (a b : Int) : Bool :=
  match sub with
  | 0 => decide (a = b)
  | 1 => decide (a ≠ b)
  | 2 => decide (a < b)
  | 3 => decide (a ≤ b)
  | 4 => decide (b < a)
  | _ => decide (b ≤ a)

def icmpBody (h : Hdr) (f : FmtA) (c : Ctx) (_ : State) : Exit :=
  let ty := f.m.ty.toNat
  let wide := isWide ty
  .alu
    { writes := c.predAll h.dst.toNat (fun l =>
        intCmp f.m.sub.toNat (decodeInt ty (c.src 0 f.m.sa f.sa wide l)) (decodeInt ty (c.src 1 f.m.sb f.sb wide l))) }

def sigIcmp (h : Hdr) (f : FmtA) (c : Ctx) : Sig :=
  sigA c.w16 h f
    { plainMod f.m with
      dst := .pred, a := .reg false, b := .reg false, ty := tyIn f.m 8 13, sub := decide (f.m.sub.toNat < 6), lat := 2 }

def execIcmp (h : Hdr) (f : FmtA) (s : State) : Host.Outcome State Fault Refusal :=
  issue h always (sigIcmp h f)
    (icmpBody h f) s

def sigIcmp64 (h : Hdr) (f : FmtA) (c : Ctx) : Sig :=
  sigA c.w16 h f
    { plainMod f.m with
      dst := .pred, a := .reg true, b := .reg true, ty := tyIn f.m 6 7, sub := decide (f.m.sub.toNat < 6), lat := 4,
      native64 := true }

def execIcmp64 (h : Hdr) (f : FmtA) (s : State) : Host.Outcome State Fault Refusal :=
  issue h always (sigIcmp64 h f)
    (icmpBody h f) s

def sigIsel (h : Hdr) (f : FmtA) (c : Ctx) : Sig :=
  let ty := f.m.ty.toNat
  let wide := isWide ty
  sigA c.w16 h f
    { plainMod f.m with
      dst := .reg wide, a := .reg wide, b := .reg wide, c := .pred, ty := tyIn f.m 6 13, lat := 2 }

def execIsel (h : Hdr) (f : FmtA) (s : State) : Host.Outcome State Fault Refusal :=
  let ty := f.m.ty.toNat
  let wide := isWide ty
  issue h always (sigIsel h f)
    (fun c _ => .alu
      { writes := c.dstAll false h.dst wide (fun l =>
          extendElem ty (if c.w.rdP f.sc.reg.toNat l then c.src 0 f.m.sa f.sa wide l else c.src 1 f.m.sb f.sb wide l)) }) s

/-! ## 64-bit integers -/

def sigIadd64 (h : Hdr) (f : FmtA) (c : Ctx) : Sig := { sigInt h f 2 6 7 true 4 false c with native64 := true }

def execIadd64 (h : Hdr) (f : FmtA) (s : State) : Host.Outcome State Fault Refusal :=
  issue h always (sigIadd64 h f) (intBody h f (fun _ a b _ => a + b)) s

def sigIsub64 (h : Hdr) (f : FmtA) (c : Ctx) : Sig := { sigInt h f 2 6 7 true 4 false c with native64 := true }

def execIsub64 (h : Hdr) (f : FmtA) (s : State) : Host.Outcome State Fault Refusal :=
  issue h always (sigIsub64 h f) (intBody h f (fun _ a b _ => a - b)) s

def execImul64 (h : Hdr) (f : FmtA) (s : State) : Host.Outcome State Fault Refusal :=
  issue h always (sigInt h f 2 6 7 true 12 false) (intBody h f (fun _ a b _ => a * b)) s

def execImad64 (h : Hdr) (f : FmtA) (s : State) : Host.Outcome State Fault Refusal :=
  issue h always (sigInt h f 3 6 7 true 12 false) (intBody h f (fun _ a b x => a * b + x)) s

/-- A pair with a 32-bit second source. -/
def pairBody (h : Hdr) (f : FmtA) (op : Nat → Nat → Nat) (c : Ctx) (_ : State) : Exit :=
  .alu
    { writes := c.dstAll f.m.ds h.dst true (fun l =>
        op (c.src 0 f.m.sa f.sa true l) (c.src 1 f.m.sb f.sb false l)) }

def sigPair (h : Hdr) (f : FmtA) (sub : Bool) (lat : Nat) (native : Bool) (c : Ctx) : Sig :=
  sigA c.w16 h f
    { plainMod f.m with
      dst := .reg true, a := .reg true, b := .reg false, ty := f.m.ty == 7, ds := .either, sub := f.m.sub == 0 || sub,
      lat := lat, native64 := native }

def execShl64 (h : Hdr) (f : FmtA) (s : State) : Host.Outcome State Fault Refusal :=
  issue h always (sigPair h f false 4 true) (pairBody h f (fun a b => a * 2 ^ min b 64 % 2 ^ 64)) s

def execShr64 (h : Hdr) (f : FmtA) (s : State) : Host.Outcome State Fault Refusal :=
  issue h always (sigPair h f false 4 true) (pairBody h f (fun a b => a / 2 ^ min b 64)) s

def execSar64 (h : Hdr) (f : FmtA) (s : State) : Host.Outcome State Fault Refusal :=
  issue h always (sigPair h f false 4 true) (pairBody h f (fun a b => wrapBits 64 (sext 64 a / 2 ^ min b 64))) s

/-- R161. -/
def execLea (h : Hdr) (f : FmtA) (s : State) : Host.Outcome State Fault Refusal :=
  let sub := f.m.sub.toNat
  issue h always (sigPair h f (decide (f.m.sub.toNat < 16)) 2 false)
    (pairBody h f (fun a b =>
      wrapBits 64 (a + (if sub / 8 % 2 = 1 then sext 32 b else (b : Int)) * 2 ^ (sub % 8)))) s

end Sys2Proof.Machine
end

