-- ==== Sys2Proof/Machine/Float.lean ====
section
/-! DEFINITION. Vector floating point (06 R171-R178), reductions and dot products (R186-R188). -/

namespace Sys2Proof.Machine

/-- A rounding code that the field may hold (R76). -/
def rndOk (m : Mod) : Bool := decide (m.rnd.toNat ≤ 5)

/-- The rounding mode captured at issue (R62, R76). -/
def Ctx.mode (c : Ctx) (rnd : Nat) : Nat := if rnd = 5 then c.w.rm else rnd

/-- An element and its flags. -/
abbrev FRes := Nat × FlagBits

def snanFlag (v : Val) : FlagBits := Flag.when_ v.isSnan Flag.iv

def orAll (l : List FlagBits) : FlagBits := l.foldl (· ||| ·) 0

/-- Writes each lane's element and raises its flags; a scalar result is computed once (R172). -/
def Ctx.floatAlu (c : Ctx) (ds : Bool) (d : BitVec 8) (ty : Nat) (r : Nat → FRes) : Alu :=
  let lanes := if ds then c.lanes.take 1 else c.lanes
  { writes := c.dstAll ds d (isWide ty) (fun l => extendElem ty (r l).1), flags := orAll (lanes.map (fun l => (r l).2)) }

/-- `n` float sources, TYPE 0 to `hi`. -/
def sigFloat (h : Hdr) (f : FmtA) (n hi : Nat) (sat rnd sub : Bool) (lat : Nat) (sb : Bool) (c : Ctx) : Sig :=
  let wide := isWide f.m.ty.toNat
  let u : SrcUse := .reg wide
  let p := plainMod f.m
  sigA c.w16 h f
    { p with
      dst := .reg wide, a := u, b := if 1 < n then u else .unused, c := if 2 < n then u else .unused, ty := tyIn f.m 0 hi,
      rnd := if rnd then rndOk f.m else p.rnd, sat := sat || !f.m.sat, ds := .either, sub := p.sub || sub, lat := lat, sb := sb,
      pipe := sb }

/-- A source of the instruction's own format. -/
def Ctx.fsrc (c : Ctx) (f : FmtA) (i lane : Nat) : Nat :=
  let wide := isWide f.m.ty.toNat
  match i with
  | 0 => c.src 0 f.m.sa f.sa wide lane
  | 1 => c.src 1 f.m.sb f.sb wide lane
  | _ => c.src 2 f.m.sc f.sc wide lane

def Ctx.fval (c : Ctx) (f : FmtA) (i lane : Nat) : Val := decodeFloat f.m.ty.toNat (c.fsrc f i lane)

/-! ## Arithmetic -/

def fAdd (mode : Nat) (a b : Val) : Val × FlagBits :=
  let r := Val.add mode a b
  (r.1, r.2 ||| snanFlag a ||| snanFlag b)

def fMul (a b : Val) : Val × FlagBits :=
  let r := Val.mul a b
  (r.1, r.2 ||| snanFlag a ||| snanFlag b)

def fFma (mode : Nat) (a b x : Val) : Val × FlagBits :=
  let p := fMul a b
  let r := fAdd mode p.1 x
  (r.1, p.2 ||| r.2)

/-- An exact result rounded once (R77). -/
def roundRes (ty mode : Nat) (sat : Bool) (r : Val × FlagBits) : FRes :=
  let x := roundVal ty mode sat r.1
  (x.1, x.2 ||| r.2)

/-- R173, with the first-NaN trap of R91. -/
def arithBody (h : Hdr) (f : FmtA) (op : Nat → Val → Val → Val → Val × FlagBits) (c : Ctx) (s : State) : Exit :=
  let ty := f.m.ty.toNat
  let mode := c.mode f.m.rnd.toNat
  let exact (l : Nat) := op mode (c.fval f 0 l) (c.fval f 1 l) (c.fval f 2 l)
  let lanes := if f.m.ds then c.lanes.take 1 else c.lanes
  let bad := lanes.filter (fun l => (exact l).1.isNan)
  match c.w.wcw.getLsbD 3, bad with
  | true, b :: _ =>
    .trap s { code := Trap.fpNanVector, mask := laneMask (if f.m.ds then c.lanes else bad), det1 := b }
  | _, _ => .alu (c.floatAlu f.m.ds h.dst ty (fun l => roundRes ty mode f.m.sat (exact l)))

def execFadd (h : Hdr) (f : FmtA) (s : State) : Host.Outcome State Fault Refusal :=
  issue h always (sigFloat h f 2 5 true true false 4 false) (arithBody h f (fun m a b _ => fAdd m a b)) s

def execFsub (h : Hdr) (f : FmtA) (s : State) : Host.Outcome State Fault Refusal :=
  issue h always (sigFloat h f 2 5 true true false 4 false) (arithBody h f (fun m a b _ => fAdd m a b.negate)) s

def execFmul (h : Hdr) (f : FmtA) (s : State) : Host.Outcome State Fault Refusal :=
  issue h always (sigFloat h f 2 5 true true false 4 false) (arithBody h f (fun _ a b _ => fMul a b)) s

def execFfma (h : Hdr) (f : FmtA) (s : State) : Host.Outcome State Fault Refusal :=
  issue h always (sigFloat h f 3 5 true true false 4 false) (arithBody h f fFma) s

/-- FMIN and FMAX on encodings (R174). -/
def fMinMax (ty : Nat) (max num : Bool) (x y : Nat) : FRes :=
  let a := decodeFloat ty x
  let b := decodeFloat ty y
  let iv := snanFlag a ||| snanFlag b
  let nan := (floatFmt ty).nan
  let w := codeWidth ty
  if a.isNan || b.isNan then
    if !num || (a.isNan && b.isNan) then (nan, iv) else if a.isNan then (y % 2 ^ w, iv) else (x % 2 ^ w, iv)
  else
    let cmp := Val.cmp a b
    let less := decide (cmp < 0) || (cmp == 0 && a.neg && !b.neg)
    (if less != max then x % 2 ^ w else y % 2 ^ w, iv)

def minMaxBody (h : Hdr) (f : FmtA) (max : Bool) (c : Ctx) (_ : State) : Exit :=
  let ty := f.m.ty.toNat
  .alu (c.floatAlu f.m.ds h.dst ty (fun l => fMinMax ty max (f.m.sub.getLsbD 0) (c.fsrc f 0 l) (c.fsrc f 1 l)))

def execFmin (h : Hdr) (f : FmtA) (s : State) : Host.Outcome State Fault Refusal :=
  issue h always (sigFloat h f 2 5 false false (decide (f.m.sub.toNat < 2)) 4 false) (minMaxBody h f false) s

def execFmax (h : Hdr) (f : FmtA) (s : State) : Host.Outcome State Fault Refusal :=
  issue h always (sigFloat h f 2 5 false false (decide (f.m.sub.toNat < 2)) 4 false) (minMaxBody h f true) s

/-- R175. -/
def fCmp (sub : Nat) (a b : Val) : Bool × FlagBits :=
  let nan := a.isNan || b.isNan
  let iv := snanFlag a ||| snanFlag b ||| Flag.when_ (nan && decide (2 ≤ sub) && decide (sub ≤ 5)) Flag.iv
  let x := Val.cmp a b
  let r :=
    match sub with
    | 0 => !nan && x == 0
    | 1 => nan || x != 0
    | 2 => !nan && decide (x < 0)
    | 3 => !nan && decide (x ≤ 0)
    | 4 => !nan && decide (0 < x)
    | 5 => !nan && decide (0 ≤ x)
    | 6 => nan
    | _ => !nan
  (r, iv)

def sigFcmp (h : Hdr) (f : FmtA) (c : Ctx) : Sig :=
  let wide := isWide f.m.ty.toNat
  sigA c.w16 h f
    { plainMod f.m with
      dst := .pred, a := .reg wide, b := .reg wide, ty := tyIn f.m 0 5, sub := decide (f.m.sub.toNat < 8), lat := 4 }

def execFcmp (h : Hdr) (f : FmtA) (s : State) : Host.Outcome State Fault Refusal :=
  issue h always (sigFcmp h f)
    (fun c _ =>
      let r (l : Nat) := fCmp f.m.sub.toNat (c.fval f 0 l) (c.fval f 1 l)
      .alu { writes := c.predAll h.dst.toNat (fun l => (r l).1), flags := orAll (c.lanes.map (fun l => (r l).2)) }) s

/-- The bit of R176. -/
def fClass (ty x : Nat) : Nat :=
  let p := floatFmt ty
  let mag := x % 2 ^ (p.w - 1)
  let sub := mag / 2 ^ p.f == 0
  match decodeFloat ty x with
  | .nan true => 8
  | .nan false => 9
  | .inf s => if s then 0 else 7
  | .fin s n _ =>
    if n = 0 then (if s then 3 else 4) else if sub then (if s then 2 else 5) else (if s then 1 else 6)

def sigFclass (h : Hdr) (f : FmtA) (c : Ctx) : Sig :=
  let ty := f.m.ty.toNat
  sigA c.w16 h f
    { plainMod f.m with dst := .reg false, a := .reg (isWide ty), ty := tyIn f.m 0 5, ds := .either, lat := 4 }

def execFclass (h : Hdr) (f : FmtA) (s : State) : Host.Outcome State Fault Refusal :=
  let ty := f.m.ty.toNat
  issue h always (sigFclass h f)
    (fun c _ => .alu { writes := c.dstAll f.m.ds h.dst false (fun l => 2 ^ fClass ty (c.fsrc f 0 l)) }) s

/-- R177. -/
def fRnd (ty mode : Nat) (x : Bool) (v : Val) : FRes :=
  match v with
  | .fin s n d =>
    let r := roundNat mode s n d
    ((roundVal ty 0 false (.fin s r.1 1)).1, Flag.when_ (x && r.2) Flag.nx)
  | v => ((roundVal ty 0 false v).1, snanFlag v)

def execFrnd (h : Hdr) (f : FmtA) (s : State) : Host.Outcome State Fault Refusal :=
  let ty := f.m.ty.toNat
  issue h always (sigFloat h f 1 5 false true (decide (f.m.sub.toNat < 2)) 4 false)
    (fun c _ => .alu
      (c.floatAlu f.m.ds h.dst ty (fun l => fRnd ty (c.mode f.m.rnd.toNat) (f.m.sub.getLsbD 0) (c.fval f 0 l)))) s

/-! ## Division and square root -/

def fDiv (ty mode : Nat) (sat : Bool) (a b : Val) : FRes :=
  let r := Val.div a b
  roundRes ty mode sat (r.1, r.2 ||| snanFlag a ||| snanFlag b)

/-- R178, R80. -/
def fSqrt (ty mode : Nat) (sat : Bool) (a : Val) : FRes :=
  match a with
  | .nan s => ((floatFmt ty).nan, Flag.when_ s Flag.iv)
  | .inf true => ((floatFmt ty).nan, Flag.iv)
  | .inf false => roundVal ty mode sat (.inf false)
  | .fin s n d =>
    if n = 0 then roundVal ty mode sat (.fin s 0 1)
    else if s then ((floatFmt ty).nan, Flag.iv)
    else
      let r := sqrtApprox n d
      roundVal ty mode sat (.fin false r.1 r.2)

def execFdiv (h : Hdr) (f : FmtA) (s : State) : Host.Outcome State Fault Refusal :=
  let ty := f.m.ty.toNat
  issue h always (sigFloat h f 2 3 true true false 0 true)
    (fun c _ => .alu
      (c.floatAlu f.m.ds h.dst ty (fun l => fDiv ty (c.mode f.m.rnd.toNat) f.m.sat (c.fval f 0 l) (c.fval f 1 l)))) s

def execFsqrt (h : Hdr) (f : FmtA) (s : State) : Host.Outcome State Fault Refusal :=
  let ty := f.m.ty.toNat
  issue h always (sigFloat h f 1 3 true true false 0 true)
    (fun c _ => .alu (c.floatAlu f.m.ds h.dst ty (fun l => fSqrt ty (c.mode f.m.rnd.toNat) f.m.sat (c.fval f 0 l)))) s

/-! ## Reductions -/

/-- A node of the tree (R85, R186): `op` 0 add, 1 min, 2 max. -/
def redNode (op ty mode : Nat) (x y : Nat) : FRes :=
  if op = 0 then roundRes ty mode false (fAdd mode (decodeFloat ty x) (decodeFloat ty y)) else fMinMax ty (op == 2) false x y

/-- One level of the tree: empty nodes are none. -/
def redLevel (op ty mode : Nat) : List (Option Nat) → List (Option Nat) × FlagBits
  | some x :: some y :: t =>
    let r := redNode op ty mode x y
    let u := redLevel op ty mode t
    (some r.1 :: u.1, r.2 ||| u.2)
  | none :: y :: t =>
    let u := redLevel op ty mode t
    (y :: u.1, u.2)
  | x :: none :: t =>
    let u := redLevel op ty mode t
    (x :: u.1, u.2)
  | [x] => ([x], 0)
  | [] => ([], 0)

def redLevels (op ty mode : Nat) : Nat → List (Option Nat) → List (Option Nat) × FlagBits
  | 0, l => (l, 0)
  | n + 1, l =>
    let r := redLevel op ty mode l
    let u := redLevels op ty mode n r.1
    (u.1, r.2 ||| u.2)

/-- A leaf that holds a NaN enters as the canonical NaN, a signalling one with IV (R85). -/
def redLeaf (ty x : Nat) : FRes :=
  let v := decodeFloat ty x
  if v.isNan then ((floatFmt ty).nan, snanFlag v) else (x % 2 ^ codeWidth ty, 0)

/-- R85 over the lanes of `lanes`. -/
def redTree (op ty mode width : Nat) (lanes : List Nat) (x : Nat → Nat) : FRes :=
  let k := if width = 96 then 7 else Nat.log2 width
  let leaves := (List.range (2 ^ k)).map (fun l => if lanes.contains l then some (redLeaf ty (x l)).1 else none)
  let r := redLevels op ty mode k leaves
  ((r.1.headD none).getD 0, r.2 ||| orAll (lanes.map (fun l => (redLeaf ty (x l)).2)))

def sigFred (h : Hdr) (f : FmtA) (scan : Bool) (c : Ctx) : Sig :=
  let wide := isWide f.m.ty.toNat
  sigA c.w16 h f
    { plainMod f.m with
      dst := .reg wide, a := .any wide, ty := tyIn f.m 0 3, rnd := rndOk f.m, ds := if scan then .zero else .either,
      sub := decide (f.m.sub.toNat < 3), sb := true, pipe := true }

/-- With a scalar destination the result goes there whether or not a lane is active, +0 if none is (R85, R186, log 120). -/
def execFred (h : Hdr) (f : FmtA) (s : State) : Host.Outcome State Fault Refusal :=
  let ty := f.m.ty.toNat
  issue h always (sigFred h f false)
    (fun c _ =>
      let r := redTree f.m.sub.toNat ty (c.mode f.m.rnd.toNat) c.w.width c.lanes (c.fsrc f 0)
      .alu { writes := if f.m.ds then dstWr true h.dst (isWide ty) 0 (extendElem ty r.1)
                       else c.dstAll false h.dst (isWide ty) (fun _ => extendElem ty r.1)
             flags := if c.lanes.isEmpty then 0 else r.2 }) s

/-- R86. -/
def execFscan (h : Hdr) (f : FmtA) (s : State) : Host.Outcome State Fault Refusal :=
  let ty := f.m.ty.toNat
  issue h always (sigFred h f true)
    (fun c _ => .alu (c.floatAlu false h.dst ty (fun l =>
      redTree f.m.sub.toNat ty (c.mode f.m.rnd.toNat) c.w.width (c.lanes.filter (fun j => decide (j ≤ l))) (c.fsrc f 0)))) s

/-! ## Dot products -/

/-- R187. -/
def fDot2 (ty mode a b x : Nat) : FRes :=
  let p := fMul (decodeFloat ty a) (decodeFloat ty b)
  let q := fMul (decodeFloat ty (a / 2 ^ 16)) (decodeFloat ty (b / 2 ^ 16))
  let u := fAdd mode p.1 q.1
  let r := fAdd mode u.1 (decodeFloat 1 x)
  roundRes 1 mode false (r.1, p.2 ||| q.2 ||| u.2 ||| r.2)

def sigFdot2 (h : Hdr) (f : FmtA) (c : Ctx) : Sig :=
  sigA c.w16 h f
    { plainMod f.m with
      dst := .reg false, a := .reg false, b := .reg false, c := .reg false, ty := tyIn f.m 2 3, rnd := rndOk f.m,
      ds := .either, lat := 4 }

def execFdot2 (h : Hdr) (f : FmtA) (s : State) : Host.Outcome State Fault Refusal :=
  issue h always (sigFdot2 h f)
    (fun c _ => .alu (c.floatAlu f.m.ds h.dst 1 (fun l =>
      fDot2 f.m.ty.toNat (c.mode f.m.rnd.toNat) (c.src 0 f.m.sa f.sa false l) (c.src 1 f.m.sb f.sb false l)
        (c.src 2 f.m.sc f.sc false l)))) s

/-- R188. -/
def iDot4 (ta tb : Nat) (a b x : Nat) : Int :=
  ((List.range 4).map (fun i => decodeInt ta (a / 2 ^ (8 * i)) * decodeInt tb (b / 2 ^ (8 * i)))).foldl (· + ·) (decodeInt 8 x)

def sigIdot4 (h : Hdr) (f : FmtA) (c : Ctx) : Sig :=
  sigA c.w16 h f
    { plainMod f.m with
      dst := .reg false, a := .reg false, b := .reg false, c := .reg false, ty := tyIn f.m 12 13, sat := true,
      ds := .either, sub := f.m.sub == 12 || f.m.sub == 13, lat := 6 }

def execIdot4 (h : Hdr) (f : FmtA) (s : State) : Host.Outcome State Fault Refusal :=
  issue h always (sigIdot4 h f)
    (fun c _ => .alu
      { writes := c.dstAll f.m.ds h.dst false (fun l =>
          reduceInt 8 f.m.sat
            (iDot4 f.m.ty.toNat f.m.sub.toNat (c.src 0 f.m.sa f.sa false l) (c.src 1 f.m.sb f.sb false l)
              (c.src 2 f.m.sc f.sc false l))) }) s

end Sys2Proof.Machine
end

