-- ==== Sys2Proof/Machine/Approx.lean ====
section
/-! DEFINITION. The approximate functions (03 R84, 06 R179). The spec bounds their error and fixes no bits: the value is
`Config.approx` where that lies inside the bound, and the correctly rounded one where it does not (log 12). The bound is judged
against a reference of 160 fraction bits. -/

namespace Sys2Proof.Machine

/-! ## Reference values, with 160 fraction bits -/

def fx : Int := 2 ^ 160

def fxLn2 : Int := 0xB17217F7D1CF79ABC9E3B39803F2F6AF40F34326
def fxPi : Int := 0x3243F6A8885A308D313198A2E03707344A4093822

def Val.toFx : Val → Int
  | .fin s n d => signed s n * fx / d
  | _ => 0

def fxVal (x : Int) : Val := .fin (decide (x < 0)) x.natAbs (2 ^ 160)

/-- e^x for |x| below 1: n terms of the series. -/
def fxExp (x : Int) : Nat → Nat → Int
  | 0, _ => fx
  | n + 1, k => fx + x * fxExp x n (k + 1) / (fx * k)

/-- 2^x: a mantissa and its power of two. -/
def refExp2 (v : Val) : Val :=
  match v with
  | .fin s n d =>
    let x := signed s n
    let k := max (-2000) (min 2000 (x / d))
    let r := fxExp (x % d * fx / d * fxLn2 / fx) 48 1
    if 0 ≤ k then .fin false (r.natAbs * 2 ^ k.toNat) (2 ^ 160) else .fin false r.natAbs (2 ^ (160 + (-k).toNat))
  | v => v

/-- Σ t^(2i+1) / (2i+1). -/
def fxAtanh (t t2 : Int) : Nat → Nat → Int
  | 0, _ => 0
  | n + 1, k => t / k + fxAtanh (t * t2 / fx) t2 n (k + 2)

def refLog2 (v : Val) : Val :=
  match v with
  | .fin _ n d =>
    let e := floorLog2 n d
    let m : Int := if 0 ≤ e then (n * fx) / (d * 2 ^ e.toNat) else (n * 2 ^ (-e).toNat * fx) / d
    let t := (m - fx) * fx / (m + fx)
    fxVal (e * fx + 2 * fxAtanh t (t * t / fx) 64 1 * fx / fxLn2)
  | v => v

/-- The series of sine (k = 2) or cosine (k = 1) without its first factor. -/
def fxTrig (x2 : Int) : Nat → Nat → Int
  | 0, _ => fx
  | n + 1, k => fx - x2 * fxTrig x2 n (k + 2) / (fx * (k * (k + 1)))

def refSin (shift : Int) (v : Val) : Val :=
  let x := v.toFx
  let q := (4 * x + fxPi) / (2 * fxPi)
  let r := x - q * fxPi / 2
  let x2 := r * r / fx
  let quad := (q + shift) % 4
  let sin := r * fxTrig x2 32 2 / fx
  let cos := fxTrig x2 32 1
  fxVal (if quad = 0 then sin else if quad = 1 then cos else if quad = 2 then -sin else -cos)

def refTanh (v : Val) : Val :=
  match v with
  | .fin s n d =>
    if 64 * d ≤ n then .fin s (2 ^ 160 - 1) (2 ^ 160)
    else
      let e := (refExp2 (fxVal (2 * n * fx / d * fx / fxLn2))).toFx
      .fin s ((e - fx) * fx / (e + fx)).natAbs (2 ^ 160)
  | v => v

/-! ## The functions -/

/-- 0 FRCP, 1 FRSQ, 2 FEXP2, 3 FLOG2, 4 FSIN, 5 FCOS, 6 FTANH. -/
def reference (fn : Nat) (v : Val) : Val :=
  match fn with
  | 0 => (Val.div Val.one v).1
  | 1 =>
    match v with
    | .fin _ n d => let r := sqrtApprox d n; .fin false r.1 r.2
    | v => v
  | 2 => refExp2 v
  | 3 => refLog2 v
  | 4 => refSin 0 v
  | 5 => refSin 1 v
  | _ => refTanh v

/-- The special inputs of R84: exact, without NX. -/
def approxSpecial (fn : Nat) (v : Val) : Option (Val × FlagBits) :=
  match v with
  | .nan s => some (.nan false, Flag.when_ s Flag.iv)
  | .inf s =>
    match fn with
    | 0 => some (.fin s 0 1, 0)
    | 1 => some (if s then (.nan false, Flag.iv) else (Val.posZero, 0))
    | 2 => some (if s then (Val.posZero, 0) else (.inf false, 0))
    | 3 => some (if s then (.nan false, Flag.iv) else (.inf false, 0))
    | 4 | 5 => some (.nan false, Flag.iv)
    | _ => some (.fin s 1 1, 0)
  | .fin s n d =>
    if n = 0 then
      match fn with
      | 0 | 1 => some (.inf s, Flag.dz)
      | 3 => some (.inf true, Flag.dz)
      | 4 | 6 => some (.fin s 0 1, 0)
      | _ => none
    else
      match fn with
      | 1 => if s then some (.nan false, Flag.iv) else none
      | 3 => if s then some (.nan false, Flag.iv) else if n = d then some (Val.posZero, 0) else none
      | _ => none

/-- One ulp of a value in a format (R84). -/
def ulpOf (c : Nat) (v : Val) : Val :=
  let p := floatFmt c
  match v with
  | .fin _ n d =>
    let q := max ((if n = 0 then -(2 ^ 20 : Int) else floorLog2 n d) - p.f) (1 - (p.bias : Int) - p.f)
    if 0 ≤ q then .fin false (2 ^ q.toNat) 1 else .fin false 1 (2 ^ (-q).toNat)
  | _ => Val.posZero

def absBound (c : Nat) : Val := .fin false 1 (2 ^ (match c with | 1 => 22 | 2 => 10 | _ => 7))

/-- The error bound of R84. FTANH in F16 and BF16 keeps the absolute alternative beside its 1 ulp: the model's choice (log 114). -/
def approxBound (fn c : Nat) (y : Val) : Val :=
  let ulps (n : Nat) : Val := (Val.mul (.fin false (if c = 1 then n else 1) 1) (ulpOf c y)).1
  match fn with
  | 0 | 1 => ulps 1
  | 2 => ulps 2
  | 3 => if Val.cmp y.abs Val.one < 0 then absBound c else ulps 2
  | 4 | 5 => absBound c
  | _ => let u := ulps 2; let a : Val := .fin false 1 (2 ^ 23); if Val.cmp u a < 0 then a else u

def isFinite : Val → Bool
  | .fin _ _ _ => true
  | _ => false

/-- The offered value lies inside the bound. -/
def approxOk (fn c : Nat) (x y cand : Val) : Bool :=
  isFinite cand &&
    if (fn == 4 || fn == 5) && decide (0 < Val.cmp x.abs (.fin false (2 ^ 16) 1)) then decide (Val.cmp cand.abs Val.one ≤ 0)
    else decide (Val.cmp (Val.add 0 cand y.negate).1.abs (approxBound fn c y) ≤ 0)

/-- A nonzero magnitude below the smallest normal (R79). -/
def isSubnormal (c x : Nat) : Bool :=
  let m := x % 2 ^ (codeWidth c - 1)
  decide (0 < m) && decide (m < 2 ^ (floatFmt c).f)

/-- Flags of an approximate result that no rule lists as exact: NX, and UF where the result itself is tiny, or where the rounded
value `r` is the result or vanishes with it (R79, R84, log 12). -/
def approxFlags (c : Nat) (r : FRes) (x : Nat) : FlagBits :=
  Flag.nx ||| Flag.when_ (isSubnormal c x) Flag.uf ||| (if x = r.1 ∨ x % 2 ^ (codeWidth c - 1) = 0 then r.2 else 0)

/-- R84: the result and flags of an encoding. -/
def approxFn (fn c x : Nat) : FRes :=
  let v := decodeFloat c x
  match approxSpecial fn v with
  | some r => roundRes c 0 false r
  | none =>
    let y := reference fn v
    let r := roundVal c 0 false y
    let w := codeWidth c
    let cand := Config.approx fn c (x % 2 ^ w) % 2 ^ w
    let x := if isFinite (decodeFloat c r.1) && approxOk fn c v y (decodeFloat c cand) then cand else r.1
    (x, approxFlags c r x)

def sigApprox (h : Hdr) (f : FmtA) (c : Ctx) : Sig :=
  sigA c.w16 h f
    { plainMod f.m with dst := .reg false, a := .reg false, ty := tyIn f.m 1 3, ds := .either, lat := 10 }

def approxBody (h : Hdr) (f : FmtA) (fn : Nat) (c : Ctx) (_ : State) : Exit :=
  let ty := f.m.ty.toNat
  .alu (c.floatAlu f.m.ds h.dst ty (fun l => approxFn fn ty (c.fsrc f 0 l)))

def execFrcp (h : Hdr) (f : FmtA) (s : State) : Host.Outcome State Fault Refusal := issue h always (sigApprox h f) (approxBody h f 0) s

def execFrsq (h : Hdr) (f : FmtA) (s : State) : Host.Outcome State Fault Refusal := issue h always (sigApprox h f) (approxBody h f 1) s

def execFexp2 (h : Hdr) (f : FmtA) (s : State) : Host.Outcome State Fault Refusal := issue h always (sigApprox h f) (approxBody h f 2) s

def execFlog2 (h : Hdr) (f : FmtA) (s : State) : Host.Outcome State Fault Refusal := issue h always (sigApprox h f) (approxBody h f 3) s

def execFsin (h : Hdr) (f : FmtA) (s : State) : Host.Outcome State Fault Refusal := issue h always (sigApprox h f) (approxBody h f 4) s

def execFcos (h : Hdr) (f : FmtA) (s : State) : Host.Outcome State Fault Refusal := issue h always (sigApprox h f) (approxBody h f 5) s

def execFtanh (h : Hdr) (f : FmtA) (s : State) : Host.Outcome State Fault Refusal := issue h always (sigApprox h f) (approxBody h f 6) s

end Sys2Proof.Machine
end

