-- ==== Sys2Proof/Machine/Access.lean ====
section
/-! DEFINITION. Memory accesses at issue: addresses (07 R201), the checks of 08 R236, range locks (07 R224), translation in
each lane (R226), and the elements that then travel. -/

namespace Sys2Proof.Machine

/-- One element of an access: its lane, address, size in bytes, register, and for a write its data. -/
structure Acc where
  lane : Nat
  va : Nat
  size : Nat
  dst : Nat := 0
  data : Nat := 0
  cmp : Nat := 0
  /-- Distance from the lane's own address, for elements that share its alignment. -/
  off : Nat := 0
  deriving DecidableEq, Repr

/-- R201: base plus OFS16, modulo 2^64, or 2^32 for `c:`. -/
def Ctx.addr (c : Ctx) (f : FmtM) (lane : Nat) : Nat :=
  let w := if f.m.space = 1 then 32 else 64
  wrapBits w ((c.src 0 f.m.sbase f.sa (f.m.space != 1) lane : Int) + sext 16 f.ofs.toNat)

/-! ## Range locks -/

/-- A range's tag and the address within it (R223); the privileged window has a tag of its own. -/
def lockTag (s : State) (gid team space a : Nat) : Option ((Nat × Nat) × Nat) :=
  if space = 1 then
    if a.testBit 31 then some ((2 ^ 64, 0), a % 2 ^ 31) else (windowTeam s gid team a).map (fun p => ((p.1.gid, p.1.num), p.2))
  else some ((0, 0), a)

/-- The tables that a wave's accesses are checked against: its core's, and for a team that spans a pair both cores'. -/
def locksOf (s : State) (w : Wave) : List Lock :=
  if 256 ≤ w.key.core then []
  else
    match s.waveTeam w with
    | some t =>
      if t.span then (s.core (w.key.core / 2 * 2)).locks ++ (s.core (w.key.core / 2 * 2 + 1)).locks
      else (s.core w.key.core).locks
    | none => (s.core w.key.core).locks

def lowestLock : List Lock → Option Lock
  | [] => none
  | x :: t =>
    match lowestLock t with
    | none => some x
    | some y => if y.index < x.index then some y else some x

/-- The entry that an access conflicts with (R224). -/
def lockHit (s : State) (w : Wave) (locks : List Lock) (write : Bool) (space a size : Nat) : Option Lock :=
  match lockTag s w.grid w.team space a with
  | none => none
  | some (tag, off) =>
    lowestLock (locks.filter (fun x =>
      x.ctx == w.ctx && x.space == space && (space != 1 || x.team == tag) && decide (off < x.hi) && decide (x.lo < off + size)
        && (write || x.write)))

/-- Engine operations that the wave issued after number `seq`. -/
def laterOps (s : State) (k : WaveKey) (seq : Nat) : List Nat :=
  (s.engCmds.filter (fun o => o.w == k && decide (seq < o.seq))).map (·.id)
  ++ s.cores.flatMap (fun c =>
    (c.tableOps.filter (fun o => o.w == k && decide (seq < o.seq))).map (·.id)
    ++ c.chans.flatMap (fun ch => (ch.xfers.filter (fun o => o.w == k && decide (seq < o.seq))).map (·.id)))
  ++ (s.io.reqs.filter (fun o => o.w == k && decide (seq < o.seq))).map (·.id)

/-- The locks that an access of this issue is checked against: a replayed lane meets none of an operation issued after its load
(R225). -/
def locksFor (s : State) (c : Ctx) : List Lock :=
  match c.g.owed with
  | some o => if (locksOf s c.w).isEmpty then [] else (locksOf s c.w).filter (fun x => !(laterOps s c.k o.seq).contains x.owner)
  | none => locksOf s c.w

/-- Checks 1 and 2 of R236 over the elements of an instruction. `align` lists the elements whose lanes fail check 1. -/
def accessChecks (s : State) (c : Ctx) (write : Bool) (space align : Nat) (l : List Acc) : Option TrapInfo :=
  let bad := l.filter (fun a => a.va % align != a.off % align)
  match bad with
  | b :: _ => some { code := Trap.alignment, mask := laneMask (bad.map (·.lane)), addr := b.va - b.off }
  | [] =>
    let locks := locksFor s c
    if locks.isEmpty then none
    else
      let hits := l.filterMap (fun a => (lockHit s c.w locks write space a.va a.size).map (fun x => (a, x)))
      match hits with
      | [] => none
      | (a, x) :: _ =>
        some { code := Trap.rangeConflict, mask := laneMask (hits.map (·.1.lane)), addr := a.va - a.off, det1 := x.index,
               det2 := x.opcode }

/-! ## Places -/

inductive Placed where
  | ok (t : Target) (lease : Nat)
  | fault (cause : Nat)
  | wait
  deriving DecidableEq, Repr

def Xlat.placed : Xlat → Placed
  | .ok t l => .ok t l
  | .fault c => .fault c

def HostX.placed : HostX → Placed
  | .ok t => .ok t 0
  | .fault c => .fault c
  | .wait => .wait

/-- Whom an access is made for. -/
structure Who where
  core : Nat
  ctx : Nat
  gid : Nat
  team : Nat
  sect : Bool
  priv : Bool
  /-- The world of a block that is no core (R415). -/
  world : Option Bool := none
  /-- What waits for a host translation: a wave's quad, or a store (R390). -/
  waiter : Option (WaveKey × Nat) := none
  deriving DecidableEq, Repr

def whoOf (s : State) (w : Wave) : Who :=
  { core := w.key.core, ctx := w.ctx, gid := w.grid, team := w.team, sect := w.section?, priv := s.wavePriv w }

/-- As `whoOf`, for the gang that issues. -/
def Ctx.who (c : Ctx) (s : State) : Who := { whoOf s c.w with waiter := some (c.k, c.q) }

/-- Place of one access (R200). -/
def place (s : State) (who : Who) (need : Need) (space va size : Nat) : Placed × State :=
  match space with
  | 1 =>
    if windowAway s who.gid who.team va then (.wait, s)
    else ((placeC s who.core who.priv who.gid who.team who.sect va size).placed, s)
  | 2 => ((hostLook s who.core who.ctx (decide (need = .store)) va).placed, s)
  | n =>
    let r := translateG s who.core who.ctx need (decide (n = 3)) va
    (r.1.placed, r.2)

def placeAll (s : State) (who : Who) (need : Need) (space : Nat) : List Acc → List (Acc × Placed) × State
  | [] => ([], s)
  | a :: t =>
    let r := place s who need space a.va a.size
    let u := placeAll r.2 who need space t
    ((a, r.1) :: u.1, u.2)

/-- A page of the context has a request outstanding, which an access that faults with cause 6 joins (R321, R390). -/
def hostAsked (s : State) (who : Who) (va : Nat) : Bool :=
  (s.port (hostPort s who.core who.ctx)).reqs.any (fun r => r.ctx == atsCtx s who.core who.ctx && r.page == va / 4096)

/-- Host requests of the accesses that wait, and of those of the same issue that are to fault with cause 6, whose page's request is kept
for them until the issue is decided; or, with none waiting, what the decided ones leave, page by page. -/
def hostSettle (s : State) (who : Who) (need : Need) (space : Nat) (l : List (Acc × Placed)) : State :=
  if space != 2 then s
  else if l.any (fun p => p.2 == .wait) then
    (l.filter (fun p => p.2 == .wait || (p.2 == .fault 6 && hostAsked s who p.1.va))).foldl
      (fun s p => hostAsk s who.core who.ctx (decide (need = .store)) who.waiter p.1.va) s
  else (l.map (fun p => p.1.va / 4096)).eraseDups.foldl (fun s page => hostAfter s who.core who.ctx who.waiter (page * 4096)) s

/-- The first failing lane's cause and address, and every failing lane (R226). -/
def faultTrap (code : BitVec 8) (l : List (Acc × Placed)) : Option TrapInfo :=
  let bad := l.filterMap (fun p => match p.2 with | .fault c => some (p.1, c) | _ => none)
  match bad with
  | [] => none
  | (a, c) :: _ => some { code := code, mask := laneMask (bad.map (·.1.lane)), addr := a.va, det1 := c }

/-- Elements of the lanes in which every element has its place. -/
def goodElems (l : List (Acc × Placed)) : List (Acc × Target × Nat) :=
  let badLanes := l.filterMap (fun p => match p.2 with | .ok _ _ => none | _ => some p.1.lane)
  l.filterMap (fun p =>
    match p.2 with
    | .ok t n => if badLanes.contains p.1.lane then none else some (p.1, t, n)
    | _ => none)

/-- As `secureOf`, for the block that makes the access. -/
def secureWho (s : State) (who : Who) (t : Target) : Option Nat :=
  match who.world, t with
  | some true, _ => none
  | some false, .dev pa => secureRegion s.root.srgn pa
  | some false, _ => none
  | none, t => secureOf s who.core t

/-- SECURE_ACCESS of the lanes that touch a secure region (R371, R416). -/
def secureTrap (s : State) (core : Nat) (l : List (Acc × Target × Nat)) : Option TrapInfo :=
  let bad := l.filterMap (fun p => (secureOf s core p.2.1).map (fun r => (p.1, r)))
  match bad with
  | [] => none
  | (a, r) :: _ => some { code := Trap.secureAccess, mask := laneMask (bad.map (·.1.lane)), addr := a.va, det1 := r }

/-! ## Loads -/

/-- Comb offset of a line in a way. -/
def wayOff (t : Target) (bank : Nat) : Nat := bank * 0x8000 + t.offset / 128 % 256 * 128

/-- A copy that may be used (R205, R210). -/
def l1Find (s : State) (core : Nat) (t : Target) : Option L1Line :=
  if 256 ≤ core then none
  else
    (s.core core).l1.find? (fun l =>
      l.line == t.line && l.sectors.getLsbD (t.offset % 128 / 32) && decide (s.gtb < l.expiry)
        && (!l.fabric || s.fabricLive))

/-- A load of the place waits for its home: no copy in the L1, or an `h:` or peer place (R352). -/
def missesL1 (s : State) (core : Nat) (t : Target) : Bool :=
  match t with
  | .host _ _ => true
  | .peer _ _ => true
  | .dev _ => (l1Find s core t).isNone
  | _ => false

/-- Register writes of a returned element (R72): 8 bytes fill a pair, 16 bytes four registers. -/
def elemWrites (file : RegFile) (ty size dst lane x : Nat) : List RegWr :=
  let l := match file with | .sca => 0 | _ => lane
  if size ≤ 4 then [⟨file, dst, l, BitVec.ofNat 32 (if codeWidth ty < 32 then extendElem ty x else x)⟩]
  else (List.range (size / 4)).map (fun i => ⟨file, dst + i, l, BitVec.ofNat 32 (x / 2 ^ (32 * i))⟩)

/-- A load whose elements have all returned hands its registers to the scoreboard, or its values to its port (R49). -/
def finishLoad (s : State) (id : Nat) : State :=
  match s.loads.find? (fun o => o.id == id) with
  | none => s
  | some o =>
    if o.elems.all (·.done) then
      let file : RegFile := if o.scalar then .sca else .vec
      let p : Pend :=
        match o.port with
        | some q =>
          { writes := [], flags := 0, amax := [], keys := [],
            push := some (q, o.elems.map (fun e => if codeWidth o.ty < 32 then extendElem o.ty e.value else e.value)) }
        | none =>
          { writes := (o.elems.map (fun e => elemWrites file o.ty e.size e.dst e.lane e.value)).flatten
            flags := 0, amax := [], keys := o.keys, push := none }
      ({ s with loads := s.loads.filter (fun x => x.id != id) }).updWave o.w (fun w => { w with pend := w.pend ++ [p] })
    else s

/-- How a load is carried. -/
structure LoadForm where
  space : Nat
  align : Nat
  acquire : Bool
  scope : Nat
  ty : Nat
  scalar : Bool
  hint : Nat
  table : Option Nat := none
  /-- Lanes whose rows are in the slot's hot set (R274). -/
  hot : List Nat := []
  /-- Registers that the instruction fills with 0 without an access. -/
  zeros : List LElem := []
  deriving DecidableEq, Repr

/-- The two lists in ascending lane order, which a port's queue receives (R49). -/
def laneOrder (zeros l : List LElem) : List LElem :=
  if zeros.isEmpty then l else ((List.range 96).map (fun i => (l ++ zeros).filter (fun e => e.lane == i))).flatten

/-- A FENCET of the wave has not completed: no access of another gang is translated before it (R229). -/
def Wave.fencing (w : Wave) : Bool :=
  w.gangs.any (fun g => match g.wait with | .fence _ _ t => t | .drain _ _ _ => true | _ => false)

/-- The load of elements: checks, the lanes that translate, LOAD_FAULT for the others (R226, R236). A lane of which an element touches a
secure region reads 0 in all of its elements (R371, R416, log 134). -/
def loadExit (c : Ctx) (g : Sig) (n : LoadForm) (l : List Acc) (s : State) : Exit :=
  match accessChecks s c false n.space n.align l with
  | some t => .trap s t
  | none =>
    if c.w.fencing then .stall s
    else
    let who := c.who s
    let r := placeAll s who .load n.space l
    let s := hostSettle r.2 who .load n.space r.1
    if r.1.any (fun p => p.2 == .wait) then .stall s
    else
      let good := goodElems r.1
      let shut := (good.filter (fun p => (secureOf s c.core p.2.1).isSome)).map (·.1.lane)
      let f := s.fresh
      let elems : List LElem := laneOrder n.zeros (good.map (fun p =>
        { lane := p.1.lane, va := p.1.va, size := p.1.size, target := p.2.1, lease := p.2.2, dst := p.1.dst,
          done := shut.contains p.1.lane, value := 0 }))
      let owed : Owed := c.g.owed.getD { id := f.1, seq := c.w.opSeq, acquire := n.acquire }
      let op : LOp :=
        { id := f.1, w := c.k, ctx := c.w.ctx, seq := owed.seq, pc := c.pc, acquire := n.acquire, scope := n.scope, ty := n.ty,
          scalar := n.scalar, missed := elems.any (fun (e : LElem) => !e.done && missesL1 s c.core e.target),
          keys := g.writeKeys, port := g.port.bind c.w.portQueue, hint := n.hint, table := n.table, hot := n.hot,
          elems := elems }
      let s1 :=
        if elems.isEmpty then s
        else
          let put := ({ f.2 with loads := f.2.loads ++ [op] }).updWave c.k (fun w =>
            latchDrop { w with opSeq := w.opSeq + 1 } c.pc (elems.map (fun (e : LElem) => e.lane)))
          if elems.all (·.done) then finishLoad put f.1 else put
      match faultTrap Trap.loadFault r.1 with
      | some t => .trap (s1.updWave c.k (fun w => w.updGang c.q (fun g => { g with owed := some owed }))) t
      | none =>
        match secureTrap s c.core good with
        | some t => .trapAfter s1 t
        | none => .done s1

/-! ## Stores and atomics -/

/-- How a store or an atomic is carried. -/
structure StoreForm where
  space : Nat
  align : Nat
  scope : Nat
  order : Nat
  kind : MKind
  /-- Made once for the issue: its report names every active lane. -/
  whole : Bool := false
  /-- Its elements are checked one by one. -/
  byElem : Bool := false
  table : Option Nat := none
  deriving DecidableEq, Repr

/-- An access that releases first completes a fence at the scope at which it acts (R214, R220). -/
def releaseFirst (s : State) (c : Ctx) (release : Bool) (scope : Nat) (e : Exit) : Exit :=
  if release && !c.g.released && !fenceReady s c.w scope c.seq then
    .wait s (.release scope c.seq)
  else e

def mopOf (s : State) (c : Ctx) (n : StoreForm) (checked : Bool) (keys : List RegKey) (port : Option QueueRef)
    (elems : List MElem) : State :=
  let f := s.fresh
  let op : MOp :=
    { id := f.1, w := c.k, gid := c.w.grid, team := c.w.team, ctx := c.w.ctx, seq := c.seq, iss := c.w.cntIss, pc := c.pc,
      scope := n.scope, order := n.order, space := n.space, kind := n.kind, checked := checked, keys := keys, port := port,
      whole := if n.whole then laneMask c.lanes else 0, byElem := n.byElem, gtb := s.gtb, cyc := s.cyc, table := n.table,
      elems := elems }
  ({ f.2 with mops := f.2.mops ++ [op] }).updWave c.k (fun w => { w with opSeq := w.opSeq + 1 })

/-- L1 sectors that an element covers are no longer valid (R205). -/
def dropSectors (s : State) (core : Nat) (l : List (Target × Nat)) : State :=
  if 256 ≤ core || (s.core core).l1.isEmpty then s
  else
    s.updCore core (fun x =>
      { x with
        l1 := x.l1.map (fun (n : L1Line) =>
          let hit := l.filter (fun p => p.1.line == n.line)
          { n with sectors := hit.foldl (fun m p => m &&& ~~~(1#4 <<< (p.1.offset % 128 / 32))) n.sectors }) })

/-- At its issue a store invalidates what it covers in the L1 of its core (R205); lanes that do not translate cover nothing. -/
def coverAtIssue (s : State) (c : Ctx) (space : Nat) (l : List Acc) : State :=
  if space = 1 || 256 ≤ c.core || (s.core c.core).l1.isEmpty then s
  else dropSectors s c.core ((goodElems (placeAll s (whoOf s c.w) .store space l).1).map (fun p => (p.2.1, p.1.size)))

/-- The store of elements: checks 1 and 2 at issue, the others after it (R227, R236). -/
def storeExit (c : Ctx) (n : StoreForm) (l : List Acc) (s : State) : Exit :=
  releaseFirst s c (decide (2 ≤ n.order) && !l.isEmpty) (actScope n.space n.scope)
    (match accessChecks s c true n.space n.align l with
      | some t => .trap s t
      | none =>
        if l.isEmpty then .done s
        else
          .done (mopOf (coverAtIssue s c n.space l) c n false [] none (l.map (fun a =>
            { lane := a.lane, va := a.va, size := a.size, data := a.data, cmp := 0, old := 0, target := none, lease := 7,
              dst := 0, phase := .unchecked, removal := .notNeeded }))))

/-- A read-modify-write of elements: translated at issue like a load (R226), then on its way to the home. -/
def atomicExit (c : Ctx) (g : Sig) (n : StoreForm) (l : List Acc) (s : State) : Exit :=
  releaseFirst s c (decide (2 ≤ n.order) && !l.isEmpty) (actScope n.space n.scope)
    (match accessChecks s c true n.space n.align l with
      | some t => .trap s t
      | none =>
        if c.w.fencing then .stall s
        else
        let who := c.who s
        let r := placeAll s who .store n.space l
        let s := hostSettle r.2 who .store n.space r.1
        if r.1.any (fun p => p.2 == .wait) then .stall s
        else
          let good := goodElems r.1
          let open_ := good.filter (fun p => (secureOf s c.core p.2.1).isNone)
          let shut := good.filter (fun p => (secureOf s c.core p.2.1).isSome)
          let elems : List MElem := good.map (fun p =>
            { lane := p.1.lane, va := p.1.va, size := p.1.size, data := p.1.data, cmp := p.1.cmp, old := 0,
              target := some p.2.1, lease := p.2.2, dst := p.1.dst,
              phase := if (secureOf s c.core p.2.1).isSome then .discarded else .sent, removal := .notNeeded })
          let s1 :=
            if open_.isEmpty then
              if g.writeKeys.isEmpty || shut.isEmpty then s
              else
                s.updWave c.k (fun w =>
                  { w with
                    pend := w.pend ++
                      [{ writes := (shut.map (fun p => elemWrites .vec 9 p.1.size p.1.dst p.1.lane 0)).flatten, flags := 0,
                         amax := [], keys := g.writeKeys, push := none }] })
            else
              (mopOf s c n true g.writeKeys (g.port.bind c.w.portQueue) elems).updWave c.k (fun w =>
                latchDrop w c.pc (good.map (fun (p : Acc × Target × Nat) => p.1.lane)))
          let owed : Owed := c.g.owed.getD { id := s.nextId, seq := c.w.opSeq, acquire := n.order % 2 == 1 }
          match faultTrap Trap.loadFault r.1 with
          | some t => .trap (s1.updWave c.k (fun w => w.updGang c.q (fun g => { g with owed := some owed }))) t
          | none =>
            match secureTrap s c.core good with
            | some t => .trapAfter s1 t
            | none => .done s1)

/-! ## A wave's own view -/

/-- How far `t` lies behind `u` in the same space. -/
def Target.behind (u t : Target) : Option Nat :=
  match u, t with
  | .dev a, .dev b => if a ≤ b then some (b - a) else none
  | .comb c a, .comb d b => if c = d ∧ a ≤ b then some (b - a) else none
  | .rawComb c a, .rawComb d b => if c = d ∧ a ≤ b then some (b - a) else none
  | .comb c a, .rawComb d b => if c = d ∧ a ≤ b then some (b - a) else none
  | .rawComb c a, .comb d b => if c = d ∧ a ≤ b then some (b - a) else none
  | .host p a, .host q b => if p = q ∧ a ≤ b then some (b - a) else none
  | .peer p a, .peer q b => if p = q ∧ a ≤ b then some (b - a) else none
  | _, _ => none

/-- Two places share a byte. -/
def Target.overlaps (u : Target) (n : Nat) (t : Target) (m : Nat) : Bool :=
  (match u.behind t with | some d => decide (d < n) | none => false)
    || (match t.behind u with | some d => decide (d < m) | none => false)

/-- The byte that the element would store at `t`. -/
def MElem.byteAt (e : MElem) (t : Target) : Option Byte :=
  match e.target.bind (fun u => u.behind t) with
  | some d => if d < e.size then some (BitVec.ofNat 8 (e.data / 256 ^ d)) else none
  | none => none

/-- The place lies in the space of a SPACE code. -/
def Target.inSpace (t : Target) (space : Nat) : Bool :=
  match t with
  | .comb _ _ => space == 1
  | .rawComb _ _ => space == 1
  | .host _ _ => space == 2
  | _ => space == 0 || space == 3

/-- The byte that an element would store at an address of its space. -/
def MElem.byteVa (e : MElem) (va : Nat) : Option Byte :=
  if e.va ≤ va ∧ va < e.va + e.size then some (BitVec.ofNat 8 (e.data / 256 ^ (va - e.va))) else none

/-- The wave's earlier plain stores to the byte that have not been applied, with their numbers: those on their way, and those that
faulted and are kept, which are known by their address. -/
def ownStores (s : State) (k : WaveKey) (seq : Nat) (va : Option Nat) (t : Target) : List (Nat × Byte) :=
  (s.mops.filter (fun o => o.w == k && decide (o.seq < seq) && o.kind == .store)).flatMap (fun o =>
    o.elems.filterMap (fun e => if e.phase.unapplied then (e.byteAt t).map (fun b => (o.seq, b)) else none))
  ++ match va with
    | none => []
    | some a =>
      ((s.core k.core).retry.filter (fun r => r.valid && r.w == k && decide (r.opInfo.seq < seq) && t.inSpace r.opInfo.space)).flatMap
        (fun r => r.elems.filterMap (fun e => (e.byteVa a).map (fun b => (r.opInfo.seq, b))))

/-- The last of the highest number. -/
def latestOf (l : List (Nat × Byte)) : Option (Nat × Byte) :=
  l.foldl (fun b x => match b with | some y => if y.1 ≤ x.1 then some x else some y | none => some x) none

/-- R216: the value of the wave's latest earlier store to the byte, in program order, that has not been applied; a write that its bank
discards is never read (R46). -/
def forwardByte (s : State) (k : WaveKey) (seq : Nat) (va : Option Nat) (t : Target) : Option Byte :=
  if s.discards t then none else (latestOf (ownStores s k seq va t)).map (·.2)

def ownBytes (s : State) (k : WaveKey) (seq : Nat) (t : Target) : Nat → List Byte
  | 0 => []
  | n + 1 => (forwardByte s k seq none t).getD (s.byteAt t) :: ownBytes s k seq (t.plus 1) n

/-- Home time from which a write to a line may apply (R212). -/
def State.leaseT (s : State) (t : Target) : Nat :=
  let d := SMap.get 0 s.eDev t.leaseKey
  let f := SMap.get 0 s.eFab t.leaseKey
  max (if d = 0 then 0 else d + 4) (if f = 0 then 0 else f + 40)

/-- A store has arrived at the line and is not applied yet (R213). -/
def State.linePending (s : State) (line : Target) : Bool :=
  s.mops.any (fun o => o.elems.any (fun e =>
    match e.phase, e.target with
    | .arrived _ _, some u => u.line == line
    | _, _ => false))

/-- Lines that `n` bytes from a place touch. -/
def Target.linesOf (t : Target) (n : Nat) : List Target :=
  (List.range ((t.offset % 128 + n + 127) / 128)).map (fun i => t.line.plus (128 * i))

/-- No lease stands on the lines of `n` bytes (R209, R212), and no store is pending there (R213). -/
def State.unleased (s : State) (t : Target) (n : Nat) : Bool :=
  (t.linesOf n).all (fun u => decide (s.leaseT u ≤ s.gtb) && !s.linePending u)

/-- A write by the device itself waits like any other: for leases and pending stores, and for its region to leave SHARED (R403). -/
def State.writable (s : State) (t : Target) (n : Nat) : Bool :=
  s.unleased t n && (t.linesOf n).all (fun u => (sharedAny s u).isNone)

/-- What a write that must wait does: it moves the SHARED regions that it meets (R403). -/
def contestAll (s : State) (t : Target) (n : Nat) : State := (t.linesOf n).foldl contestAt s

/-! ## One access of an issue -/

/-- An access made once for the issue: its place, or how the issue ends. -/
inductive OneAccess where
  | at_ (t : Target) (s : State)
  | ends (e : Exit)
  deriving Repr

/-- Alignment, range locks, space and translation of one access (R235, R236), once the wave's stores have been checked, the acquires and
fences before it have completed and no FENCET of it waits (R216, R219, R220, R229). -/
def oneAccess (c : Ctx) (need : Need) (space align va size : Nat) (s : State) : OneAccess :=
  let a : Acc := { lane := c.lanes.headD 0, va := va, size := size }
  let all := laneMask c.lanes
  match accessChecks s c (decide (need = .store)) space align [a] with
  | some t => .ends (.trap s { t with mask := all })
  | none =>
    if c.w.fencing || orderHeld s c.k c.seq || s.mops.any (fun o => o.w == c.k && !o.checked) then .ends (.stall s)
    else
    let who := c.who s
    let r := place s who need space va size
    let s := hostSettle r.2 who need space [(a, r.1)]
    match r.1 with
    | .wait => .ends (.stall s)
    | .fault x => .ends (.trap s { code := Trap.loadFault, mask := all, addr := va, det1 := x })
    | .ok t _ =>
      match secureOf s c.core t with
      | some n => .ends (.trapAfter s { code := Trap.secureAccess, mask := all, addr := va, det1 := n })
      | none => .at_ t s

/-- The bytes of a structure that an instruction reads at issue, or POISON (R392). -/
def readOne (c : Ctx) (t : Target) (n : Nat) (s : State) : Except TrapInfo Nat :=
  if s.poisonedIn t n then .error { code := Trap.poison, mask := laneMask c.lanes, det1 := poisonSource t }
  else .ok (bytesToNat (ownBytes s c.k c.w.opSeq t n))

end Sys2Proof.Machine
end

