-- ==== Sys2Proof/Machine/Queue.lean ====
section
/-! DEFINITION. Queue instructions and the comb allocator (08 R247-R252, 02 R41, R42, R65). -/

namespace Sys2Proof.Machine

/-! ## QINIT -/

/-- R248. -/
def headerBad (x : Nat) : Bool :=
  let cap := field x 95 64
  field x 97 96 == 3 || !(List.range 24).any (fun i => cap == 2 ^ (i + 1)) || field x 63 0 % 64 != 0 || field x 111 98 != 0
    || field x 118 115 != 0 || field x 127 121 != 0

/-- The records that QINIT writes (R358); in a section those of R420. -/
def queueRecord (s : State) (w : Wave) (hw : Bool) : Nat :=
  if w.section? then recordBits 0 0 0 false hw true 2
  else recordBits w.grid 0 (((s.waveTeam w).map (·.seq)).getD 0) false hw true (s.waveClass w)

/-- The queue whose header lies at a place. A window's bytes belong to the team that holds their page. -/
def queueAt (s : State) (ctx : Nat) (t : Target) : Option QueueRef :=
  let inWindow (core off : Nat) : Option QueueRef :=
    (s.teams.find? (fun u => u.core == core && u.res == .resident && u.pages.contains (off / 4096))).map (fun u =>
      .ring ctx (some (u.gid, u.num)) (u.pages.idxOf (off / 4096) * 4096 + off % 4096))
  match t with
  | .dev pa => some (.ring ctx none pa)
  | .peer r pa => some (.far ctx r pa)
  | .comb core off => inWindow core off
  | .rawComb core off => inWindow core off
  | .host _ _ => none

def malformed (c : Ctx) (a : Nat) : TrapInfo :=
  { code := Trap.loadFault, mask := laneMask c.lanes, addr := a, det1 := 5 }

def registerQueue (s : State) (c : Ctx) (q : QueueRef) : State :=
  { s with
    queues := { q := q, w := c.k, sect := c.w.sectionId, gid := c.w.grid, team := c.w.team, wnum := c.w.wnum } :: s.queues.filter (fun i => i.q != q)
    tainted := s.tainted.filter (· != q) }

/-- An earlier store of the wave to the bytes is still on its way. -/
def ownPending (s : State) (k : WaveKey) (t : Target) (n : Nat) : Bool :=
  s.mops.any (fun o => o.w == k && o.elems.any (fun e =>
    e.phase.unapplied && (match e.target with | some u => u.overlaps e.size t n | none => o.space != 2)))

/-- The header as QINIT leaves it: HEAD = TAIL = 0, SCOPE, V and the records. -/
def initHeader (x scope rec_ : Nat) : Nat :=
  setField (setField (x % 2 ^ 128) 114 112 scope) 120 120 1 + rec_ * 2 ^ 256 + rec_ * 2 ^ 384

def ringInit (f : FmtM) (c : Ctx) (s : State) : Exit :=
  let scope := f.m.scope.toNat
  let a := c.addr f (c.lanes.headD 0)
  releaseFirst s c true (actScope f.m.space.toNat scope)
    (match oneAccess c .store f.m.space.toNat 64 a 64 s with
      | .ends e => e
      | .at_ t s =>
        if ownPending s c.k t 64 || walkerBusy s c.w.ctx || !s.writable t 64 then .stall (contestAll s t 64)
        else
          match readOne c t 64 s with
          | .error e => .trap s e
          | .ok x =>
            match headerBad x, queueAt s c.w.ctx t with
            | false, some q =>
              .done (registerQueue
                ((s.writeAt t 64 (initHeader x scope (queueRecord s c.w (x.testBit 119)))).posted c.core c.w.ctx t 64) c q)
            | _, _ => .trap s (malformed c a))

/-- The FIFO bank that an instruction names, and its base. -/
def fifoBase (f : FmtM) (c : Ctx) : Nat := (c.w.rdS f.sa.reg.toNat).toNat

def fifoReady (s : State) (core bank : Nat) : Bool :=
  s.bankMode core bank == 4 && !(s.core core).changes.any (fun x => x.bank == bank)

def fifoInit (f : FmtM) (c : Ctx) (s : State) : Exit :=
  let scope := f.m.scope.toNat
  let bank := fifoBase f c % 64
  let esz := f.m.sub.toNat % 4
  let hw := f.m.sub.getLsbD 3
  releaseFirst s c true (actScope 1 scope)
    (if esz = 3 || !fifoReady s c.core bank then .trap s (malformed c (fifoBase f c))
    else
      let r := BitVec.ofNat 128 (queueRecord s c.w hw)
      let q : Fifo :=
        { bank := bank, scope := scope, esz := esz, hw := hw, prec := r, crec := r, creator := c.k, elems := [], tail := 0,
          head := 0 }
      .done (registerQueue (s.updCore c.core (fun x => { x with fifos := q :: x.fifos.filter (fun y => y.bank != bank) })) c
        (.fifo c.core bank)))

def sigQinit (h : Hdr) (f : FmtM) (c : Ctx) : Sig :=
  let fifo := f.m.sub.getLsbD 2
  sigM c.w16 h f
    { ofs := !fifo, ty := f.m.ty == 0, scope := scopeOk f.m, order := f.m.order == 0,
      space := f.m.space == 1 || (!fifo && f.m.space == 0), perIssue := true,
      sub := if fifo then !f.m.sub.getLsbD 4 else f.m.sub == 0 }

def execQinit (h : Hdr) (f : FmtM) (s : State) : Host.Outcome State Fault Refusal :=
  let fifo := f.m.sub.getLsbD 2
  issue h always (sigQinit h f)
    (fun c s => if c.lanes.isEmpty then .done s else if fifo then fifoInit f c s else ringInit f c s) s

/-! ## QBIND -/

def bindPort (s : State) (c : Ctx) (n : Nat) (q : Option (QueueRef × Nat)) : State :=
  s.updWave c.k (fun w =>
    { w with ports := (q.map (fun q => (n, q))).toList ++ w.ports.filter (fun p => p.1 != n) })

/-- R249. -/
def qbindBody (h : Hdr) (f : FmtM) (c : Ctx) (s : State) : Exit :=
  let n := h.dst.toNat - 240
  if c.lanes.isEmpty then .done s
  else if f.m.sub.getLsbD 4 then .done (bindPort s c n none)
  else if f.m.sub.getLsbD 2 then
    let bank := fifoBase f c % 64
    match s.fifo? c.core bank with
    | some _ =>
      if fifoReady s c.core bank then .done (bindPort s c n (some (.fifo c.core bank, fifoBase f c)))
      else .trap s (malformed c (fifoBase f c))
    | none => .trap s (malformed c (fifoBase f c))
  else
    let a := c.addr f (c.lanes.headD 0)
    match oneAccess c .load f.m.space.toNat 64 a 64 s with
    | .ends e => e
    | .at_ t s =>
      match readOne c t 64 s with
      | .error e => .trap s e
      | .ok x =>
        match x.testBit 120, queueAt s c.w.ctx t with
        | true, some q => .done (bindPort s c n (some (q, a)))
        | _, _ => .trap s (malformed c a)

def sigQbind (h : Hdr) (f : FmtM) (c : Ctx) : Sig :=
  let fifo := f.m.sub.getLsbD 2
  let unb := f.m.sub.getLsbD 4
  sigM c.w16 h f
    { dst := .other (decide (240 ≤ h.dst.toNat)) [], useBase := !unb, ofs := !fifo && !unb, ty := f.m.ty == 0,
      scope := f.m.scope == 0, order := f.m.order == 0,
      space := if unb then f.m.space == 0 else f.m.space == 1 || (!fifo && f.m.space == 0), perIssue := true,
      sub := f.m.sub == 0 || f.m.sub == 4 || f.m.sub == 16 }

def execQbind (h : Hdr) (f : FmtM) (s : State) : Host.Outcome State Fault Refusal :=
  issue h always (sigQbind h f)
    (qbindBody h f) s

/-! ## QTRY -/

/-- A source field that names a predicate to be written. -/
def predField (s : Src) : Bool := decide (s.reg.toNat < 128) && s.kind == 0 && s.k == 0

def Sig.withPred (g : Sig) (p : Nat) : Sig := { g with dst := g.dst ++ (if p = 0 then [] else [.pred p 1]) }

/-- Registers of an element of the port's queue (R251). -/
def portRegs (s : State) (w : Wave) (reg : Nat) : Nat :=
  match (w.portQueue reg).bind (readQueue s) with
  | some q => 2 ^ q.esz
  | none => 1

def sigQtry (h : Hdr) (f : FmtA) (n : Nat) (c : Ctx) : Sig :=
  let push := f.m.sub.getLsbD 0
  let al := if n = 1 then 1 else 2
  (sigA c.w16 h f
    { plainMod f.m with
      dst := if push then .none else .vec n al (n != 1), a := .port, b := .field (predField f.sb),
      c := if push then .win n al true (n != 1) else .unused, sub := decide (f.m.sub.toNat < 4), sb := !push }).withPred f.sb.reg.toNat

/-- One element of a lane's window. -/
def elemOf (c : Ctx) (f : FmtA) (n lane : Nat) : Nat :=
  (List.range n).foldl (fun a i => a + (c.regAt 2 false f.sc i lane).toNat * 2 ^ (32 * i)) 0

/-- The lanes that moved an element read 1. -/
def movedPreds (c : Ctx) (p : Nat) (moved : List Nat) : List RegWr := c.predAll p (fun l => moved.contains l)

def qtryPop (h : Hdr) (f : FmtA) (n : Nat) (q : QueueRef) (moved : List Nat) (c : Ctx) (s : State) : Exit :=
  let r := popMany s c.core q moved.length
  let ws := ((moved.zip r.1).map (fun p =>
    (List.range n).map (fun i =>
      (⟨.vec, h.dst.toNat + i, p.1, BitVec.ofNat 32 (p.2 / 2 ^ (32 * i))⟩ : RegWr)))).flatten
  .done (commitAlu r.2 c (sigQtry h f n c) { writes := ws ++ movedPreds c f.sb.reg.toNat moved })

def qtryPush (f : FmtA) (n : Nat) (q : QueueRef) (moved : List Nat) (c : Ctx) (s : State) : Exit :=
  .done ((sendPush s c.w c.pc q (moved.map (elemOf c f n))).updWave c.k (fun w =>
    w.wrAll (movedPreds c f.sb.reg.toNat moved)))

/-- R251: plain forms move what there is; the `.wait` forms block as a register operand of the port does. -/
def qtryBody (h : Hdr) (f : FmtA) (n : Nat) (c : Ctx) (s : State) : Exit :=
  let reg := f.sa.reg.toNat
  let push := f.m.sub.getLsbD 0
  let count := c.lanes.length
  if c.lanes.isEmpty then .done s
  else if !push && orderHeld s c.k c.seq then .stall s
  else if f.m.sub.getLsbD 1 then
    match checkPort s c h.yld push reg count with
    | .trap t => .trap s t
    | .wait w => .wait s w
    | .ready q => if push then qtryPush f n q c.lanes c s else qtryPop h f n q c.lanes c s
  else
    match c.w.portQueue reg with
    | none => .trap s { code := Trap.registerRange, det1 := reg }
    | some q =>
      match readQueue s q with
      | none => .trap s { code := Trap.registerRange, det1 := reg }
      | some x =>
        if !queueScopeOk s c.w q x.scope then
          .trap s { code := Trap.queueScope, mask := laneMask c.lanes, addr := c.w.portAddr reg }
        else
          match queuePoison s c.core q (if push then 0 else count) with
          | some d => .trap s { code := Trap.poison, mask := laneMask c.lanes, det1 := d }
          | none =>
            if push then
              releaseFirst s c true (actScope q.space x.scope) (qtryPush f n q (c.lanes.take (min count (roomOf s q x))) c s)
            else qtryPop h f n q (c.lanes.take (min count x.count)) c s

def sigQtryAt (h : Hdr) (f : FmtA) (s : State) (c : Ctx) : Sig := sigQtry h f (portRegs s c.w f.sa.reg.toNat) c

def execQtry (h : Hdr) (f : FmtA) (s : State) : Host.Outcome State Fault Refusal :=
  issue h always (sigQtryAt h f s)
    (fun c s => qtryBody h f (portRegs s c.w f.sa.reg.toNat) c s) s

/-! ## COMBCFG -/

/-- The reason for which the allocator refuses a change, or 0 (R41). -/
def bankReason (s : State) (core bank mode : Nat) (granted : Bool) : Nat :=
  let x := s.core core
  if !granted || 4 < mode then 4
  else
    match s.bankMode core bank with
    | 1 => if mode = 1 then 0 else if x.slices.any (fun p => p.1 / 0x8000 == bank) then 3 else 0
    | 2 => if mode = 2 then 0 else if x.scrPages.any (fun p => p / 8 == bank) then 1 else 0
    | 4 =>
      let q : QueueRef := .fifo core bank
      let used := (match s.fifo? core bank with | some f => !f.elems.isEmpty | none => false)
        || decide (0 < reservedRoom s q)
        || (s.waves ++ (s.teams.map (·.saved)).flatten).any (fun w =>
          (w.ports ++ (w.gangs.filterMap (·.bound)).flatten).any (fun p => p.2.1 == q))
      if mode = 4 then 0 else if used then 2 else 0
    | _ => 0

/-- The dirty sectors of one way leave for their homes (R42). -/
def writeBack (s : State) (core bank : Nat) : State :=
  { s with
    mops := s.mops.map (fun o =>
      if o.w.core = core then
        { o with elems := o.elems.map (fun e =>
            match e.phase with
            | .dirty _ => if e.way = some bank then { e with phase := .sent } else e
            | _ => e) }
      else o) }

/-- A sector written back from a way has not reached its home (R42). -/
def wayBusy (s : State) (core bank : Nat) (p : Target → Bool) : Bool :=
  s.mops.any (fun o => o.w.core == core && o.elems.any (fun e => e.way == some bank &&
    (match e.phase, e.target with | .dirty _, some t => p t | .sent, some t => p t | _, _ => false)))

/-- The change begins: the old use ends, a way of the L1 is written back and leaves (R42). -/
def beginChange (s : State) (core bank mode : Nat) : State :=
  let old := s.bankMode core bank
  let s := if old = 3 then writeBack s core bank else s
  s.updCore core (fun x =>
    { x with
      l1 := x.l1.filter (fun l => l.bank != bank), fifos := x.fifos.filter (fun f => f.bank != bank)
      changes := x.changes ++ [{ bank := bank, mode := mode, taken := s.cyc, ready := s.cyc + if old = 0 then 512 else 0 }] })

/-- The bank enters its new mode; one that leaves OFF is zero, and the writes of COMBWIN that waited for its fill are made (R42). -/
def endChange (s : State) (core bank mode : Nat) : State :=
  let old := s.bankMode core bank
  let s1 := s.updCore core (fun x =>
    { x with
      modes := SMap.set 0 x.modes bank mode
      comb := if old = 0 then x.comb.filter (fun p => p.1 / 0x8000 != bank) else x.comb
      changes := x.changes.filter (fun y => y.bank != bank)
      combWait := x.combWait.filter (fun p => p.1 / 0x8000 != bank) })
  let late := (s.core core).combWait.filter (fun p => p.1 / 0x8000 == bank)
  late.foldl (fun s p => rawCombSet s core p.1 p.2) s1

/-- R252. -/
def combcfgBody (h : Hdr) (f : FmtI) (sig : Ctx → Sig) (c : Ctx) (s : State) : Exit :=
  if c.lanes.isEmpty then .done s
  else
    let bank := if f.m.sa then (c.w.rdS f.sa.reg.toNat).toNat % 64 else f.imm.toNat % 64
    let mode := field f.imm.toNat 10 8
    let answer (r : Nat) : Exit := .done (commitAlu s c (sig c) { writes := dstWr true h.dst false 0 r })
    if (s.core c.core).changes.any (fun x => x.bank == bank) then .stall s
    else
      let r := bankReason s c.core bank mode (s.waveDesc c.w 498 498 == 1 && !c.w.section?)
      if r != 0 || s.bankMode c.core bank == mode then answer r
      else .block (beginChange s c.core bank mode) (.comb bank h.dst.toNat)

def sigCombcfg (h : Hdr) (f : FmtI) (c : Ctx) : Sig :=
  sigI c.w16 h f
    { plainMod f.m with dst := .reg false, a := if f.m.sa then .sca false else .unused, ds := .one, sb := true }
    [(49, f.imm.toNat / 2048 == 0), (25, field f.imm.toNat 7 6 == 0), (23, !f.m.sa || f.imm.toNat % 64 == 0)]

def execCombcfg (h : Hdr) (f : FmtI) (s : State) : Host.Outcome State Fault Refusal :=
  issue h always (sigCombcfg h f) (combcfgBody h f (sigCombcfg h f)) s

end Sys2Proof.Machine
end

