-- ==== Sys2Proof/Machine/Home.lean ====
section
/-! DEFINITION. Writes at their home: poison (13 R392), valid rings (08 R247); and what an engine operation shares: its
place, its range locks (07 R222, R223), its order behind the wave (R225), its faults (13 R381, 08 R268). -/

namespace Sys2Proof.Machine

/-! ## Writes at the home -/

/-- Key of the sector that holds a place. -/
def Target.sector : Target → Option PoisonLoc
  | .dev pa => some (.memory (pa / 32))
  | .comb c o => some (.scratchpad c (o / 32))
  | .rawComb c o => some (.scratchpad c (o / 32))
  | _ => none

/-- Sectors that `n` bytes from `t` fill whole lose their poison (R392). -/
def clearPoison (s : State) (t : Target) (n : Nat) : State :=
  let o := t.offset
  let full := (List.range (n / 32 + 2)).filterMap (fun i =>
    let k := o / 32 + i
    if o ≤ 32 * k ∧ 32 * k + 32 ≤ o + n then (t.plus (32 * k - o)).sector else none)
  if full.isEmpty then s else { s with poison := s.poison.filter (fun p => !full.contains p) }

/-- A page of a ring's storage, as it lies now: in the window of its team, or where its context's tables put it. -/
def ringPage (s : State) (i : QueueInfo) (h : QHead) (page : Nat) : Option Target :=
  let a := h.base / 4096 * 4096 + page * 4096
  let far (ctx : Nat) : Option Target :=
    let part := s.partOf i.w.core
    match walkFrom s part a 5 (field (s.desc i.w.core ctx) 63 0) with
    | .leaf e lvl _ => match leafPlace s part false e lvl a with | .ok t _ => some t | .fault _ => none
    | .fault _ => none
  match i.q with
  | .ring ctx none _ => far ctx
  | .far ctx _ _ => far ctx
  | .ring _ (some (g, t)) _ => (s.team? g t).map (fun u => .comb u.core (u.windowOff (a % 2 ^ 20)))
  | .fifo _ _ => none

/-- Whether a valid ring's header or storage holds some of `n` bytes from a place, by whatever address they are reached. -/
def ringTouched (s : State) (t : Target) (n : Nat) (i : QueueInfo) : Bool :=
  match readQueue s i.q, queuePlace s i.q with
  | some h, some u =>
    let first := h.base % 4096
    let bytes := h.cap * h.size
    h.valid && (u.overlaps 64 t n ||
      (List.range ((first + bytes + 4095) / 4096)).any (fun p =>
        let lo := if p = 0 then first else 0
        let hi := min 4096 (first + bytes - p * 4096)
        match ringPage s i h p with
        | some v => (v.plus lo).overlaps (hi - lo) t n
        | none => false))
  | _, _ => false

/-- A plain access to a valid ring leaves its contents unspecified (R247). -/
def touchRings (s : State) (t : Target) (n : Nat) : State :=
  let l := (s.queues.filter (fun i =>
    (match i.q with | .fifo _ _ => false | _ => true) && !s.tainted.contains i.q && ringTouched s t n i)).map (·.q)
  if l.isEmpty then s else { s with tainted := s.tainted ++ l }

/-! ## Range locks of operations -/

/-- A range that an operation touches. -/
structure Range where
  space : Nat
  lo : Nat
  hi : Nat
  write : Bool
  deriving DecidableEq, Repr

/-- The least index that no entry of the table has. -/
def freeIndex (l : List Lock) : Nat := ((List.range 64).find? (fun i => l.all (fun x => x.index != i))).getD 64

/-- Registers an operation's ranges; none when too few entries are free (R223). -/
def addLocks (s : State) (core ctx gid team owner opcode : Nat) (l : List Range) : Option State :=
  if 64 < (s.core core).locks.length + l.length then none
  else
    some (s.updCore core (fun x =>
      { x with
        locks := l.foldl (fun (t : List Lock) r =>
          let tag : (Nat × Nat) × Nat := (lockTag s gid team r.space r.lo).getD ((0, 0), r.lo)
          t ++ [{ index := freeIndex t, ctx := ctx, space := r.space, team := tag.1, lo := tag.2, hi := tag.2 + (r.hi - r.lo),
                  write := r.write, opcode := opcode, owner := owner }]) x.locks }))

def dropLocks (s : State) (core owner : Nat) : State :=
  s.updCore core (fun x => { x with locks := x.locks.filter (fun l => l.owner != owner) })

/-- R225: every load issued before `seq` has returned, its replayed lanes included, every store has applied, and no faulted store waits. -/
def engineSettled (s : State) (k : WaveKey) (seq : Nat) : Bool :=
  s.loads.all (fun o => !(o.w == k && decide (o.seq < seq)))
  && s.mops.all (fun o => !(o.w == k && decide (o.seq < seq) && o.elems.any (fun e => e.phase.unapplied)))
  && s.engCmds.all (fun o => !(o.w == k && decide (o.seq < seq) && o.storesAt 0))
  && ((s.anyWave? k).all (fun w => w.gangs.all (fun g => g.owed.all (fun o => decide (seq ≤ o.seq)))))
  && s.cores.all (fun c => c.retry.all (fun r => !(r.valid && r.w == k && decide (r.opInfo.seq < seq))))

/-! ## Bytes of an operation -/

/-- Places of an operation's bytes, or why it cannot reach them now. -/
inductive Reach where
  | ok (l : List Target)
  | fault (va cause : Nat)
  | secure
  | poisoned
  | wait
  deriving DecidableEq, Repr

/-- Places of single bytes, each page translated once as the bytes run through it. A write that meets a SHARED region moves it and
waits (R403). -/
def reachFrom (who : Who) (need : Need) (space : Nat) : List Nat → Option (Nat × Target) → State → Reach × State
  | [], _, s => (.ok [], s)
  | a :: rest, last, s =>
    let hit : Option Target := match last with
      | some (b, t) => if b / 4096 = a / 4096 ∧ b ≤ a then some (t.plus (a - b)) else none
      | none => none
    let r : Placed × State := match hit with
      | some t => (.ok t 7, s)
      | none => place s who need space a 1
    match r.1 with
    | .fault c => (.fault a c, if space = 2 then hostAfter r.2 who.core who.ctx who.waiter a else r.2)
    | .wait => (.wait, if space = 2 then hostAsk r.2 who.core who.ctx (decide (need = .store)) who.waiter a else r.2)
    | .ok t _ =>
      if (secureWho s who t).isSome then (.secure, r.2)
      else if need = .load ∧ s.poisonedAt t then (.poisoned, r.2)
      else
        match (if need = .store then sharedRegion s (s.partOf who.core) t else none) with
        | some n => (.wait, autoContest r.2 (s.partOf who.core) n)
        | none =>
        let u := reachFrom who need space rest (some (a, t)) r.2
        match u.1 with
        | .ok l => (.ok (t :: l), u.2)
        | x => (x, u.2)

/-- The sectors of peers among places. -/
def peerSectors : List Target → List (Nat × Nat)
  | [] => []
  | .peer r a :: rest => (r, a / 32) :: (peerSectors rest).filter (· != (r, a / 32))
  | _ :: rest => peerSectors rest

/-- What an engine or unit reads of a peer's memory is asked for over the context's connection, and is there when all of it is answered
(R409, log 82). -/
def askPeers (s : State) (core ctx : Nat) (l : List (Nat × Nat)) : Bool × State :=
  let mine (x : Nat × Nat) (f : Fetch) : Bool := f.core == core && f.ctx == ctx && f.rank == x.1 && f.sector == x.2
  if l.all (fun x => s.fabric.fetches.any (fun f => mine x f && f.reply.isSome)) then
    let got := s.fabric.fetches.filter (fun f => l.any (fun x => mine x f))
    (true, { s with
      peerMem := got.foldl (fun m f => m.write (peerKey f.rank (32 * f.sector)) ((f.reply.getD []).take 32)) s.peerMem
      fabric := { s.fabric with fetches := s.fabric.fetches.filter (fun f => !l.any (fun x => mine x f)) } })
  else
    (false, { s with fabric := { s.fabric with fetches := s.fabric.fetches ++
        (l.filter (fun x => !s.fabric.fetches.any (mine x))).map (fun x =>
          { core := core, ctx := ctx, rank := x.1, sector := x.2, flit := none, reply := none }) } })

def reach (s : State) (who : Who) (need : Need) (space : Nat) (l : List Nat) : Reach × State :=
  match reachFrom who need space l none s with
  | (.ok ts, s1) =>
    if need ≠ .load ∨ (peerSectors ts).isEmpty then (.ok ts, s1)
    else
      match askPeers s1 who.core who.ctx (peerSectors ts) with
      | (true, s2) => (.ok ts, s2)
      | (false, s2) => (.wait, s2)
  | r => r

/-- Whom a wave's operation acts for, after the wave may have ended. -/
def whoFor (s : State) (core ctx gid team : Nat) : Who :=
  { core := core, ctx := ctx, gid := gid, team := team, sect := false, priv := field (s.desc core ctx) 497 497 == 1 }

/-- Places that follow one another within a line, as their first place and their number. -/
def runsOf : List (Target × Byte) → List (Target × Nat)
  | [] => []
  | p :: rest =>
    match runsOf rest with
    | [] => [(p.1, 1)]
    | (t, n) :: more => if p.1.plus 1 = t ∧ t.offset % 128 ≠ 0 then (p.1, n + 1) :: more else (p.1, 1) :: (t, n) :: more

/-- Writes bytes at their places for a context, with the poison of filled sectors cleared. -/
def writePlaces (s : State) (core ctx : Nat) (l : List (Target × Byte)) : State :=
  let s := l.foldl (fun s p => s.setByte p.1 p.2) s
  let s := l.foldl (fun s p => touchRings s p.1 1) s
  let s := if l.any (fun p => p.1.isPeer) then (runsOf l).foldl (fun s p => s.posted core ctx p.1 p.2) s else s
  match l with
  | p :: _ => if (l.zipIdx).all (fun q => q.1.1 == p.1.plus q.2) then clearPoison s p.1 l.length else s
  | [] => s

/-- All the lines may be written now (R209, R212), and no A or D bit of the context's walks is still to be set (R385). -/
def writableAll (s : State) (ctx : Nat) (l : List Target) : Bool := !walkerBusy s ctx && l.all (fun t => s.writable t 1)

/-! ## Reports of operations -/

/-- KIND 1: an operation's translation fault (R381). `unit` is 0 copy engine, 1 table unit. -/
def engineFault (s : State) (core : Nat) (k : WaveKey) (ctx gid team : Nat) (pc : Pc) (store : Bool) (va cause chan unit : Nat) :
    State :=
  postEvent s core 1 ctx gid team k.slot k.place
    (({ code := if store then Trap.storeFault else Trap.loadFault, addr := va, det1 := cause, det2 := chan + 4 * unit } :
      TrapInfo).at_ pc)

/-- A wave of the team that lives, resident or saved. -/
def liveWaves (s : State) (gid team : Nat) : List Wave :=
  match s.team? gid team with
  | none => []
  | some t => (teamWavesOf s t).filter (fun w => !w.quads.all (·.ended))
where
  teamWavesOf (s : State) (t : Team) : List Wave :=
    s.waves.filter (fun w => !w.section? && w.grid == t.gid && w.team == t.num) ++ t.saved

def lowestWave : List Wave → Option Wave
  | [] => none
  | w :: t =>
    match lowestWave t with
    | none => some w
    | some v => if v.wnum < w.wnum then some v else some w

/-- A team event (KIND 2) that the supervisor answers through TCMD (R419). -/
def teamEvent (s : State) (core ctx gid team : Nat) (k : WaveKey) (cmd : Option Nat) (r : TrapRec) : State :=
  (postEvent s core 2 ctx gid team k.slot k.place r).updTeam gid team (fun t =>
    { t with events := t.events ++ [{ core := core, code := r.code, cmd := cmd, w := k }] })

/-- COPY_FAULT of a channel: to the issuing wave, else the lowest live wave of its team, else the supervisor (R268). -/
def copyFault (s : State) (core : Nat) (k : WaveKey) (ctx gid team : Nat) (pc : Pc) (code chan : Nat) : State :=
  let r := ({ code := Trap.copyFault, det1 := code, det2 := chan } : TrapInfo).at_ pc
  let s := if code = 3 then s.oweError 3 core ctx (some (s.partOf core)) else s
  let l := liveWaves s gid team
  match l.find? (fun w => w.key == k), lowestWave l with
  | some _, _ => reportAt s k 6 false r
  | none, some w => reportAt s w.key 6 true r
  | none, none => teamEvent s core ctx gid team k none r

end Sys2Proof.Machine
end

