-- ==== Sys2Proof/Machine/Memory.lean ====
section
/-! DEFINITION. Loads, stores, atomics, fences and cache control (08 R235-R246, 07 R219, R229). -/

namespace Sys2Proof.Machine

/-! ## LD and ST -/

/-- TYPE codes whose elements fill a register pair (R238). -/
def pairCode (ty : Nat) : Bool := ty == 0 || ty == 6 || ty == 7

/-- Elements of an access by SUB [3:2] (R237). -/
def subCount (sub : Nat) : Nat := 2 ^ (sub / 4 % 4)

/-- SUB and TYPE against each other (R237). -/
def lsSubOk (store : Bool) (ty sub : Nat) : Bool :=
  let n := subCount sub
  decide (sub < 12) && (!store || sub % 4 != 3)
    && (n == 1 || ty == 1 || ty == 8 || ty == 9 || (n == 2 && pairCode ty))

/-- What LD, ST, LDS and STS share. -/
def useLs (f : FmtM) (store perIssue : Bool) : UseM :=
  { ty := decide (f.m.ty.toNat < 14), scope := scopeOk f.m, order := f.m.order == 0 || f.m.order == (if store then 2 else 1),
    space := true, perIssue := perIssue, sub := lsSubOk store f.m.ty.toNat f.m.sub.toNat }

/-- Registers of an element, and of the whole window. -/
def lsStep (f : FmtM) : Nat := if pairCode f.m.ty.toNat then 2 else 1

def lsRegs (f : FmtM) : Nat := lsStep f * subCount f.m.sub.toNat

/-- Bytes of an element. -/
def lsSize (f : FmtM) : Nat := codeWidth f.m.ty.toNat / 8

/-- The elements of one lane: address, register, data (R237). -/
def lsAccs (c : Ctx) (f : FmtM) (dst : Nat) (data : Nat → Nat → Nat) (lane : Nat) : List Acc :=
  let a := c.addr f lane
  (List.range (subCount f.m.sub.toNat)).map (fun i =>
    { lane := lane, va := a + lsSize f * i, size := lsSize f, dst := dst + lsStep f * i, off := lsSize f * i,
      data := data i lane % 256 ^ lsSize f })

def ldForm (f : FmtM) (scalar : Bool) : LoadForm :=
  { space := f.m.space.toNat, align := lsSize f * subCount f.m.sub.toNat, acquire := f.m.order == 1,
    scope := f.m.scope.toNat, ty := f.m.ty.toNat, scalar := scalar, hint := f.m.sub.toNat % 4 }

def sigLd (h : Hdr) (f : FmtM) (c : Ctx) : Sig :=
  sigM c.w16 h f { useLs f false false with dst := .vec (lsRegs f) (lsStep f) (lsSize f != 4), sb := true }

/-- R238. -/
def execLd (h : Hdr) (f : FmtM) (s : State) : Host.Outcome State Fault Refusal :=
  issue h always (sigLd h f)
    (fun c s => loadExit c (sigLd h f c) (ldForm f false)
      ((c.lanes.map (lsAccs c f h.dst.toNat (fun _ _ => 0))).flatten) s) s

def stForm (f : FmtM) (whole : Bool) : StoreForm :=
  { space := f.m.space.toNat, align := lsSize f * subCount f.m.sub.toNat, scope := f.m.scope.toNat,
    order := f.m.order.toNat, kind := .store, whole := whole }

/-- Element `i` of the data window of a lane; the whole window comes from one source lane (R58). -/
def stData (c : Ctx) (f : FmtM) (scl : Bool) (i lane : Nat) : Nat :=
  let r (j : Nat) : Nat := (c.regAt 1 scl f.sb (lsStep f * i + j) lane).toNat
  if lsStep f = 2 then r 0 + 2 ^ 32 * r 1 else r 0

def sigSt (h : Hdr) (f : FmtM) (c : Ctx) : Sig :=
  sigM c.w16 h f { useLs f true false with data := .win (lsRegs f) (lsStep f) true (lsSize f != 4) }

def execSt (h : Hdr) (f : FmtM) (s : State) : Host.Outcome State Fault Refusal :=
  issue h always (sigSt h f)
    (fun c s => storeExit c (stForm f false) ((c.lanes.map (lsAccs c f 0 (stData c f false))).flatten) s) s

/-! ## LDS and STS -/

def sigLds (h : Hdr) (f : FmtM) (c : Ctx) : Sig :=
  sigM c.w16 h f { useLs f false true with dst := .sca (lsRegs f) (lsStep f) 59, sb := true }

/-- A trap of an access made once names every active lane. -/
def Exit.wholeMask (c : Ctx) : Exit → Exit
  | .trap s t => .trap s { t with mask := laneMask c.lanes }
  | .trapAfter s t => .trapAfter s { t with mask := laneMask c.lanes }
  | e => e

/-- R239. -/
def execLds (h : Hdr) (f : FmtM) (s : State) : Host.Outcome State Fault Refusal :=
  issue h always (sigLds h f)
    (fun c s => (loadExit c (sigLds h f c) (ldForm f true)
      (((c.lanes.take 1).map (lsAccs c f h.dst.toNat (fun _ _ => 0))).flatten) s).wholeMask c) s

def sigSts (h : Hdr) (f : FmtM) (c : Ctx) : Sig :=
  let n := f.sb.reg.toNat
  let g := sigM c.w16 h f { useLs f true true with data := .field true }
  { g with
    legal := g.legal.map (fun p =>
      if p.1 = 49 then
        (49, f.sb.kind == 0 && f.sb.k == 0 && n % lsStep f == 0 && decide (n + lsRegs f ≤ 60))
      else p)
    srcs := Opnd.sca n (lsRegs f) :: g.srcs }

def execSts (h : Hdr) (f : FmtM) (s : State) : Host.Outcome State Fault Refusal :=
  issue h always (sigSts h f)
    (fun c s => (storeExit c (stForm f true)
      (((c.lanes.take 1).map (lsAccs c f 0 (stData c f true))).flatten) s).wholeMask c) s

/-! ## Atomics -/

/-- Operation and TYPE of R242. -/
def atomSubOk (ty sub space : Nat) : Bool :=
  (decide (sub < 4) || (decide (sub < 7) && decide (6 ≤ ty)) || (decide (sub < 9) && (ty == 7 || ty == 9)))
    && (space != 2 || sub == 0 || (sub == 1 && decide (6 ≤ ty)))

def atomTyOk (ty : Nat) : Bool := decide (ty < 2) || (decide (6 ≤ ty) && decide (ty < 10))

/-- The new value at the home (R242), for the formats of R261 as well: floats keep subnormals and raise no flag. -/
def atomicNew (ty sub old b : Nat) : Nat :=
  let w := codeWidth ty
  let float := decide (ty < 4)
  let signed := ty % 2 == 0
  let so := if signed then sext w old else old
  let sb := if signed then sext w b else b
  match sub with
  | 0 => b
  | 1 => if float then (roundRes ty 0 false (fAdd 0 (decodeFloat ty old) (decodeFloat ty b))).1 else (old + b) % 2 ^ w
  | 2 => if float then (fMinMax ty false false old b).1 else if so ≤ sb then old else b
  | 3 => if float then (fMinMax ty true false old b).1 else if sb ≤ so then old else b
  | 4 => old &&& b
  | 5 => old ||| b
  | 6 => old ^^^ b
  | 7 => if b ≤ old then 0 else old + 1
  | _ => if old = 0 ∨ b < old then b else old - 1

def useAtom (f : FmtM) (red : Bool) : UseM :=
  { data := .vec (pairCode f.m.ty.toNat), ty := atomTyOk f.m.ty.toNat, scope := scopeOk f.m,
    order := !red || f.m.order == 0 || f.m.order == 2, space := true,
    sub := atomSubOk f.m.ty.toNat f.m.sub.toNat f.m.space.toNat }

/-- The elements of an atomic: `data` and `cmp` for each lane. -/
def atomAccs (c : Ctx) (f : FmtM) (dst size : Nat) (data cmp : Nat → Nat) : List Acc :=
  c.lanes.map (fun l => { lane := l, va := c.addr f l, size := size, dst := dst, data := data l, cmp := cmp l })

def sigAtom (h : Hdr) (f : FmtM) (c : Ctx) : Sig :=
  sigM c.w16 h f { useAtom f false with dst := .reg (pairCode f.m.ty.toNat), sb := true }

def atomForm (f : FmtM) (size : Nat) (k : MKind) : StoreForm :=
  { space := f.m.space.toNat, align := size, scope := f.m.scope.toNat, order := f.m.order.toNat, kind := k }

def atomBody (h : Hdr) (f : FmtM) (ret : Bool) (sig : Ctx → Sig) (c : Ctx) (s : State) : Exit :=
  let ty := f.m.ty.toNat
  atomicExit c (sig c) (atomForm f (codeWidth ty / 8) (.atomic f.m.sub.toNat ty ret))
    (atomAccs c f h.dst.toNat (codeWidth ty / 8) (c.src 1 false f.sb (pairCode ty)) (fun _ => 0)) s

/-- R242. -/
def execAtom (h : Hdr) (f : FmtM) (s : State) : Host.Outcome State Fault Refusal :=
  issue h always (sigAtom h f) (atomBody h f true (sigAtom h f)) s

def sigRed (h : Hdr) (f : FmtM) (c : Ctx) : Sig := sigM c.w16 h f (useAtom f true)

def execRed (h : Hdr) (f : FmtM) (s : State) : Host.Outcome State Fault Refusal :=
  issue h always (sigRed h f) (atomBody h f false (sigRed h f)) s

/-- `n` registers of a lane's window from register `k` of it, in ascending order (R243). -/
def winWord (c : Ctx) (f : FmtM) (k n lane : Nat) : Nat :=
  (List.range n).foldl (fun a i => a + (c.regAt 1 false f.sb (k + i) lane).toNat * 2 ^ (32 * i)) 0

/-- CAS of `n` registers a value (R243). -/
def sigCas (h : Hdr) (f : FmtM) (n : Nat) (ty : Bool) (c : Ctx) : Sig :=
  sigM c.w16 h f
    { dst := if n = 4 then .vec 4 4 true else .reg (n == 2), data := .win (2 * n) (2 * n) true true, ty := ty, scope := scopeOk f.m,
      order := true, space := true, sub := f.m.sub == 0, sb := true }

def casBody (h : Hdr) (f : FmtM) (n : Nat) (ty : Bool) (c : Ctx) (s : State) : Exit :=
  atomicExit c (sigCas h f n ty c) (atomForm f (4 * n) .cas)
    (atomAccs c f h.dst.toNat (4 * n) (winWord c f n n) (winWord c f 0 n)) s

def casTyOk (f : FmtM) : Bool := decide (6 ≤ f.m.ty.toNat) && decide (f.m.ty.toNat < 10)

def execCas (h : Hdr) (f : FmtM) (s : State) : Host.Outcome State Fault Refusal :=
  issue h always (sigCas h f (lsStep f) (casTyOk f)) (casBody h f (lsStep f) (casTyOk f)) s

def execCas128 (h : Hdr) (f : FmtM) (s : State) : Host.Outcome State Fault Refusal :=
  issue h always (sigCas h f 4 (f.m.ty == 0)) (casBody h f 4 (f.m.ty == 0)) s

/-! ## Fences -/

def sigFence (h : Hdr) (f : FmtM) (c : Ctx) : Sig :=
  sigM c.w16 h f
    { useBase := false, ofs := false, ty := f.m.ty == 0, scope := scopeOk f.m, order := f.m.order == 0,
      space := f.m.space == 0, sub := f.m.sub == 0 }

/-- The gang blocks until FENCE_COMPLETE or FENCET_COMPLETE; dirty sectors leave now (R205, R219, R245). -/
def fenceBody (f : FmtM) (translations : Bool) (c : Ctx) (s : State) : Exit :=
  if c.lanes.isEmpty then .done s
  else .block (transmit s c.k (fun _ => true)) (.fence f.m.scope.toNat c.w.opSeq translations)

def execFence (h : Hdr) (f : FmtM) (s : State) : Host.Outcome State Fault Refusal :=
  issue h always (sigFence h f) (fenceBody f false) s

def execFencet (h : Hdr) (f : FmtM) (s : State) : Host.Outcome State Fault Refusal :=
  issue h always (sigFence h f) (fenceBody f true) s

def sigDrainst (h : Hdr) (f : FmtA) (c : Ctx) : Sig := sigA c.w16 h f (plainMod f.m)

/-- R246. -/
def execDrainst (h : Hdr) (f : FmtA) (s : State) : Host.Outcome State Fault Refusal :=
  issue h always (sigDrainst h f)
    (fun c s =>
      if c.lanes.isEmpty then .done s else .block (transmit s c.k (fun _ => true)) (.drainst c.w.opSeq)) s

/-! ## PRF and FLUSH -/

def sigPrf (h : Hdr) (f : FmtM) (c : Ctx) : Sig :=
  sigM c.w16 h f
    { ty := f.m.ty == 0, scope := f.m.scope == 0, order := f.m.order == 0, space := f.m.space != 1,
      sub := decide (f.m.sub.toNat < 2) }

/-- A prefetch is dropped, as it may always be (R240). -/
def execPrf (h : Hdr) (f : FmtM) (s : State) : Host.Outcome State Fault Refusal :=
  issue h always (sigPrf h f)
    (fun _ s => .done s) s

/-- One line leaves the caches of the core (R241). -/
def flushLine (c : Ctx) (code : Bool) (s : State) (t : Target) : State :=
  if code then s.updIcache c.core (fun l => l.filter (fun e => e.place.line != t.line))
  else
    let s := transmit s c.k (fun u => u.line == t.line)
    if c.core < 256 then s.updCore c.core (fun x => { x with l1 := x.l1.filter (fun l => l.line != t.line) }) else s

/-- R241. Its lanes are checked against the range locks as reads of the bytes that they address (R224, R236, log 44). -/
def flushBody (f : FmtM) (c : Ctx) (s : State) : Exit :=
  let space := f.m.space.toNat
  let who := c.who s
  let accs : List Acc := c.lanes.map (fun l => { lane := l, va := c.addr f l, size := 1 })
  match accessChecks s c false space 1 accs with
  | some t => .trap s t
  | none =>
    let r := placeAll s who .user space accs
    let s := hostSettle r.2 who .user space r.1
    if r.1.any (fun p => p.2 == .wait) then .stall s
    else
      let s := (goodElems r.1).foldl (fun a (p : Acc × Target × Nat) => flushLine c (f.m.sub == 1) a p.2.1) s
      match faultTrap Trap.loadFault r.1 with
      | some t => .trap s t
      | none => .done s

def sigFlush (h : Hdr) (f : FmtM) (c : Ctx) : Sig :=
  sigM c.w16 h f
    { ty := f.m.ty == 0, scope := f.m.scope == 0, order := f.m.order == 0,
      space := if f.m.sub = 1 then f.m.space == 0 else f.m.space != 1, sub := decide (f.m.sub.toNat < 2) }

def execFlush (h : Hdr) (f : FmtM) (s : State) : Host.Outcome State Fault Refusal :=
  issue h always (sigFlush h f)
    (flushBody f) s

end Sys2Proof.Machine
end

