-- ==== Sys2Proof/Machine/TBarrier.lean ====
section
/-! DEFINITION. Transaction barriers (08 R270, R271; in a section 02 R420). -/

namespace Sys2Proof.Machine

/-! ## The barrier word -/

/-- R270: after an update, both counts at 0 advance the phase. -/
def tbCheck (x : Nat) : Nat :=
  if field x 47 28 = 0 ∧ field x 95 64 = 0 then
    setField (setField x 3 0 (field x 3 0 + 1)) 47 28 (field x 27 8)
  else x

def tbInit (earr bsc bcl floor : Nat) : Nat :=
  tbCheck (bcl % 4 * 2 ^ 4 + bsc % 4 * 2 ^ 6 + earr % 2 ^ 20 * 2 ^ 8 + earr % 2 ^ 20 * 2 ^ 28 + floor % 2 ^ 16 * 2 ^ 48)

/-- An arrival that finds PARR = 0 is discarded. -/
def tbArrive (x : Nat) : Nat := if field x 47 28 = 0 then x else tbCheck (setField x 47 28 (field x 47 28 - 1))

def tbExpect (x n : Nat) : Nat := tbCheck (setField x 95 64 (field x 95 64 + n))

/-- `n` sectors have landed. -/
def tbLand (x n : Nat) : Nat := tbCheck (setField x 95 64 (field x 95 64 + 2 ^ 32 - n % 2 ^ 32))

/-- An update as it applies at the home; `data` is TBINIT's word or TBEXP's count. -/
def tbApply (op data old : Nat) : Nat :=
  match op with
  | 0 => data
  | 1 => tbArrive old
  | _ => tbExpect old data

/-- The scope code of BSC (R270). -/
def tbScope (x : Nat) : Nat :=
  match field x 7 6 with
  | 0 => 1
  | 1 => 2
  | 2 => 4
  | _ => 5

/-! ## The instructions -/

/-- MODM as the four instructions use it (R271). -/
def useTb (f : FmtM) (order : Nat) (scope sub data : Bool) : UseM :=
  { data := if data then .sca false else .unused, dataSca := data, ty := f.m.ty == 0, scope := scope,
    order := f.m.order.toNat == order, space := f.m.space == 0 || f.m.space == 1, perIssue := true, sub := sub }

/-- One update of a barrier leaves for its home. -/
def tbSend (c : Ctx) (f : FmtM) (scope op data va : Nat) (t : Target) (s : State) : Exit :=
  .done (mopOf s c { space := f.m.space.toNat, align := 16, scope := scope, order := f.m.order.toNat, kind := .barrier op } true
    [] none
    [{ lane := c.lanes.headD 0, va := va, size := 16, data := data, cmp := 0, old := 0, target := some t, lease := 7, dst := 0,
       phase := .sent, removal := .notNeeded }])

/-- BSC by scope code. -/
def bscOf (scope : Nat) : Nat := if scope = 1 then 0 else if scope = 2 then 1 else if scope = 4 then 2 else 3

def tbinitBody (f : FmtM) (c : Ctx) (s : State) : Exit :=
  if c.lanes.isEmpty then .done s
  else
    let a := c.addr f (c.lanes.headD 0)
    match oneAccess c .store f.m.space.toNat 16 a 16 s with
    | .ends e => e
    | .at_ t s =>
      let hw := f.m.sub.getLsbD 0
      let bcl := if hw then 3 else if c.w.section? then 2 else s.waveClass c.w
      let floor := ((s.waveTeam c.w).map (·.seq)).getD 0
      let x := tbInit (c.w.rdS f.sb.reg.toNat).toNat (bscOf f.m.scope.toNat) bcl floor
      tbSend c f f.m.scope.toNat 0 x a t s

def sigTbinit (h : Hdr) (f : FmtM) (c : Ctx) : Sig :=
  let sc := f.m.scope
  sigM c.w16 h f (useTb f 0 (sc == 1 || sc == 2 || sc == 4 || sc == 5) (decide (f.m.sub.toNat < 2)) true)

def execTbinit (h : Hdr) (f : FmtM) (s : State) : Host.Outcome State Fault Refusal :=
  issue h always (sigTbinit h f)
    (tbinitBody f) s

/-- TBARR and TBEXP read the barrier's scope, once the wave's own updates of it have applied. -/
def tbUpdateBody (f : FmtM) (op : Nat) (c : Ctx) (s : State) : Exit :=
  if c.lanes.isEmpty then .done s
  else
    let a := c.addr f (c.lanes.headD 0)
    match oneAccess c .store f.m.space.toNat 16 a 16 s with
    | .ends e => e
    | .at_ t s =>
      if ownPending s c.k t 16 then .stall s
      else
        match readOne c t 16 s with
        | .error e => .trap s e
        | .ok x =>
          releaseFirst s c (op == 1) (actScope f.m.space.toNat (tbScope x))
            (tbSend c f (tbScope x) op (if op = 2 then (c.w.rdS f.sb.reg.toNat).toNat else 0) a t s)

def sigTbarr (h : Hdr) (f : FmtM) (c : Ctx) : Sig := sigM c.w16 h f (useTb f 2 (f.m.scope == 0) (f.m.sub == 0) false)

def execTbarr (h : Hdr) (f : FmtM) (s : State) : Host.Outcome State Fault Refusal :=
  issue h always (sigTbarr h f) (tbUpdateBody f 1) s

def sigTbexp (h : Hdr) (f : FmtM) (c : Ctx) : Sig := sigM c.w16 h f (useTb f 0 (f.m.scope == 0) (f.m.sub == 0) true)

def execTbexp (h : Hdr) (f : FmtM) (s : State) : Host.Outcome State Fault Refusal :=
  issue h always (sigTbexp h f) (tbUpdateBody f 2) s

/-- The wait is judged at issue against BCL and FLOOR (R359), then lasts until PH [0] differs from SUB [0]. -/
def tbwaitBody (h : Hdr) (f : FmtM) (c : Ctx) (s : State) : Exit :=
  if c.lanes.isEmpty then .done s
  else
    let a := c.addr f (c.lanes.headD 0)
    let illegal (d : Nat) (s : State) : Exit :=
      .trap s { code := Trap.illegalWait, mask := laneMask c.live, addr := a, det1 := d }
    if c.w.section? then illegal 5 s
    else
      match oneAccess c .load f.m.space.toNat 16 a 16 s with
      | .ends e => e
      | .at_ t s =>
        if ownPending s c.k t 16 then .stall s
        else
          match readOne c t 16 s with
          | .error e => .trap s e
          | .ok x =>
            match judgeBarrier s c.w h.yld (field x 5 4) (field x 63 48) with
            | some d => illegal d s
            | none => if x.testBit 0 != f.m.sub.getLsbD 0 then .done s else .block s (.tbwait t (f.m.sub.getLsbD 0) a)

def sigTbwait (h : Hdr) (f : FmtM) (c : Ctx) : Sig :=
  sigM c.w16 h f (useTb f 1 (f.m.scope == 0) (decide (f.m.sub.toNat < 2)) false)

def execTbwait (h : Hdr) (f : FmtM) (s : State) : Host.Outcome State Fault Refusal :=
  issue h always (sigTbwait h f) (tbwaitBody h f) s

end Sys2Proof.Machine
end

