-- ==== Sys2Proof/Machine/Copy.lean ====
section
/-! DEFINITION. The copy engine (08 R261-R269): COPY, BATCH, WAITB, CHAIN, CHSTAT and the channel's own steps. -/

namespace Sys2Proof.Machine

/-! ## Transfers -/

/-- Formats that a reduction accepts (R261). -/
def reduceFmt (ty : Nat) : Bool := decide (ty < 4) || (decide (6 ≤ ty) && decide (ty < 14))

/-- The operation of a reduction, as R242 numbers it: 1 add, 2 max, 3 min. -/
def reduceOp (ty op old x : Nat) : Nat := atomicNew ty (if op = 1 then 1 else if op = 2 then 3 else 2) old x

def XferDesc.total (d : XferDesc) : Nat := d.xb * d.yn * d.zn

/-- Bytes of one element; 1 for a copy. -/
def XferDesc.elem (d : XferDesc) : Nat := if d.op = 0 then 1 else codeWidth d.fmt / 8

/-- Address of byte `j` of the stream, rows in order (R265). -/
def streamAddr (base : Nat) (d : XferDesc) (ys zs : Int) (space j : Nat) : Nat :=
  let row := j / d.xb
  wrapBits (if space = 1 then 32 else 64) ((base : Int) + (row % d.yn : Nat) * ys + (row / d.yn : Nat) * zs + (j % d.xb : Nat))

def XferDesc.srcAt (d : XferDesc) (j : Nat) : Nat := streamAddr d.src d d.sys d.szs d.sspc j

def XferDesc.dstAt (d : XferDesc) (j : Nat) : Nat := streamAddr d.dst d d.dys d.dzs d.dspc j

/-- Lowest and highest first byte of the rows (R223). -/
def rowSpan (base : Nat) (d : XferDesc) (ys zs : Int) : Int × Int :=
  let y := ((d.yn : Int) - 1) * ys
  let z := ((d.zn : Int) - 1) * zs
  ((base : Int) + min 0 y + min 0 z, (base : Int) + max 0 y + max 0 z)

def spanRange (space base : Nat) (d : XferDesc) (ys zs : Int) (write : Bool) : Range :=
  let p := rowSpan base d ys zs
  { space := space, lo := p.1.toNat, hi := p.2.toNat + d.xb, write := write }

/-- Locks of a transfer (R222). -/
def XferDesc.ranges (d : XferDesc) : List Range :=
  if d.total = 0 then [] else [spanRange d.sspc d.src d d.sys d.szs false, spanRange d.dspc d.dst d d.dys d.dzs true]

/-- Pieces of 32 bytes, or, of a reduction, 4 KiB chunks of the destination (R266, R267). -/
def XferDesc.pieces (d : XferDesc) : List Nat :=
  if d.op = 0 then List.range ((d.total + 31) / 32)
  else (((List.range (d.total / d.elem)).map (fun i => d.dstAt (i * d.elem) / 4096)).foldl
    (fun l c => if l.contains c then l else l ++ [c]) [])

/-- Stream bytes of a piece. -/
def XferDesc.bytesOf (d : XferDesc) (p : Nat) : List Nat :=
  if d.op = 0 then (List.range 32).filterMap (fun i => if 32 * p + i < d.total then some (32 * p + i) else none)
  else
    ((List.range (d.total / d.elem)).filter (fun i => d.dstAt (i * d.elem) / 4096 == p)).flatMap (fun i =>
      (List.range d.elem).map (fun b => i * d.elem + b))

/-! ## COPY -/

def copyDesc (f : FmtX) (c : Ctx) : XferDesc :=
  let dsp := f.m.tile.toNat / 4
  let ssp := f.m.tile.toNat % 4
  { op := f.m.sub3.toNat, fmt := f.m.ty.toNat, src := c.src 1 true f.sb (ssp != 1) 0, dst := c.src 0 true f.sa (dsp != 1) 0,
    sspc := ssp, dspc := dsp, xb := c.src 2 true f.sc false 0, yn := 1, zn := 1, sys := 0, szs := 0, dys := 0, dzs := 0, sg := 4,
    cb := 0, next := 0, own := false, reserved := false }

def State.chan (s : State) (core n : Nat) : Channel := (s.core core).chans.getD n Channel.reset

def State.updChan (s : State) (core n : Nat) (f : Channel → Channel) : State :=
  s.updCore core (fun x => { x with chans := x.chans.modify n f })

def newXfer (s : State) (c : Ctx) (d : XferDesc) : Xfer :=
  { id := s.nextId, w := c.k, gid := c.w.grid, team := c.w.team, ctx := c.w.ctx, pc := c.pc, seq := c.w.opSeq, recAddr := 0,
    desc := d, landed := [], counted := 0, fault := none, reread := false }

/-- R261. The transfer waits at issue while its locks find no room (R223). -/
def copyBody (f : FmtX) (c : Ctx) (s : State) : Exit :=
  if c.lanes.isEmpty then .done s
  else
    let d := copyDesc f c
    let e := d.elem
    if d.xb % e ≠ 0 ∨ d.dst % e ≠ 0 ∨ d.src % e ≠ 0 then
      .trap s { code := Trap.alignment, mask := laneMask c.lanes, addr := if d.dst % e ≠ 0 then d.dst else d.src }
    else
      match addLocks s c.core c.w.ctx c.w.grid c.w.team s.nextId 0x123 d.ranges with
      | none => .stall s
      | some s1 =>
        let x := newXfer s c d
        .done (({ s1 with nextId := s.nextId + 1 }.updChan c.core (f.m.aux.toNat % 4) (fun ch =>
          { ch with xfers := ch.xfers ++ [x] })).updWave c.k (fun w =>
            { w with opSeq := w.opSeq + 1, batchOpen := w.batchOpen ++ [x.id] }))

def sigCopy (h : Hdr) (f : FmtX) (c : Ctx) : Sig :=
  let op := f.m.sub3.toNat
  let u (space : Nat) : SrcUse := .sca (space != 1)
  let g := sigX c.w16 h f
    { a := u (f.m.tile.toNat / 4), b := u (f.m.tile.toNat % 4), c := .sca false,
      ty := if op = 0 then f.m.ty == 0 else reduceFmt f.m.ty.toNat, tile := true, aux := decide (f.m.aux.toNat < 4),
      sub3 := decide (op < 4) }
  -- SCL must be 7: a clear bit is an illegal SCL field, not an illegal source
  { g with
    legal := g.legal.map (fun p =>
      if p.1 = 8 then (8, f.m.sa && f.m.sb && f.m.sc)
      else if p.1 = 65 then (65, scaOk (f.m.tile.toNat / 4 != 1) f.sa)
      else if p.1 = 49 then (49, scaOk (f.m.tile.toNat % 4 != 1) f.sb)
      else if p.1 = 33 then (33, scaOk false f.sc) else p) }

def execCopy (h : Hdr) (f : FmtX) (s : State) : Host.Outcome State Fault Refusal :=
  issue h notInSection (sigCopy h f) (copyBody f) s

/-! ## BATCH and WAITB -/

/-- R262. -/
def batchBody (h : Hdr) (c : Ctx) (s : State) : Exit :=
  if c.lanes.isEmpty then .done s
  else if 2 ^ 15 ≤ c.w.batches.length then .stall s
  else
    .done (s.updWave c.k (fun w =>
      { w.wrAll (dstWr true h.dst false 0 w.batchSeq.toNat) with
        batchSeq := w.batchSeq + 1, batchOpen := []
        batches := if w.batchOpen.isEmpty then w.batches else w.batches ++ [(w.batchSeq, w.batchOpen)] }))

def sigBatch (h : Hdr) (f : FmtA) (c : Ctx) : Sig := sigA c.w16 h f { plainMod f.m with dst := .reg false, ds := .one }

def execBatch (h : Hdr) (f : FmtA) (s : State) : Host.Outcome State Fault Refusal :=
  issue h notInSection (sigBatch h f) (batchBody h) s

def sigWaitb (h : Hdr) (f : FmtI) (c : Ctx) : Sig :=
  sigI c.w16 h f { plainMod f.m with a := if f.m.sa then .sca false else .unused }
    [(49, if f.m.sa then f.imm == 0 else decide (f.imm.toNat < 2 ^ 16))]

def execWaitb (h : Hdr) (f : FmtI) (s : State) : Host.Outcome State Fault Refusal :=
  issue h notInSection (sigWaitb h f)
    (fun c s =>
      if c.lanes.isEmpty then .done s
      else .block s (.waitb (if f.m.sa then (c.w.rdS f.sa.reg.toNat).toNat % 2 ^ 16 else f.imm.toNat % 2 ^ 16))) s

/-! ## CHAIN and CHSTAT -/

/-- R264: an idle channel starts the chain, a busy one queues up to four. -/
def chainBody (f : FmtX) (c : Ctx) (s : State) : Exit :=
  let head := c.src 0 true f.sa true 0
  let n := f.m.aux.toNat % 4
  let ch := s.chan c.core n
  let x : ChainHead :=
    { addr := head, w := c.k, gid := c.w.grid, team := c.w.team, ctx := c.w.ctx, pc := c.pc, seq := c.w.opSeq }
  let bump (s : State) : State := s.updWave c.k (fun w => { w with opSeq := w.opSeq + 1 })
  if c.lanes.isEmpty then .done s
  else if head % 64 ≠ 0 then .trap s { code := Trap.alignment, mask := laneMask c.lanes, addr := head }
  else if ch.err then .trap s { code := Trap.copyFault, det1 := ch.code.toNat, det2 := n }
  else if head = 0 then .done s
  else if ch.walking.isNone && ch.heads.isEmpty then
    .done (bump (s.updChan c.core n (fun ch => { ch with walking := some x })))
  else if 4 ≤ ch.heads.length then .stall s
  else .done (bump (s.updChan c.core n (fun ch => { ch with heads := ch.heads ++ [x] })))

def sigChain (h : Hdr) (f : FmtX) (c : Ctx) : Sig :=
  sigX c.w16 h f
    { a := .sca true, ty := f.m.ty == 0, tile := f.m.tile == 0, aux := decide (f.m.aux.toNat < 4), sub3 := f.m.sub3 == 0 }

def execChain (h : Hdr) (f : FmtX) (s : State) : Host.Outcome State Fault Refusal :=
  issue h notInSection (sigChain h f)
    (chainBody f) s

/-- R269: a transfer is under way, of COPY too, or a chain is being read (log 135). -/
def Channel.busy (ch : Channel) : Bool := ch.walking.isSome || !ch.xfers.isEmpty

/-- R269. -/
def chstatWord (ch : Channel) : Nat :=
  (if ch.busy then 1 else 0) + (if ch.err then 2 else 0) + 4 * (ch.heads.length % 8) + 32 * ch.code.toNat
    + 2 ^ 16 * ch.done.toNat

/-- R269; a channel in error is cleared only for the team whose record stopped it (R268). -/
def chstatBody (h : Hdr) (f : FmtA) (c : Ctx) (s : State) : Exit :=
  let n := f.m.sub.toNat % 4
  if c.lanes.isEmpty then .done s
  else
    let x := chstatWord (s.chan c.core n)
    let s := s.updWave c.k (fun w => w.wrAll (dstWr true h.dst false 0 x))
    let ours := ((s.chan c.core n).errTeam.all (fun t => t == (c.w.grid, c.w.team)))
    .done (if f.m.sub.getLsbD 2 && ours then s.updChan c.core n (fun ch => { ch with err := false, errTeam := none, code := 0 }) else s)

def sigChstat (h : Hdr) (f : FmtA) (c : Ctx) : Sig :=
  sigA c.w16 h f { plainMod f.m with dst := .reg false, ds := .one, sub := decide (f.m.sub.toNat < 8) }

def execChstat (h : Hdr) (f : FmtA) (s : State) : Host.Outcome State Fault Refusal :=
  issue h notInSection (sigChstat h f)
    (chstatBody h f) s

/-! ## A channel's steps -/

/-- A channel goes on: no error, no abandoned operation (R268, R382). -/
def Channel.running (ch : Channel) : Bool := !ch.err && ch.recFault.isNone && ch.xfers.all (fun x => x.fault.isNone)

/-- The record of 512 bits (R265). -/
def recordOf (x : Nat) : XferDesc :=
  let dspc := field x 93 92
  let sspc := field x 89 88
  { op := field x 67 65, fmt := field x 76 72, src := field x 383 320 % (if sspc = 1 then 2 ^ 32 else 2 ^ 64),
    dst := field x 447 384 % (if dspc = 1 then 2 ^ 32 else 2 ^ 64), sspc := sspc, dspc := dspc, xb := field x 127 96,
    yn := field x 159 128, zn := field x 191 160, sys := sext 32 (field x 223 192), szs := sext 32 (field x 255 224),
    dys := sext 32 (field x 287 256), dzs := sext 32 (field x 319 288), sg := field x 83 80, cb := field x 511 448, next := field x 63 0,
    own := x.testBit 64,
    reserved := field x 71 68 != 0 || field x 79 77 != 0 || field x 87 84 != 0 || field x 91 90 != 0 || field x 95 94 != 0 }

/-- Malformed by R265. -/
def XferDesc.bad (d : XferDesc) : Bool :=
  let e := d.elem
  d.reserved || decide (3 < d.op) || d.xb == 0 || d.yn == 0 || d.zn == 0
    || !(if d.op = 0 then d.fmt == 0 else reduceFmt d.fmt) || (d.cb != 0 && d.total % 32 != 0)
    || (d.op != 0 && (d.src % e != 0 || d.dst % e != 0 || d.xb % e != 0 || d.sys % e != 0 || d.szs % e != 0 || d.dys % e != 0
        || d.dzs % e != 0))

/-- Space and address of a completion barrier (R265, R275). -/
def cbSpace (cb : Nat) : Nat := cb / 2 ^ 62

def cbAddr (cb : Nat) : Nat := cb % 2 ^ 62

/-- R265: a barrier of a space 2 or 3, off its alignment, or outside the issuing team's window. -/
def cbBad (s : State) (gid team cb : Nat) : Bool :=
  cb != 0 && (decide (1 < cbSpace cb) || cbAddr cb % 16 != 0
    || (cbSpace cb == 1 && match s.team? gid team with | some t => decide (t.scomb < cbAddr cb + 16) | none => true))

/-- The channel stops with ERR set, and the fault is told (R266, R267). -/
def channelStop (s : State) (core n : Nat) (h : ChainHead) (code : Nat) : State :=
  let s := s.updChan core n (fun ch => { ch with err := true, errTeam := some (h.gid, h.team), code := BitVec.ofNat 3 code, walking := none })
  copyFault s core h.w h.ctx h.gid h.team h.pc code n

def nextHead (ch : Channel) : Channel :=
  match ch.walking, ch.heads with
  | none, h :: t => { ch with walking := some h, heads := t }
  | _, _ => ch

/-- A record that has been read joins the channel, with its locks. -/
def joinRecord (s : State) (core n : Nat) (h : ChainHead) (d : XferDesc) : State :=
  match addLocks s core h.ctx h.gid h.team s.nextId 0x126 d.ranges with
  | none => s
  | some s1 =>
    let x : Xfer :=
      { id := s.nextId, w := h.w, gid := h.gid, team := h.team, ctx := h.ctx, pc := h.pc, seq := h.seq, recAddr := h.addr,
        desc := d, landed := [], counted := 0, fault := none, reread := false }
    { s1 with nextId := s.nextId + 1 }.updChan core n (fun ch =>
      nextHead { ch with xfers := ch.xfers ++ [x], walking := if d.next = 0 then none else some { h with addr := d.next } })

/-- R266: one record is read and judged. -/
def readRecord (s : State) (core n : Nat) (h : ChainHead) : State :=
  let who := whoFor s core h.ctx h.gid h.team
  if h.addr % 64 ≠ 0 then channelStop s core n h 1
  else
    match reach s who .load 0 ((List.range 64).map (h.addr + ·)) with
    | (.wait, s) => s
    | (.fault va c, s) =>
      engineFault (s.updChan core n (fun ch => { ch with recFault := some (false, va, c) })) core h.w h.ctx h.gid h.team h.pc
        false h.addr c n 0
    | (.secure, s) => channelStop s core n h 2
    | (.poisoned, s) => channelStop s core n h 3
    | (.ok l, s) =>
      let d := recordOf (bytesToNat (l.map s.byteAt))
      if !d.own then s.updChan core n (fun ch => nextHead { ch with walking := none })
      else if d.bad then channelStop s core n h 1
      else if cbBad s h.gid h.team d.cb then channelStop s core n h 4
      else joinRecord s core n h d

/-- The team is pre-empted, or its waves are asked to stop: its records go no further than their granules (R267, R367). -/
def State.stops (s : State) (gid team : Nat) : Bool :=
  match s.team? gid team with
  | some t =>
    match t.res with
    | .preempted _ => true
    | .resident => s.waves.any (fun w => !w.section? && w.grid == gid && w.team == team && !w.quads.all (·.ended) && w.preempt != .none)
    | _ => false
  | none => false

def State.xfer? (s : State) (core ch id : Nat) : Option Xfer := (s.chan core ch).xfers.find? (fun x => x.id == id)

def State.updXfer (s : State) (core ch id : Nat) (f : Xfer → Xfer) : State :=
  s.updChan core ch (fun c => { c with xfers := c.xfers.map (fun x => if x.id = id then f x else x) })

/-- The operation waits abandoned (R381, R382). -/
def abandon (s : State) (core ch : Nat) (x : Xfer) (store : Bool) (va cause : Nat) : State :=
  engineFault (s.updXfer core ch x.id (fun x => { x with fault := some (store, va, cause) })) core x.w x.ctx x.gid x.team x.pc
    store va cause ch 0

/-- The operation ends in error: its locks go, its completion is not signalled (R383). -/
def failXfer (s : State) (core ch : Nat) (x : Xfer) (code : Nat) : State :=
  let s := (dropLocks s core x.id).updChan core ch (fun c =>
    { c with
      err := true, errTeam := some (x.gid, x.team), code := BitVec.ofNat 3 code, xfers := c.xfers.filter (fun y => y.id != x.id) })
  copyFault s core x.w x.ctx x.gid x.team x.pc code ch

/-- The locks of a record that was read again, when it asks for others (R222). -/
def relockXfer (s : State) (core : Nat) (x : Xfer) (d : XferDesc) : Option State :=
  if d = x.desc then some s else addLocks (dropLocks s core x.id) core x.ctx x.gid x.team x.id 0x126 d.ranges

/-- RETRY after a fault of the write-back of OWN: the record is read again from its start, and performed again; committed chunks of a
reduction stay committed (R266, R267). -/
def rereadRecord (s : State) (core ch : Nat) (x : Xfer) : State :=
  match reach s (whoFor s core x.ctx x.gid x.team) .load 0 ((List.range 64).map (x.recAddr + ·)) with
  | (.wait, s) => s
  | (.fault _ c, s) => abandon s core ch x false x.recAddr c
  | (.secure, s) => failXfer s core ch x 2
  | (.poisoned, s) => failXfer s core ch x 3
  | (.ok l, s) =>
    let d := recordOf (bytesToNat (l.map s.byteAt))
    if !d.own then
      (dropLocks s core x.id).updChan core ch (fun c => { c with xfers := c.xfers.filter (fun y => y.id != x.id) })
    else if d.bad then failXfer s core ch x 1
    else if cbBad s x.gid x.team d.cb then failXfer s core ch x 4
    else
      match relockXfer s core x d with
      | none => s
      | some s => s.updXfer core ch x.id (fun x =>
          { x with desc := d, reread := false, landed := if x.desc.op = 0 ∨ d ≠ x.desc then [] else x.landed })

/-- The next step of a channel's walk may be made for a team's record. -/
def walkMay (s : State) (core : Nat) (c : Channel) (k : WaveKey) (gid team ctx seq : Nat) : Bool :=
  c.running && !s.ctxHeld core ctx && !s.stops gid team && engineSettled s k seq && decide ((s.core core).locks.length ≤ 62)

def execChainRecordRead (core ch : Nat) (s : State) : Host.Outcome State Fault Refusal :=
  let c := s.chan core ch
  match c.xfers.find? (·.reread) with
  | some x => .next (if walkMay s core c x.w x.gid x.team x.ctx x.seq then rereadRecord s core ch x else s)
  | none =>
    match c.walking with
    | none => .next (if c.running then s.updChan core ch nextHead else s)
    | some h => .next (if walkMay s core c h.w h.gid h.team h.ctx h.seq then readRecord s core ch h else s)

/-- Sectors of the stream that have landed, the last one kept back for the completion (R266). -/
def sectorsLanded (d : XferDesc) (landed : List Nat) : Nat :=
  min ((landed.map (fun p => (d.bytesOf p).length)).sum / 32) (d.total / 32 - 1)

/-- What a barrier update of an operation comes to. -/
inductive Signal where
  | done (s : State)
  | wait (s : State)
  | fault (va cause : Nat)
  | stop (code : Nat)
  deriving Repr

/-- PSEC falls by `n` (R271); the update reads the barrier, and meets its poison (R392). -/
def signalBarrier (s : State) (who : Who) (cb n : Nat) : Signal :=
  if cb = 0 ∨ n = 0 then .done s
  else
    match reach s who .store (cbSpace cb) ((List.range 16).map (cbAddr cb + ·)) with
    | (.ok l, s) =>
      match l with
      | t :: _ =>
        if s.poisonedAt t then .stop 3
        else if s.writable t 16 && !walkerBusy s who.ctx then .done ((s.writeAt t 16 (tbLand (s.readAt t 16) n)).posted who.core who.ctx t 16)
        else .wait (contestAll s t 16)
      | [] => .done s
    | (.fault va c, _) => .fault va c
    | (.secure, _) => .stop 2
    | (.poisoned, _) => .stop 3
    | (.wait, s) => .wait s

/-- The split granule of the destination that a piece lies in (R265). -/
def XferDesc.granule (d : XferDesc) (p : Nat) : Nat := (if d.op = 0 then p / 128 else p) / 2 ^ d.sg

/-- The units of 64 bytes that a transfer completes with a piece (R355, log 86). -/
def Xfer.unitsOf (x : Xfer) (p : Nat) : Nat :=
  let n := (x.landed.map (fun p => (x.desc.bytesOf p).length)).sum
  (n + (x.desc.bytesOf p).length) / 64 - n / 64

/-- A piece moves: reads, then writes, then its sectors count in the barrier. -/
def landPiece (s : State) (core ch : Nat) (x : Xfer) (p : Nat) : State :=
  let d := x.desc
  let who := whoFor s core x.ctx x.gid x.team
  let js := d.bytesOf p
  match reach s who .load d.sspc (js.map d.srcAt) with
  | (.wait, s) => s
  | (.fault va c, s) => abandon s core ch x false va c
  | (.secure, s) => failXfer s core ch x 2
  | (.poisoned, s) => failXfer s core ch x 3
  | (.ok src, s1) =>
    match reach s1 who .store d.dspc (js.map d.dstAt) with
    | (.wait, s2) => s2
    | (.fault va c, s2) => abandon s2 core ch x true va c
    | (.secure, s2) => failXfer s2 core ch x 2
    | (.poisoned, s2) => failXfer s2 core ch x 3
    | (.ok dst, s2) =>
      if !writableAll s2 x.ctx dst then s2
      else if d.op ≠ 0 ∧ dst.any s2.poisonedAt then failXfer s2 core ch x 3
      else
        let new := src.map s2.byteAt
        let bytes : List Byte :=
          if d.op = 0 then new
          else
            let e := d.elem
            ((List.range (js.length / e)).map (fun i =>
              natToBytes e (reduceOp d.fmt d.op (bytesToNat ((dst.map s2.byteAt).drop (i * e) |>.take e))
                (bytesToNat ((new.drop (i * e)).take e))))).flatten
        let landed := x.landed ++ [p]
        let count := sectorsLanded d landed
        match signalBarrier s2 who d.cb (count - x.counted) with
        | .wait s3 => s3
        | .fault va c => abandon s2 core ch x true va c
        | .stop code => failXfer s2 core ch x code
        | .done s3 =>
          ((writePlaces s3 core x.ctx (dst.zip bytes)).updXfer core ch x.id (fun x =>
            { x with landed := landed, counted := max x.counted count })).chargeAct 1 core ch (x.unitsOf p)

/-- Every granule of which a piece has landed has landed whole. -/
def Xfer.betweenGranules (x : Xfer) : Bool :=
  let begun := x.landed.map x.desc.granule
  x.desc.pieces.all (fun p => x.landed.contains p || !begun.contains (x.desc.granule p))

/-- A held context's transfer does not begin, and a held channel, or one of a team that is pre-empted, begins no new granule (R356,
R267). -/
def Xfer.mayMove (x : Xfer) (s : State) (core ch p : Nat) : Bool :=
  !x.reread && (!x.landed.isEmpty || !s.ctxHeld core x.ctx)
    && (!(s.actHeld 1 core ch || s.stops x.gid x.team) || (x.landed.map x.desc.granule).contains (x.desc.granule p))

def execCopySectorLand (core ch id sector : Nat) (s : State) : Host.Outcome State Fault Refusal :=
  match s.xfer? core ch id with
  | none => .next s
  | some x =>
    if (s.chan core ch).running && x.desc.op == 0 && decide (32 * sector < x.desc.total) && !x.landed.contains sector
      && x.mayMove s core ch sector && engineSettled s x.w x.seq then .next (landPiece s core ch x sector)
    else .next s

/-- R267: one 4 KiB chunk of a reduction is committed and marked. -/
def execReductionChunkCommit (core ch id chunk : Nat) (s : State) : Host.Outcome State Fault Refusal :=
  match s.xfer? core ch id with
  | none => .next s
  | some x =>
    if (s.chan core ch).running && x.desc.op != 0 && x.desc.pieces.contains chunk && !x.landed.contains chunk
      && x.mayMove s core ch chunk && engineSettled s x.w x.seq then .next (landPiece s core ch x chunk)
    else .next s

/-- Every piece is in place. -/
def Xfer.landedAll (x : Xfer) : Bool := x.desc.pieces.all (fun p => x.landed.contains p)

/-- A batch that loses its last transfer is complete (R262). -/
def Wave.endXfer (w : Wave) (id : Nat) : Wave :=
  { w with
    batchOpen := w.batchOpen.filter (· != id)
    batches := (w.batches.map (fun (b : BitVec 16 × List Nat) => (b.1, b.2.filter (· != id)))).filter (fun b => !b.2.isEmpty) }.progress

/-- The end of a transfer: locks released, last sector counted, OWN cleared (R266). DONE counts chain records alone (R269, log 135). -/
def completeXfer (s : State) (core ch : Nat) (x : Xfer) : State :=
  let who := whoFor s core x.ctx x.gid x.team
  let own := x.recAddr != 0
  match reach s who .store 0 (if own then [x.recAddr + 8] else []) with
  | (.wait, s1) => s1
  | (.fault _ c, s1) => abandon s1 core ch x true x.recAddr c
  | (.secure, s1) => failXfer s1 core ch x 2
  | (.poisoned, s1) => failXfer s1 core ch x 3
  | (.ok l, s1) =>
    if !writableAll s1 x.ctx l then s1
    else
      match signalBarrier s1 who x.desc.cb (x.desc.total / 32 - x.counted) with
      | .wait s2 => s2
      | .fault va c => abandon s1 core ch x true va c
      | .stop code => failXfer s1 core ch x code
      | .done s2 =>
        let s3 := l.foldl (fun s t => (s.setByte t (s.byteAt t &&& 0xFE#8)).posted core x.ctx t 1) (dropLocks s2 core x.id)
        (s3.updChan core ch (fun c =>
          { c with xfers := c.xfers.filter (fun y => y.id != x.id), done := if own then c.done + 1 else c.done })).updWave x.w
          (fun w => w.endXfer x.id)

/-- Records of a channel complete in list order (R266). -/
def execCopyRecordComplete (core ch id : Nat) (s : State) : Host.Outcome State Fault Refusal :=
  match s.xfer? core ch id with
  | none => .next s
  | some x =>
    let first := ((s.chan core ch).xfers.find? (fun y => y.recAddr != 0)).map (·.id)
    if (s.chan core ch).running && x.landedAll && !x.reread && (x.recAddr == 0 || first == some x.id) && engineSettled s x.w x.seq then
      .next (completeXfer s core ch x)
    else .next s

end Sys2Proof.Machine
end

