-- ==== Sys2Proof/Machine/MemEvents.lean ====
section
/-! DEFINITION. Memory operations after their issue (07 R205-R232, 13 R379): the loads that return, the stores and atomics on
their way to the home, the fences, and the other results that a wave waits for. -/

namespace Sys2Proof.Machine

/-! ## Waits and results -/

/-- R111. A result for a port leaves as a push (R49). -/
def execScoreboardWriteback (w : WaveKey) (n : Nat) (s : State) : Host.Outcome State Fault Refusal :=
  match s.anyWave? w with
  | none => .next s
  | some x =>
    match x.pend[n]? with
    | none => .next s
    | some p =>
      let s1 := s.updWave w (fun v =>
        ((({ v with pend := v.pend.eraseIdx n }).wrAll p.writes).orFlags p.flags).amaxAll p.amax)
      match p.push, s1.anyWave? w with
      | some (q, l), some v => .next (sendPush s1 v 0 q l)
      | _, _ => .next s1

/-- The gang's wait, if the wave may go on. -/
def gangWait (s : State) (k : WaveKey) (q : Nat) : Option (Wave × Wait) :=
  match s.wave? k with
  | none => none
  | some w => if w.sched = .trapped then none else (w.gangOf q).map (fun g => (w, g.wait))

/-- R49: enough elements or room; the instruction issues again and takes them. -/
def execQueueWaitWake (w : WaveKey) (q : Nat) (s : State) : Host.Outcome State Fault Refusal :=
  match gangWait s w q with
  | some (_, .queue push r n _) =>
    let ready := match readQueue s r with
      | some h => if push then decide (n ≤ roomOf s r h) else decide (n ≤ h.count)
      | none => true
    if ready then .next (s.updWave w (fun v => (v.updGang q (fun g => { g with wait := .none, yielding := false })).progress.unblock))
    else .next s
  | _ => .next s

/-- R143. -/
def execSleepWake (w : WaveKey) (q : Nat) (s : State) : Host.Outcome State Fault Refusal :=
  match gangWait s w q with
  | some (_, .sleep t) => if t ≤ s.gtb then .next (s.updWave w (fun v => v.completeWait q)) else .next s
  | _ => .next s

/-! ## What orders a wave's accesses -/

/-- The wave's store operations before number `seq`. -/
def earlierMops (s : State) (k : WaveKey) (seq : Nat) : List MOp := s.mops.filter (fun o => o.w == k && decide (o.seq < seq))

/-- A row of ACCST whose command has not run covers some of `n` bytes from an address of its space (R315). -/
def Cmd.covers (k : Cmd) (t : Target) (va n : Nat) : Bool :=
  match k.kind with
  | .accst ty _ comb _ rows _ _ =>
    t.inSpace (if comb then 1 else 0) && rows.any (fun r => decide (r.2 < va + n) && decide (va < r.2 + 8 * codeWidth ty.toNat))
  | _ => false

/-- An earlier ACCST of the wave is still to store to the bytes: the access comes after it (R216, R218, R315). -/
def accstAhead (s : State) (k : WaveKey) (seq : Nat) (t : Target) (va n : Nat) : Bool :=
  s.engCmds.any (fun c => c.w == k && decide (c.seq < seq) && c.covers t va n)

/-- An earlier store of the wave to the line has faulted and is kept: a later one to the line comes after it (R212, R227). -/
def keptAhead (s : State) (k : WaveKey) (seq : Nat) (t : Target) (line : Nat) : Bool :=
  (s.core k.core).retry.any (fun r =>
    r.valid && r.w == k && decide (r.opInfo.seq < seq) && t.inSpace r.opInfo.space
      && r.elems.any (fun e => decide (e.va < line + 128) && decide (line < e.va + e.size)))

/-- A line that is being written back from a way that leaves the L1 of this core (R42). -/
def leavingWay (s : State) (core : Nat) (t : Target) : Bool :=
  decide (core < 256) && (s.core core).changes.any (fun x => wayBusy s core x.bank (fun u => u.line == t.line))

/-- The bank of a scratchpad place is still being filled (R42). -/
def bankBusy (s : State) (t : Target) : Bool :=
  let busy (c o : Nat) : Bool := (s.core c).changes.any (fun x => x.bank == o / 0x8000)
  match t with
  | .comb c o => busy c o
  | .rawComb c o => busy c o
  | _ => false

/-! ## Leases -/

/-- The banks of a core that are ways of its L1 (R40). -/
def wayBanks (s : State) (core : Nat) : List Nat :=
  (List.range 64).filter (fun b => s.bankMode core b == 3 && !(s.core core).changes.any (fun x => x.bank == b))

/-- A store to the line has arrived and not applied (R213). -/
def linePending (s : State) (t : Target) : Bool := s.linePending t.line

/-- Whether a host line may be held by the device (R232, R403). -/
def hostCacheable (s : State) (part : Nat) (t : Target) : Bool :=
  match regionAt s part t with
  | some (n, st) => st != 1 && movingTo s part n != some 1
  | none => false

/-- Whether the home grants a lease for this load (R208, R211, R213). -/
def mayLease (s : State) (o : LOp) (e : LElem) : Bool :=
  decide (o.w.core < 256) && !(wayBanks s o.w.core).isEmpty && o.hint != 1 && !linePending s e.target
    && match e.target with
      | .dev _ => e.lease != 7
      | .peer _ _ => e.lease != 7 && s.fabricLive
      | .host _ _ => hostCacheable s (s.partOf o.w.core) e.target
      | _ => false

/-- R210: the home keeps the larger expiry. -/
def recordLease (s : State) (t : Target) (expiry : Nat) : State :=
  let k := t.leaseKey
  match t with
  | .peer _ _ => { s with eFab := SMap.set 0 s.eFab k (max (SMap.get 0 s.eFab k) expiry) }
  | _ => { s with eDev := SMap.set 0 s.eDev k (max (SMap.get 0 s.eDev k) expiry) }

/-- When the replica of a place in a die's LLC expires. -/
def State.replicaOf (s : State) (core : Nat) (t : Target) : Nat := SMap.get 0 s.replicas (4 * t.leaseKey + dieOf core)

/-- A gather reads a hot row at its die's replica, which the home leases for 64 ns when none is held, its page allows leases, the line is
not pending, and for a peer's line the time base is known (R208, R211, R213, R274). -/
def State.replicate (s : State) (core : Nat) (t : Target) (lease : Nat) : State :=
  let may : Bool := lease != 7 && match t with
    | .dev _ => true
    | .peer _ _ => s.fabricLive
    | _ => false
  if !may || decide (s.gtb < s.replicaOf core t) || linePending s t then s
  else { recordLease s t (s.gtb + 64) with replicas := SMap.set 0 s.replicas (4 * t.leaseKey + dieOf core) (s.gtb + 64) }

/-- The way in which a line of a core stands: the L1's, else that of a dirty sector of it. -/
def wayOf (s : State) (core : Nat) (t : Target) : Option Nat :=
  match (s.core core).l1.find? (fun l => l.line == t.line) with
  | some l => some l.bank
  | none =>
    s.mops.findSome? (fun o =>
      if o.w.core = core then
        o.elems.findSome? (fun e =>
          match e.phase, e.target with
          | .dirty _, some u => if u.line = t.line then e.way else none
          | _, _ => none)
      else none)

/-- That way, or where there is none a way chosen freely. -/
def pickWay (s : State) (core : Nat) (t : Target) : Nat × State :=
  match wayOf s core t with
  | some b => (b, s)
  | none =>
    let n := s.freeNat
    ((wayBanks s core).getD (n.1 % (wayBanks s core).length) 0, n.2)

/-- The sector's bytes enter a way; a line still under its lease keeps its sectors. What the way held of the sector is overwritten, dirty
bytes of a store on its way to the home among it (log 36). -/
def fillWay (s : State) (core : Nat) (t : Target) (expiry : Nat) : State :=
  let old := (s.core core).l1.find? (fun l => l.line == t.line)
  let r := pickWay s core t
  let sec := t.offset % 128 / 32
  let keep : BitVec 4 × Nat :=
    match old with
    | some l => if s.gtb < l.expiry then (l.sectors, max l.expiry expiry) else (0, expiry)
    | none => (0, expiry)
  let line : L1Line :=
    { line := t.line, bank := r.1, sectors := keep.1 ||| (1#4 <<< sec), expiry := keep.2,
      fabric := (match t with | .peer _ _ => true | _ => false) }
  let data := s.bytesAt (t.line.plus (32 * sec)) 32
  r.2.updCore core (fun x =>
    { x with
      comb := x.comb.write (wayOff t r.1 + 32 * sec) data
      l1 := line :: x.l1.filter (fun l => !(l.line == t.line || (l.bank == r.1 && wayOff l.line r.1 == wayOff t r.1))) })

/-- R202, R210. An `h:` line has no lease code; its length is a free choice (log 15). A hot row is copied from the die's replica, and the
copy ends with it (R210, R274). -/
def grantLease (s : State) (o : LOp) (e : LElem) : State :=
  let core := o.w.core
  let s1 := if o.hot.contains e.lane then s.replicate core e.target e.lease else s
  if o.hot.contains e.lane && decide (s1.gtb < s1.replicaOf core e.target) then
    (if mayLease s1 o e then fillWay s1 core e.target (s1.replicaOf core e.target) else s1)
  else if mayLease s o e then
    let r : Nat × State :=
      match e.target with
      | .host _ _ =>
        let n := s.freeNat
        (n.1 % 7, n.2)
      | _ => (e.lease, s)
    let expiry := s.gtb + 64 * 2 ^ r.1
    fillWay (recordLease r.2 e.target expiry) o.w.core e.target expiry
  else s

/-! ## LOAD_RETURN -/

/-- The element may perform now: after the acquires and fences before it, after the wave's earlier stores have been checked and those of
its ACCST to the bytes have left the engine, after its own earlier accesses of the same bytes (R218). -/
def loadMay (s : State) (o : LOp) (e : LElem) : Bool :=
  !e.done && !orderHeld s o.w o.seq && !bankBusy s e.target && !leavingWay s o.w.core e.target
    && !accstAhead s o.w o.seq e.target e.va e.size
    && (earlierMops s o.w o.seq).all (fun m => m.checked &&
        (m.kind == .store || m.elems.all (fun x => !(x.phase.unapplied &&
          match x.target with | some u => u.overlaps x.size e.target e.size | none => false))))
    && s.loads.all (fun p => !(p.w == o.w && decide (p.seq < o.seq) &&
        p.elems.any (fun x => !x.done && x.target.overlaps x.size e.target e.size)))

/-- POISON of data that a wave reads (R392): one report for an instruction, with its lanes. -/
def poisonReport (s : State) (k : WaveKey) (pc : Pc) (lane det : Nat) : State :=
  s.updWave k (fun w =>
    let same (a : Async) : Bool := a.prio == 2 && a.record.pc == pc
    if w.async.any same then
      { w with async := w.async.map (fun (a : Async) =>
          if same a then { a with record := { a.record with mask := a.record.mask ||| (1#96 <<< lane) } } else a) }
    else
      { w with async := w.async ++
          [{ prio := 2, next := false,
             record := ({ code := Trap.poison, mask := laneMask [lane], det1 := det } : TrapInfo).at_ pc }] })

/-- The element's bytes under the wave's own stores (R216). -/
def ownView (s : State) (k : WaveKey) (seq va : Nat) (t : Target) (l : List Byte) : List Byte :=
  l.zipIdx.map (fun p => (forwardByte s k seq (some (va + p.2)) (t.plus p.2)).getD p.1)

/-- The sector that a peer has answered is what its memory holds (R409, log 82). -/
def answeredSector (s : State) (e : LElem) : State :=
  match e.target, e.reply with
  | .peer r a, some l => { s with peerMem := s.peerMem.write (peerKey r (a / 32 * 32)) (l.take 32) }
  | _, _ => s

/-- A load of a peer's memory that no leased copy serves performs when its request has been answered (R409). -/
def answerMay (s : State) (o : LOp) (e : LElem) : Bool :=
  !e.target.isPeer || e.reply.isSome || (l1Find s o.w.core e.target).isSome

/-- The load of one element performs: from a leased copy, or at the home, which may grant a lease (R210, R217). -/
def performLoad (s : State) (o : LOp) (e : LElem) : Nat × State :=
  let t := e.target
  let core := o.w.core
  let s := touchRings s t e.size
  let r : List Byte × Bool × State :=
    match l1Find s core t with
    | some l =>
      let off := wayOff t l.bank + t.offset % 128
      ((s.core core).comb.read off e.size, s.poisonedAt (.rawComb core off), s)
    | none =>
      if s.poisonedAt t then
        let b := s.freeBytes e.size
        (b.1, true, b.2)
      else
        let s := answeredSector s e
        (s.bytesAt t e.size, false, grantLease s o e)
  let x := bytesToNat (ownView s o.w o.seq e.va t r.1)
  let s1 := if r.2.1 then poisonReport r.2.2 o.w o.pc e.lane (poisonSource t) else r.2.2
  let s2 := if o.hint = 3 ∧ core < 256 then
      s1.updCore core (fun c => { c with l1 := c.l1.filter (fun l => l.line != t.line) })
    else s1
  (x, s2)

/-- An access that is under way to a peer that is no longer reached: LOAD_FAULT of cause 1, one report for an instruction, with its lanes
(R408, log 118). -/
def lostReport (s : State) (k : WaveKey) (pc : Pc) (lane va : Nat) : State :=
  s.updWave k (fun w =>
    let same (a : Async) : Bool := a.record.code == Trap.loadFault && a.record.pc == pc
    if w.async.any same then
      { w with async := w.async.map (fun (a : Async) =>
          if same a then { a with record := { a.record with mask := a.record.mask ||| (1#96 <<< lane) } } else a) }
    else
      { w with async := w.async ++
          [{ prio := 6, next := false,
             record := ({ code := Trap.loadFault, mask := laneMask [lane], addr := va, det1 := 1 } : TrapInfo).at_ pc }] })

/-- The element is over, with this value. -/
def loadDone (s : State) (id el value : Nat) : State :=
  finishLoad { s with
    loads := s.loads.map (fun (p : LOp) =>
      if p.id = id then { p with elems := p.elems.modify el (fun e => { e with done := true, value := value }) } else p) } id

/-- R210, R217. A load from a peer that nothing reaches any more faults, and its value is free (R408, log 118). -/
def execLoadReturn (id el : Nat) (s : State) : Host.Outcome State Fault Refusal :=
  match s.loads.find? (fun o => o.id == id) with
  | none => .next s
  | some o =>
    match o.elems[el]? with
    | none => .next s
    | some e =>
      if !loadMay s o e then .next s
      else if s.unreached e.target then
        let b := s.freeBytes e.size
        .next (loadDone (lostReport b.2 o.w o.pc e.lane e.va) id el (bytesToNat b.1))
      else if !answerMay s o e then .next s
      else
        let r := performLoad s o e
        .next (loadDone r.2 id el r.1)

/-! ## Stores on their way -/

def State.mop? (s : State) (id : Nat) : Option MOp := s.mops.find? (fun o => o.id == id)

def State.updMop (s : State) (id : Nat) (f : MOp → MOp) : State :=
  { s with mops := s.mops.map (fun o => if o.id = id then f o else o) }

def State.updElem (s : State) (id el : Nat) (f : MElem → MElem) : State :=
  s.updMop id (fun o => { o with elems := o.elems.modify el f })

/-- R205: the dirty sector leaves for its home. -/
def execDirtySectorTransmit (id el : Nat) (s : State) : Host.Outcome State Fault Refusal :=
  match (s.mop? id).bind (fun o => (o.elems[el]?).map (fun e => (o, e))) with
  | some (o, e) =>
    match e.phase, e.target with
    | .dirty _, some t =>
      .next (transmit s o.w (fun u => u.line == t.line && u.offset % 128 / 32 == t.offset % 128 / 32))
    | _, _ => .next s
  | none => .next s

/-- The oldest operation of its wave that has not been checked. -/
def firstUnchecked (s : State) (o : MOp) : Bool :=
  !o.checked && s.mops.all (fun p => !(p.w == o.w && !p.checked && (decide (p.seq < o.seq) || (p.seq == o.seq && decide (p.id < o.id)))))

/-- A store-fault record (R379). -/
def faultRecord (o : MOp) (mask : Mask) (addr cause : Nat) : BitVec 256 :=
  BitVec.ofNat 256 (addr % 2 ^ 64 + mask.toNat * 2 ^ 64 + (o.space % 4) * 2 ^ 192 + (o.order % 4) * 2 ^ 194
    + (o.scope % 8) * 2 ^ 196 + (Pc.slot o.pc + o.pc.toNat / 64 * 8) % 2 ^ 45 * 2 ^ 200
    + (o.w.place % 32 + o.w.slot % 4 * 32) * 2 ^ 245 + (cause % 16) * 2 ^ 252)

/-- Records of a wave that are queued in a core (R379). -/
def recordsOf (s : State) (core : Nat) (k : WaveKey) : List StoreFault :=
  (s.core core).retry.filter (fun r => r.valid && r.w == k)

/-- STORE_FAULT of a wave that has ended: one team event, from its oldest record (R379). -/
def endedFault (s : State) (core ctx gid team : Nat) (k : WaveKey) : State :=
  let known := ((s.team? gid team).map (fun t => t.events.any (fun e => e.code == Trap.storeFault && e.w == k))).getD true
  let l := recordsOf s core k
  let s := { s with
    mops := s.mops.map (fun (o : MOp) =>
      if o.w = k then
        { o with elems := o.elems.map (fun e => if e.phase = .faulted then { e with phase := .discarded } else e) }
      else o) }
  if known || l.isEmpty then s
  else
    let b := ((l.head?).map (·.bits)).getD 0
    teamEvent s core ctx gid team k none
      { code := Trap.storeFault, mask := b.extractLsb' 64 96, addr := b.extractLsb' 0 64, det1 := BitVec.ofNat 32 l.length,
        det2 := 0, pc := 0 }

/-- Faulted elements become one record, kept with their data; the wave is told at its next issue boundary (R379). Those of a team that
has been terminated are discarded (R387, log 64). -/
def storeFaulted (s : State) (o : MOp) (bad : List MElem) (mask : Mask) (addr cause : Nat) : State :=
  let core := o.w.core
  let drop (s : State) : State := s.updMop o.id (fun p =>
    { p with elems := p.elems.map (fun e => if e.phase = .faulted then { e with phase := .discarded } else e) })
  if 256 ≤ core then drop (endSection s o.w 0x111 [])
  else if ((s.team? o.gid o.team).map (·.terminated)).getD false then drop s
  else
    let bits := faultRecord o mask addr cause
    let kept : StoreFault :=
      { op := o.id, w := o.w, gid := o.gid, team := o.team, ctx := o.ctx, bits := bits,
        elems := bad.map (fun e => { e with target := none, phase := .unchecked }), opInfo := { o with elems := [] }, valid := true }
    let s1 := s.updCore core (fun x =>
      { x with sfTail := x.sfTail + 1, sfRec := SMap.set 0 x.sfRec (x.sfTail % 32) bits, retry := x.retry ++ [kept] })
    match s1.anyWave? o.w with
    | some w =>
      if w.quads.all (·.ended) then endedFault s1 core o.ctx o.gid o.team o.w
      else if w.async.any (fun a => a.record.code == Trap.storeFault && a.cmd.isNone) then s1
      else report s1 o.w 3 (({ code := Trap.storeFault } : TrapInfo).at_ 0)
    | none => endedFault s1 core o.ctx o.gid o.team o.w

/-- The cycle of the first store into the wave's dirty sector (R205). -/
def dirtySince (s : State) (o : MOp) (t : Target) : Nat :=
  (((s.mops.filter (fun p => p.w == o.w)).map (fun p => p.elems.filterMap (fun e =>
    match e.phase, e.target with
    | .dirty n, some u => if u.line == t.line && u.offset % 128 / 32 == t.offset % 128 / 32 then some n else none
    | _, _ => none))).flatten).foldl min o.cyc

/-- A dirty sector takes its place in a way of the L1: the one in which the line stands, clean or dirty, else one chosen freely, whose
old line leaves (R46, R205, log 36). Its bytes lie in the bank, and no lookup hits them. -/
def dirtyWay (s : State) (o : MOp) (i : Nat) (e : MElem) : State :=
  let core := o.w.core
  match e.phase, e.target with
  | .dirty _, some t =>
    if (wayBanks s core).isEmpty then s
    else
      let r := pickWay s core t
      let s1 := r.2.updCore core (fun x =>
        { x with
          comb := x.comb.writeNat (wayOff t r.1 + t.offset % 128) e.size e.data
          l1 := x.l1.filter (fun l => l.line == t.line || !(l.bank == r.1 && wayOff l.line r.1 == wayOff t r.1)) })
      { s1 with mops := s1.mops.map (fun p => if p.id = o.id then { p with elems := p.elems.modify i (fun e => { e with way := some r.1 }) } else p) }
  | _, _ => s

/-- The check of a store's elements: their places, the lanes or elements that fail, those that a secure region turns away. -/
def checkedElems (s : State) (o : MOp) (l : List (Acc × Placed)) : List MElem :=
  let badLanes := l.filterMap (fun p => match p.2 with | .fault _ => some p.1.lane | _ => none)
  (o.elems.zip l).map (fun (p : MElem × Acc × Placed) =>
    match p.2.2 with
    | .ok t n =>
      if !o.byElem && badLanes.contains p.1.lane then { p.1 with phase := .faulted }
      else if (secureOf s o.w.core t).isSome then { p.1 with target := some t, phase := .discarded }
      else
        { p.1 with
          target := some t, lease := n
          phase := if o.kind = .store ∧ o.w.core < 256 ∧ o.space ≠ 1 then .dirty (dirtySince s o t) else .sent }
    | .fault _ => { p.1 with phase := .faulted }
    | .wait => p.1)

/-- Operations whose every element is over leave. -/
def sweepMops (s : State) : State :=
  { s with mops := s.mops.filter (fun o => o.elems.any (fun e => e.phase.outstanding)) }

/-- R227, R236, R379. A store that waits for a host translation stays unchecked. -/
def checkStore (s : State) (o : MOp) : State :=
  let who : Who :=
    match s.anyWave? o.w with
    | some w => { whoOf s w with waiter := some (o.w, 1000 + o.id) }
    | none => { whoFor s o.w.core o.ctx o.gid o.team with sect := decide (256 ≤ o.w.core) }
  let accs : List Acc := o.elems.map (fun e => { lane := e.lane, va := e.va, size := e.size })
  let r := placeAll s who .store o.space accs
  let s1 := hostSettle r.2 who .store o.space r.1
  if r.1.any (fun p => p.2 == .wait) then s1
  else
    let elems := checkedElems s1 o r.1
    let s2 := s1.updMop o.id (fun p => { p with checked := true, elems := elems })
    let s3 := dropSectors s2 o.w.core (elems.filterMap (fun e =>
      match e.phase with
      | .dirty _ => e.target.map (fun t => (t, e.size))
      | .sent => e.target.map (fun t => (t, e.size))
      | _ => none))
    let s3 := elems.zipIdx.foldl (fun s p => dirtyWay s o p.2 p.1) s3
    let bad := elems.filter (fun e => e.phase == .faulted)
    let causes := r.1.filterMap (fun p => match p.2 with | .fault c => some (p.1, c) | _ => none)
    let s4 := match bad, causes with
      | e :: _, (a, c) :: _ =>
        storeFaulted s3 o bad (if o.whole = 0 then laneMask (bad.map (·.lane)) else o.whole) (if o.byElem then a.va else e.va) c
      | _, _ => s3
    let shut := elems.filter (fun e => e.phase == .discarded)
    sweepMops (match shut with
      | e :: _ =>
        let n := ((e.target.bind (secureOf s1 o.w.core))).getD 0
        reportAt s4 o.w 6 false
          (({ code := Trap.secureAccess, mask := if o.whole = 0 then laneMask (shut.map (·.lane)) else o.whole, addr := e.va,
              det1 := n } : TrapInfo).at_ o.pc)
      | [] => s4)

/-- A FENCET issued before the store has not completed: the store is translated after it (R229). -/
def fencetAhead (s : State) (o : MOp) : Bool :=
  (s.anyWave? o.w).any (fun w => w.gangs.any (fun g =>
    match g.wait with
    | .fence _ n true => decide (n ≤ o.seq)
    | .drain _ n _ => decide (n ≤ o.seq)
    | _ => false))

/-- The store-fault queue of the core has room for one more record (R379). -/
def recordRoom (s : State) (core : Nat) : Bool := decide (256 ≤ core) || decide ((s.core core).sfTail < (s.core core).sfHead + 32)

def execStoreCheck (id : Nat) (s : State) : Host.Outcome State Fault Refusal :=
  match s.mop? id with
  | none => .next s
  | some o =>
    if firstUnchecked s o && !fencetAhead s o && recordRoom s o.w.core then
      .next (checkStore s o)
    else .next s

/-! ## At the home -/

/-- Largest T of the stores that have arrived at the line (R212). -/
def lineT (s : State) (t : Target) : Nat :=
  (s.mops.map (fun o => (o.elems.map (fun e =>
    match e.phase, e.target with
    | .arrived x _, some u => if u.line = t.line then x else 0
    | _, _ => 0)).foldl max 0)).foldl max 0

/-- Ports that serve a partition (R396). -/
def portsOf (s : State) (part : Nat) : List Nat :=
  match s.root.mode with
  | 0 => [0, 1]
  | 1 => [part]
  | _ => [part / 2]

/-- A system-scope store to device memory that a host may cache (R232, R402). -/
def needsRemoval (s : State) (part scope : Nat) (t : Target) : Bool :=
  match t with
  | .dev _ =>
    scope == 6 && (portsOf s part).any (fun p => (s.port p).up && (s.port p).cxlMem)
      && ((regionAt s part t).map (·.2)).getD 1 != 0
  | _ => false

/-- Elements that arrive together: all of an atomic's at one location (R207), all of a push (R251), else the element alone. -/
def arriveGroup (o : MOp) (el : Nat) (e : MElem) : List Nat :=
  match o.kind with
  | .atomic _ _ _ => together
  | .cas => together
  | .push _ => together
  | _ => [el]
where
  together : List Nat := (o.elems.zipIdx.filter (fun (p : MElem × Nat) => p.1.target == e.target && p.1.phase == .sent)).map (·.2)

/-- The element may arrive now: after the acquires and fences before it, after the wave's earlier stores to the line, those still in the
engine or kept for a replay among them, after its earlier loads of the bytes (R212, R218-R220), and after the D bits that its context's
walks are setting (R385). Of the elements of one issue, those that share a byte come in lane order (R207). An element that is not itself
being written back waits for a line that its core is writing back (R42). An update of a barrier may advance its phase, and is then a
release: it waits for what its wave did before (R270). -/
def arriveMay (s : State) (o : MOp) (el : Nat) (e : MElem) (t : Target) : Bool :=
  let waiting (x : MElem) : Bool :=
    match x.phase, x.target with
    | .dirty _, some u => u.line == t.line
    | .sent, some u => u.line == t.line
    | _, _ => false
  !orderHeld s o.w o.seq && !bankBusy s t && !accstAhead s o.w o.seq t (e.va / 128 * 128) 128
    && !keptAhead s o.w o.seq t (e.va / 128 * 128) && (o.w == walkerKey || !walkerBusy s o.ctx)
    && ((s.core o.w.core).changes.any (fun x => e.way == some x.bank) || !leavingWay s o.w.core t)
    && (match o.kind with
      | .barrier op => op == 1 || (s.anyWave? o.w).all (fun w => fenceReady s w o.scope o.seq)
      | _ => true)
    && (earlierMops s o.w o.seq).all (fun m => m.checked && m.elems.all (fun x => !waiting x))
    && (o.elems.take el).all (fun x => !(waiting x && match x.target with | some u => u.overlaps x.size t e.size | none => false))
    && s.loads.all (fun p => !(p.w == o.w && decide (p.seq < o.seq) &&
        p.elems.any (fun x => !x.done && x.target.overlaps x.size t e.size)))

def MKind.rmw (k : MKind) : Bool := match k with | .atomic _ _ _ => true | .cas => true | _ => false

/-- The flit that carries the element to a peer has left, an atomic is answered, and those of its connection before it have arrived
(R409). -/
def flitMay (s : State) (o : MOp) (e : MElem) (t : Target) : Bool :=
  match t with
  | .peer r _ =>
    s.flitGone o.ctx r e.flit && (!o.kind.rmw || e.reply.isSome)
      && s.mops.all (fun p => p.ctx != o.ctx || p.elems.all (fun x =>
        match x.phase, x.target, x.flit, e.flit with
        | .sent, some (.peer q _), some m, some n => q != r || m == n || decide (2 ^ 31 ≤ (n - m).toNat)
        | _, _, _, _ => true))
  | _ => true

/-- Elements enter the line's order with their T (R212). -/
def arriveAll (s : State) (o : MOp) (t : Target) : List Nat → State
  | [] => s
  | i :: rest =>
    let x := max s.gtb (max (s.leaseT t) (lineT s t))
    let f := s.fresh
    arriveAll (f.2.updElem o.id i (fun e =>
      { e with
        phase := .arrived x f.1
        removal := if needsRemoval s (s.partOf o.w.core) (actScope o.space o.scope) t then .waiting else .notNeeded })) o t rest

/-- Every element has its old value: the registers, or the port's queue, receive them (R111, R49). -/
def atomicReturn (s : State) (id : Nat) : State :=
  match s.mop? id with
  | none => s
  | some o =>
    let ret := match o.kind with | .atomic _ _ r => r | .cas => true | _ => false
    if !ret || o.elems.any (fun e => e.phase.unapplied) || (o.keys.isEmpty && o.port.isNone) then s
    else
      let p : Pend :=
        match o.port with
        | some q => { writes := [], flags := 0, amax := [], keys := [], push := some (q, o.elems.map (·.old)) }
        | none =>
          { writes := (o.elems.map (fun e => elemWrites .vec 9 e.size e.dst e.lane e.old)).flatten, flags := 0, amax := [],
            keys := o.keys, push := none }
      (s.updMop id (fun o => { o with keys := [], port := none })).updWave o.w (fun w => { w with pend := w.pend ++ [p] })

/-- Elements on their way to a peer that nothing reaches any more: a store faults with cause 1, and is kept; an atomic is over, with a
LOAD_FAULT and a free value (R408, log 118). -/
def lostElems (s : State) (o : MOp) (l : List Nat) : State :=
  if o.kind.rmw then
    l.foldl (fun s i =>
      match o.elems[i]? with
      | some e =>
        let b := s.freeBytes e.size
        (lostReport b.2 o.w o.pc e.lane e.va).updElem o.id i (fun e => { e with phase := .discarded, old := bytesToNat b.1 })
      | none => s) s
  else
    let bad := l.filterMap (fun i => o.elems[i]?)
    storeFaulted (l.foldl (fun s i => s.updElem o.id i (fun e => { e with phase := .faulted })) s) o bad
      (if o.whole = 0 then laneMask (bad.map (·.lane)) else o.whole) ((bad.map (·.va)).headD 0) 1

def execStoreArrive (id el : Nat) (s : State) : Host.Outcome State Fault Refusal :=
  match (s.mop? id).bind (fun o => (o.elems[el]?).map (fun e => (o, e))) with
  | some (o, e) =>
    match e.phase, e.target with
    | .sent, some t =>
      if !arriveMay s o el e t then .next s
      else if s.unreached t then
        if recordRoom s o.w.core then .next (sweepMops (atomicReturn (lostElems s o (arriveGroup o el e)) id)) else .next s
      else if !(arriveGroup o el e).all (fun i => (o.elems[i]?).all (fun e => flitMay s o e t)) then .next s
      else
        match (if 512 ≤ o.w.core then sharedAny s t else (sharedRegion s (s.partOf o.w.core) t).map (fun n => (s.partOf o.w.core, n))) with
        | some (p, n) => .next (autoContest s p n)
        | none => .next (arriveAll s o t (arriveGroup o el e))
    | _, _ => .next s
  | none => .next s

/-- The stores that stand in a line's order from number `n` on have a T of at least `x` (R212). -/
def raiseLine (s : State) (t : Target) (n x : Nat) : State :=
  { s with
    mops := s.mops.map (fun o =>
      { o with elems := o.elems.map (fun e =>
          match e.phase, e.target with
          | .arrived y m, some u => if n ≤ m ∧ u.line = t.line then { e with phase := .arrived (max y x) m } else e
          | _, _ => e) }) }

/-- R232: T is at least the time of the acknowledgement, and so is that of every store behind it (R212). -/
def execRemovalAcknowledgement (id el : Nat) (s : State) : Host.Outcome State Fault Refusal :=
  match (s.mop? id).bind (fun o => o.elems[el]?) with
  | some e =>
    match e.removal, e.phase, e.target with
    | .waiting, .arrived _ n, some t =>
      .next (raiseLine (s.updElem id el (fun e => { e with removal := .acknowledged s.gtb })) t n s.gtb)
    | _, _, _ => .next s
  | none => .next s

/-- The element's time has come, and every store before it in the line's order has been applied (R212, R232). -/
def applyMay (s : State) (e : MElem) (t : Target) : Bool :=
  match e.phase with
  | .arrived x n =>
    decide (x ≤ s.gtb) && e.removal != .waiting
      && s.mops.all (fun o => o.elems.all (fun y =>
          match y.phase, y.target with
          | .arrived _ m, some u => decide (n ≤ m) || u.line != t.line
          | _, _ => true))
  | _ => false

/-- A read-modify-write whose elements at the place have all come to their time, and whose turn it is (R207, R213). -/
def atomicMay (s : State) (o : MOp) (t : Target) : Bool :=
  let l := o.elems.filter (fun e => e.target == some t && (match e.phase with | .arrived _ _ => true | _ => false))
  l.all (fun e => (match e.phase with | .arrived x _ => decide (x ≤ s.gtb) | _ => false) && e.removal != .waiting)
    && match l with | e :: _ => applyMay s e t | [] => false

/-- The elements of an operation that are due: T has come, and they apply before anything else happens (R209, R212). -/
def MOp.due (s : State) (o : MOp) : Option Nat :=
  (o.elems.zipIdx.find? (fun p =>
    match p.1.phase, p.1.target with
    | .arrived _ _, some t => if o.kind.rmw then atomicMay s o t else applyMay s p.1 t
    | _, _ => false)).map (·.2)

/-- The element that applies next, as an event of the table. -/
def dueEvent (s : State) : Option Instr :=
  s.mops.findSome? (fun o => (o.due s).map (fun i => if o.kind.rmw then .atomicApply o.id i else .storeApply o.id i))

/-- Guard band of a scope (R214). -/
def guardBand (scope : Nat) : Nat := if 5 ≤ scope then 40 else if scope = 0 then 0 else 4

/-- The GWCT of an element with apply time T, which for a `c:` element is its arrival (R214); an `h:` store's comes with its return (R232). -/
def gwctOf (o : MOp) (t : Target) (time : Nat) : Nat :=
  let sc := actScope o.space o.scope
  if sc = 0 then o.gtb
  else
    match t with
    | .comb _ _ => time
    | .rawComb _ _ => time
    | .host _ _ => 0
    | _ => time + guardBand sc

/-- Stores of an operation that together fill a sector clear its poison (R392). -/
def clearFilled (s : State) (o : MOp) (t : Target) : State :=
  match t.sector with
  | none => s
  | some loc =>
    if !s.poison.contains loc then s
    else
      let base := (List.range 32).map (fun i => (t.line.plus (t.offset % 128 / 32 * 32)).plus i)
      let covered (u : Target) : Bool := o.elems.any (fun e =>
        (match e.phase with | .applied _ => true | .returned => true | _ => false) &&
          (match e.target.bind (fun v => v.behind u) with | some d => decide (d < e.size) | none => false))
      if base.all covered then { s with poison := s.poison.filter (· != loc) } else s

def applied (s : State) (o : MOp) (el : Nat) (t : Target) (time : Nat) : State :=
  s.updElem o.id el (fun e => { e with phase := .applied (gwctOf o t time) })

/-- A core of the partition in whose window a place of device memory lies, for a peer's operation. -/
def State.homeCore (s : State) (t : Target) : Nat :=
  match t with
  | .dev a => s.partCore (([0, 1, 2, 3].find? (fun p => s.inWindow p a)).getD 0)
  | _ => 0

/-- What applying an element does to the memory (R212, R247, R271). -/
def applyElem (s : State) (o : MOp) (e : MElem) (t : Target) : State :=
  match o.kind with
  | .push q => pushOne s (if o.w.core < 512 then o.w.core else s.homeCore t) q e.data
  | .barrier op => s.writeAt t 16 (tbApply op e.data (s.readAt t 16))
  | _ => touchRings (s.writeAt t e.size e.data) t e.size

def execStoreApply (id el : Nat) (s : State) : Host.Outcome State Fault Refusal :=
  match (s.mop? id).bind (fun o => (o.elems[el]?).map (fun e => (o, e))) with
  | some (o, e) =>
    match e.phase, e.target with
    | .arrived x _, some t =>
      if !o.kind.rmw && applyMay s e t then
        let s1 := applied (applyElem s o e t) o el t x
        let s2 := match s1.mop? id with
          | some p => clearFilled s1 p t
          | none => s1
        .next (s2.updWave o.w Wave.progress)
      else .next s
    | _, _ => .next s
  | none => .next s

/-! ## Atomics -/

/-- The value that an atomic leaves; CAS writes where the old value equals the comparand (R242, R243). -/
def atomicResult (k : MKind) (old data cmp : Nat) : Nat :=
  match k with
  | .atomic op ty _ => atomicNew ty op old data
  | .cas => if old = cmp then data else old
  | _ => data

/-- One element reads and writes at once (R213). Poison is told, nothing is written, and the value read is free (R392). -/
def atomicOne (s : State) (o : MOp) (t : Target) (i : Nat) : State :=
  match o.elems[i]? with
  | none => s
  | some e =>
    match e.phase with
    | .arrived x _ =>
      if s.poisonedAt t then
        let b := s.freeBytes e.size
        (applied (poisonReport b.2 o.w o.pc e.lane (poisonSource t)) o i t x).updElem o.id i (fun e =>
          { e with old := bytesToNat b.1 })
      else
        let old := (e.reply.map (· % 256 ^ e.size)).getD (s.readAt t e.size)
        let s1 := touchRings (s.writeAt t e.size (atomicResult o.kind old e.data e.cmp)) t e.size
        (applied s1 o i t x).updElem o.id i (fun e => { e with old := old })
    | _ => s

/-- All of the operation's elements at one location apply in lane order, with no access between (R207, R213). -/
def execAtomicApply (id el : Nat) (s : State) : Host.Outcome State Fault Refusal :=
  match (s.mop? id).bind (fun o => (o.elems[el]?).map (fun e => (o, e))) with
  | some (o, e) =>
    match e.target with
    | some t =>
      let group := (o.elems.zipIdx.filter (fun (p : MElem × Nat) =>
        p.1.target == some t && (match p.1.phase with | .arrived _ _ => true | _ => false))).map (·.2)
      if o.kind.rmw && group.contains el && atomicMay s o t then
        .next ((atomicReturn (group.foldl (fun s i => atomicOne s o t i) s) id).updWave o.w Wave.progress)
      else .next s
    | none => .next s
  | none => .next s

/-- What a peer's operation other than a store has found is answered (R409); its elements bear the number of the flit that brought them. -/
def answerUpdate (s : State) (o : MOp) (e : MElem) : State :=
  match e.target, e.flit with
  | some (.dev _), some n =>
    if o.kind = .store then s
    else
      { s with fabric := { s.fabric with posts := s.fabric.posts ++
          [{ ctx := o.ctx, rank := o.w.slot, payload := Config.connAnswer n (natToBytes e.size e.old) }] } }
  | _, _ => s

/-- R215: the GWCT returns to the wave; for an `h:` element it is the time of the return (R232). -/
def execGwctReturn (id el : Nat) (s : State) : Host.Outcome State Fault Refusal :=
  match (s.mop? id).bind (fun o => (o.elems[el]?).map (fun e => (o, e))) with
  | some (o, e) =>
    match e.phase with
    | .applied g =>
      let sc := actScope o.space o.scope
      let g := match e.target with
        | some (.host _ _) => if sc = 0 then g else s.gtb
        | _ => g
      let s1 := (s.updElem id el (fun e => { e with phase := .returned })).updWave o.w (fun w =>
        { w with wct := SMap.set 0#64 w.wct sc (BitVec.ofNat 64 (max (SMap.get 0#64 w.wct sc).toNat g)) })
      .next (sweepMops (answerUpdate s1 o e))
    | _ => .next s
  | none => .next s

/-! ## Fences -/

/-- R219; a releasing access may then issue (R220). -/
def execFenceComplete (w : WaveKey) (q : Nat) (s : State) : Host.Outcome State Fault Refusal :=
  match gangWait s w q with
  | some (v, .fence sc n false) => if fenceReady s v sc n then .next (s.updWave w (fun v => v.completeWait q)) else .next s
  | some (v, .release sc n) =>
    if fenceReady s v sc n then
      .next (s.updWave w (fun v => (v.updGang q (fun g => { g with wait := .none, released := true })).unblock))
    else .next s
  | _ => .next s

/-- Cores whose agents lie within a scope of the wave, Benuri core n as 256 + n (R214, R229). -/
def scopeCores (s : State) (w : Wave) (scope : Nat) : List Nat :=
  let all := List.range 192 ++ (List.range 48).map (256 + ·)
  if 4 ≤ scope then all
  else if scope = 3 then all.filter (fun c => dieOf c == dieOf w.key.core)
  else if ((s.waveTeam w).map (·.span)).getD false then [w.key.core / 2 * 2, w.key.core / 2 * 2 + 1]
  else [w.key.core]

/-- A wait that watches a place outside the windows, translated again; one whose address no longer translates is given up, and its
instruction issues again (R229). -/
def Wait.again (s : State) (core ctx : Nat) (w : Wait) : Wait × State :=
  let look (t : Target) (a : Nat) (f : Target → Wait) : Wait × State :=
    if t.inSpace 1 then (w, s)
    else
      match translateG s core ctx .load false a with
      | (.ok u _, s) => (f u, s)
      | (.fault _, s) => (.none, s)
  match w with
  | .tbwait t p a => look t a (fun u => .tbwait u p a)
  | .launch t a => look t a (fun u => .launch u a)
  | _ => (w, s)

/-- The waits of a wave of the context, on a core, after its translations have gone. -/
def rewatch (core : Nat) (s : State) (w : Wave) : State :=
  w.gangs.foldl (fun s g =>
    let r := g.wait.again s core w.ctx
    if r.1 = g.wait then r.2
    else r.2.updWave w.key (fun v =>
      (v.updGang (g.quads.headD 0) (fun x => { x with wait := r.1 })).unblock)) s

/-- Cached translations of a context leave the cores; what its waits watch is translated again. -/
def dropTlbs (s : State) (ctx : Nat) (cores : List Nat) : State :=
  let s := cores.foldl (fun s c =>
    let s := if (s.tlb c).isEmpty then s else s.updTlb c (fun l => l.filter (fun e => e.ctx != ctx))
    if (s.icache c).isEmpty then s else s.updIcache c (unmapLines (fun e => e.ctx == ctx))) s
  let s := (s.waves.filter (fun w => w.ctx == ctx && cores.contains w.key.core)).foldl (fun s w => rewatch w.key.core s w) s
  (s.teams.filter (fun t => t.ctx == ctx && cores.contains t.core)).foldl (fun s t => t.saved.foldl (rewatch t.core) s) s

/-- No access of the context translated before `bound` is still to perform in the cores (R229, R386). -/
def drained (s : State) (ctx bound : Nat) (cores : List Nat) : Bool :=
  s.loads.all (fun o => !(o.ctx == ctx && decide (o.id < bound) && cores.contains o.w.core))
  && s.mops.all (fun o => !(o.ctx == ctx && decide (o.id < bound) && cores.contains o.w.core && o.checked
      && o.elems.any (fun e => e.phase.unapplied)))

/-- Windows as written come into force: with a FENCET of at least device scope (R340). -/
def syncWindows (s : State) (part scope : Nat) : State :=
  if 4 ≤ scope then s.updPart part (fun p => { p with mwin := p.mwinReg }) else s

/-- R229: the translations leave once the fence's conditions hold; FENCET completes when every access that used them has
performed. -/
def execFencetComplete (w : WaveKey) (q : Nat) (s : State) : Host.Outcome State Fault Refusal :=
  match gangWait s w q with
  | some (v, .fence sc n true) =>
    if fenceReady s v sc n then
      .next ((dropTlbs (syncWindows s (s.partOf w.core) sc) v.ctx (scopeCores s v sc)).updWave w (fun v =>
        v.updGang q (fun g => { g with wait := .drain sc n s.nextId })))
    else .next s
  | some (v, .drain sc _ bound) =>
    if drained s v.ctx bound (scopeCores s v sc) then .next (s.updWave w (fun v => v.completeWait q)) else .next s
  | _ => .next s

/-- R246: every earlier store, those of ACCST included (R315), has been checked, and a fault found by that has been reported. -/
def execDrainstComplete (w : WaveKey) (q : Nat) (s : State) : Host.Outcome State Fault Refusal :=
  match gangWait s w q with
  | some (_, .drainst n) =>
    if (earlierMops s w n).all (fun o => o.checked && o.elems.all (fun e => e.phase != .faulted))
        && s.engCmds.all (fun k => !(k.w == w && decide (k.seq < n) && k.storesAt 0)) then
      .next (s.updWave w (fun v => v.completeWait q))
    else .next s
  | _ => .next s

/-! ## Bank changes -/

/-- The COMBCFG that waits for the bank completes with reason 0. -/
def bankDone (s : State) (core bank : Nat) : State :=
  s.waves.foldl (fun s w =>
    if w.key.core = core then
      (w.gangs.filterMap (fun g => match g.wait with | .comb b d => if b = bank then some (g.quads.headD 0, d) else none | _ => none)).foldl
        (fun s p => s.updWave w.key (fun w =>
          { w.completeWait p.1 with
            pend := w.pend ++ [{ writes := [⟨.sca, p.2, 0, 0⟩], flags := 0, amax := [], keys := [⟨.sca, p.2⟩], push := none }] })) s
    else s) s

/-- R42. A change ends in a later cycle than the one in which the allocator took it, so that an admission of that cycle comes before it
(R41). -/
def execCombModeChangeDone (core : Nat) (bank : Nat) (s : State) : Host.Outcome State Fault Refusal :=
  match (s.core core).changes.find? (fun x => x.bank == bank) with
  | none => .next s
  | some x =>
    if x.taken < s.cyc && x.ready ≤ s.cyc && !wayBusy s core bank (fun _ => true) then .next (bankDone (endChange s core bank x.mode) core bank) else .next s

end Sys2Proof.Machine
end

