-- ==== Sys2Proof/Machine/Table.lean ====
section
/-! DEFINITION. Table handles, GATHER, SCATTER and TBLSTAT (08 R272-R278, 12 R339). The descriptor's layout is log 13. -/

namespace Sys2Proof.Machine

/-! ## Handles and descriptors -/

/-- A table descriptor as the device reads it; `at_` is the physical address of the version in use. -/
structure TableDesc where
  at_ : Nat
  base : Nat
  rows : Nat
  rowBytes : Nat
  fmt : Nat
  version : Nat
  /-- The hot set: up to 1024 row indices (R272, R274). -/
  hot : List Nat
  drops : Nat
  deriving DecidableEq, Repr

/-- The hot set that a descriptor points to: a 16-bit count and the array's address. -/
def hotRows (s : State) (d : Nat) : List Nat :=
  let a := s.mem.readNat (d + 32) 8
  (List.range (min 1024 (s.mem.readNat (d + 28) 2))).map (fun i => s.mem.readNat (a + 4 * i) 4)

/-- The slot's descriptor, or the one that its pointer word names (R339); the layout is the model's (log 13). -/
def tableDesc (s : State) (core ctx slot : Nat) : TableDesc :=
  let a := field (s.desc core ctx) 191 128 + 64 * slot
  let p := s.mem.readNat a 8
  let d := if p = 0 then a else p
  { at_ := d, base := s.mem.readNat (d + 8) 8, rows := s.mem.readNat (d + 16) 4, rowBytes := s.mem.readNat (d + 20) 4,
    fmt := s.mem.readNat (d + 24) 1, version := s.mem.readNat (d + 26) 2, hot := hotRows s d, drops := s.mem.readNat (d + 40) 8 }

/-- R272. A base that is no multiple of 4 is malformed (log 13). -/
def TableDesc.bad (d : TableDesc) : Bool :=
  d.rowBytes == 0 || decide (65536 < d.rowBytes) || d.rowBytes % 4 != 0 || decide (13 < d.fmt) || d.base % 4 != 0

def handleSlot (h : Nat) : Nat := field h 15 0

/-- The code of HANDLE_STALE (R273). -/
def handleStale (s : State) (core ctx h : Nat) : Option Nat :=
  if 4096 ≤ handleSlot h then some 1
  else if field h 63 32 ≠ field (s.desc core ctx) 223 192 then some 2
  else if field h 31 16 ≠ (tableDesc s core ctx (handleSlot h)).version then some 3
  else none

/-- What the handle in SA comes to: a descriptor, or a trap. -/
def useHandle (s : State) (c : Ctx) (h : Nat) : Except TrapInfo TableDesc :=
  match handleStale s c.core c.w.ctx h with
  | some n => .error { code := Trap.handleStale, mask := laneMask c.lanes, det1 := n }
  | none =>
    let d := tableDesc s c.core c.w.ctx (handleSlot h)
    if d.bad then .error { code := Trap.loadFault, mask := laneMask c.lanes, addr := d.at_, det1 := 5 } else .ok d

def handleOf (c : Ctx) (s : Src) : Nat := c.src 0 true s true 0

/-- Registers of a row, once the handle's registers hold their values; 1 where no row can be moved. -/
def rowRegs (s : State) (c : Ctx) (f : FmtX) : Nat :=
  let n := f.sa.reg.toNat
  if (busyKeys s c.w).any (fun k => k == ⟨.sca, n⟩ || k == ⟨.sca, n + 1⟩) then 1
  else
    match useHandle s c (handleOf c f.sa) with
    | .ok d => if d.rowBytes ≤ 64 then d.rowBytes / 4 else 1
    | .error _ => 1

/-- The drop counter rises (R276); none while its line may not be written. -/
def countDrops (s : State) (at_ n : Nat) : Option State :=
  if n = 0 then some s
  else if s.writable (.dev (at_ + 40)) 8 then
    some { s with mem := s.mem.writeNat (at_ + 40) 8 ((s.mem.readNat (at_ + 40) 8 + n) % 2 ^ 64) }
  else none

/-- An index that names a row. -/
def rowIndex (wide : Bool) (rows x : Nat) : Option Nat :=
  let i := sext (if wide then 64 else 32) x
  if 0 ≤ i ∧ i < rows then some i.toNat else none

/-- Whether SCATTER `.add` accepts the table's format (R275). -/
def addFmt (fmt : Nat) : Bool := reduceFmt fmt

/-! ## Register forms -/

/-- The active lanes with the row that each names. -/
def laneRows (c : Ctx) (f : FmtX) (d : TableDesc) : List (Nat × Option Nat) :=
  let wide := f.m.ty == 6
  c.lanes.map (fun l => (l, rowIndex wide d.rows (c.src 1 f.m.sb f.sb wide l)))

def keptRows (l : List (Nat × Option Nat)) : List (Nat × Nat) := l.filterMap (fun p => p.2.map (fun i => (p.1, i)))

def droppedLanes (l : List (Nat × Option Nat)) : List Nat := l.filterMap (fun p => if p.2.isNone then some p.1 else none)

/-- The predicate tells the lanes that were dropped, and the counter counts them (R276). -/
def afterDrops (c : Ctx) (sb : Bool) (p at_ : Nat) (drops : List Nat) (bad : Mask) (s : State) : State :=
  let s := (countDrops s at_ drops.length).getD s
  let ws := (c.lanes.filter (fun l => !bad.getLsbD l)).map (fun l => predWr p l (drops.contains l))
  if p = 0 ∨ ws.isEmpty then s
  else if sb then
    s.updWave c.k (fun w =>
      { w with pend := w.pend ++ [{ writes := ws, flags := 0, amax := [], keys := [⟨.pred, p⟩], push := none }] })
  else s.updWave c.k (fun w => w.wrAll ws)

def Exit.afterDrops (c : Ctx) (p at_ : Nat) (drops : List Nat) : Exit → Exit
  | .done s => .done (Machine.afterDrops c true p at_ drops 0 s)
  | .trap s t => .trap (Machine.afterDrops c true p at_ drops t.mask s) t
  | .trapAfter s t => .trapAfter (Machine.afterDrops c true p at_ drops 0 s) t
  | e => e

def predOf (f : FmtX) (n : Nat) : Nat := if f.m.sub3.getLsbD 1 then n else 0

/-- A register-form GATHER loads each kept row whole or faults its lane whole (R377). -/
def gatherBody (h : Hdr) (f : FmtX) (sig : State → Ctx → Sig) (d : TableDesc) (c : Ctx) (s : State) : Exit :=
  let rows := laneRows c f d
  let drops := droppedLanes rows
  let n := d.rowBytes / 4
  let accs : List Acc := ((keptRows rows).map (fun p =>
    (List.range n).map (fun i =>
      ({ lane := p.1, va := d.base + p.2 * d.rowBytes + 4 * i, size := 4, dst := h.dst.toNat + i } : Acc)))).flatten
  match accessChecks s c false 0 4 accs with
  | some t => .trap s t
  | none =>
    if (countDrops s d.at_ drops.length).isNone then .stall (contestAll s (.dev (d.at_ + 40)) 8)
    else
      (loadExit c (sig s c)
        { space := 0, align := 4, acquire := false, scope := 0, ty := 9, scalar := false, hint := 0,
          table := some (handleSlot (handleOf c f.sa))
          hot := (keptRows rows).filterMap (fun p => if d.hot.contains p.2 then some p.1 else none)
          zeros := (drops.map (fun l => (List.range n).map (fun i =>
            ({ lane := l, va := 0, size := 4, target := .dev 0, lease := 7, dst := h.dst.toNat + i, done := true, value := 0 } :
              LElem)))).flatten } accs s).afterDrops c (predOf f f.sc.reg.toNat) d.at_ drops

/-- The row that a lane holds in its window, as a number. -/
def laneRow (c : Ctx) (f : FmtX) (n lane : Nat) : Nat :=
  ((List.range n).map (fun i => (c.regAt 2 false f.sc i lane).toNat * 2 ^ (32 * i))).sum

def splitElems (e n x : Nat) : List Nat := (List.range n).map (fun i => x / 256 ^ (e * i) % 256 ^ e)

/-- Rows of equal index are summed in their order, element by element (R277); the first keeps its place. -/
def combineRows (fmt : Nat) : List (Nat × Nat × List Nat) → List (Nat × Nat × List Nat) → List (Nat × Nat × List Nat)
  | acc, [] => acc
  | acc, (l, i, x) :: t =>
    if acc.any (fun p => p.2.1 == i) then
      combineRows fmt (acc.map (fun (p : Nat × Nat × List Nat) =>
        if p.2.1 = i then (p.1, i, (p.2.2.zip x).map (fun q => atomicNew fmt 1 q.1 q.2)) else p)) t
    else combineRows fmt (acc ++ [(l, i, x)]) t

/-- A register-form SCATTER: stores, or one atomic add per element of a distinct row (R276, R277). -/
def scatterBody (h : Hdr) (f : FmtX) (d : TableDesc) (c : Ctx) (s : State) : Exit :=
  let rows := laneRows c f d
  let drops := droppedLanes rows
  let n := d.rowBytes / 4
  let add := f.m.sub3.getLsbD 2
  let e := if add then codeWidth d.fmt / 8 else 4
  let whole : List (Nat × Nat × List Nat) :=
    (keptRows rows).map (fun p => (p.1, p.2, splitElems e (d.rowBytes / e) (laneRow c f n p.1)))
  let accs : List Acc := ((if add then combineRows d.fmt [] whole else whole).map (fun p =>
    p.2.2.zipIdx.map (fun q =>
      ({ lane := p.1, va := d.base + p.2.1 * d.rowBytes + e * q.2, size := e, data := q.1 } : Acc)))).flatten
  if (countDrops s d.at_ drops.length).isNone then .stall (contestAll s (.dev (d.at_ + 40)) 8)
  else
    match storeExit c
        { space := 0, align := e, scope := 4, order := 0, kind := if add then .atomic 1 d.fmt false else .store
          table := some (handleSlot (handleOf c f.sa)) } accs s with
    | .done s => .done (afterDrops c false (predOf f h.dst.toNat) d.at_ drops 0 s)
    | x => x

/-! ## Memory forms -/

/-- The descriptor of 32 bytes (R275); none when it is malformed. -/
def memForm (d : TableDesc) (x : Nat) : Option (Nat × Nat × Nat × Nat × Nat) :=
  let idx := field x 63 0
  let rows := field x 127 64
  let count := field x 159 128
  let stride := field x 191 160
  let tb := field x 255 192
  let ok := decide (idx / 2 ^ 62 < 2) && decide (rows / 2 ^ 62 < 2) && decide (tb / 2 ^ 62 < 2) && decide (1 ≤ count)
    && decide (count ≤ 2 ^ 20) && decide (d.rowBytes ≤ stride) && stride % 4 == 0
    && (tb == 0 || (d.rowBytes % 32 == 0 && cbAddr tb % 16 == 0))
  if ok then some (idx, rows, count, stride, tb) else none

/-- R222. -/
def tableRanges (scatter wide : Bool) (rowBytes idx rows count stride : Nat) : List Range :=
  [{ space := cbSpace idx, lo := cbAddr idx, hi := cbAddr idx + count * (if wide then 8 else 4), write := false },
   { space := cbSpace rows, lo := cbAddr rows, hi := cbAddr rows + (count - 1) * stride + rowBytes, write := !scatter }]

/-- An engine operation begins. -/
def memBody (f : FmtX) (scatter : Bool) (d : TableDesc) (c : Ctx) (s : State) : Exit :=
  let a := c.src 1 true f.sb true 0
  match oneAccess c .load 0 32 a 32 s with
  | .ends e => e
  | .at_ t s =>
    match readOne c t 32 s with
    | .error e => .trap s e
    | .ok x =>
      match memForm d x with
      | none => .trap s { code := Trap.loadFault, mask := laneMask c.lanes, addr := a, det1 := 5 }
      | some (idx, rows, count, stride, tb) =>
        let wide := f.m.ty == 6
        match addLocks s c.core c.w.ctx c.w.grid c.w.team s.nextId (if scatter then 0x12D else 0x12C)
            (tableRanges scatter wide d.rowBytes idx rows count stride) with
        | none => .stall s
        | some s1 =>
          let o : TableOp :=
            { id := s.nextId, w := c.k, gid := c.w.grid, team := c.w.team, ctx := c.w.ctx, pc := c.pc, seq := c.w.opSeq,
              scatter := scatter, add := f.m.sub3.getLsbD 2, wide := wide, slot := handleSlot (handleOf c f.sa), descAt := d.at_,
              base := d.base, rows := d.rows, rowBytes := d.rowBytes, fmt := d.fmt, idx := idx, rowsAddr := rows, count := count,
              stride := stride, tb := tb, hot := d.hot, fault := none }
          .done (({ s1 with nextId := s.nextId + 1 }.updCore c.core (fun x =>
            { x with tableOps := x.tableOps ++ [o] })).updWave c.k (fun w => { w with opSeq := w.opSeq + 1 }))

/-! ## GATHER and SCATTER -/

def tableTy (f : FmtX) : Bool := f.m.ty == 8 || f.m.ty == 6

def sigGather (h : Hdr) (f : FmtX) (s : State) (c : Ctx) : Sig :=
  let mem := f.m.sub3.getLsbD 0
  let n := if mem then 1 else rowRegs s c f
  let p := predOf f f.sc.reg.toNat
  let g := sigX c.w16 h f
    { dst := if mem then .none else .vec n (if n = 1 then 1 else 2) false, a := .sca true,
      b := if mem then .sca true else .any (f.m.ty == 6), c := if f.m.sub3.getLsbD 1 then .pred else .unused, ty := tableTy f,
      tile := f.m.tile == 0, aux := f.m.aux == 0, sub3 := !f.m.sub3.getLsbD 2 && !(mem && f.m.sub3.getLsbD 1), sb := !mem }
  { g with
    dst := g.dst ++ (if p = 0 then [] else [.pred p 1])
    srcs := g.srcs.filter (fun o => o.file != .pred) ++ guardOpnd h }

def sigScatter (h : Hdr) (f : FmtX) (s : State) (c : Ctx) : Sig :=
  let mem := f.m.sub3.getLsbD 0
  let n := if mem then 1 else rowRegs s c f
  sigX c.w16 h f
    { dst := if f.m.sub3.getLsbD 1 then .pred else .none, a := .sca true, b := if mem then .sca true else .any (f.m.ty == 6),
      c := if mem then .unused else .win n (if n = 1 then 1 else 2) true false, ty := tableTy f, tile := f.m.tile == 0,
      aux := f.m.aux == 0, sub3 := !(mem && f.m.sub3.getLsbD 1) }

/-- The checks that both share: the handle (R273), `.add`'s format, the row of a register form (R275). -/
def tableBody (f : FmtX) (scatter : Bool) (reg : TableDesc → Ctx → State → Exit) (c : Ctx) (s : State) : Exit :=
  if c.lanes.isEmpty then .done s
  else
    match useHandle s c (handleOf c f.sa) with
    | .error t => .trap s t
    | .ok d =>
      if f.m.sub3.getLsbD 2 && !addFmt d.fmt then
        .trap s { code := Trap.matrixFormat, mask := laneMask c.lanes, det1 := 6 }
      else if f.m.sub3.getLsbD 0 then memBody f scatter d c s
      else if 64 < d.rowBytes then .trap s { code := Trap.illegalField, det1 := 2 }
      else reg d c s

def execGather (h : Hdr) (f : FmtX) (s : State) : Host.Outcome State Fault Refusal :=
  issue h notInSection (sigGather h f s) (tableBody f false (gatherBody h f (sigGather h f))) s

def execScatter (h : Hdr) (f : FmtX) (s : State) : Host.Outcome State Fault Refusal :=
  issue h notInSection (sigScatter h f s) (tableBody f true (scatterBody h f)) s

/-! ## TBLSTAT -/

def sigTblstat (h : Hdr) (f : FmtA) (c : Ctx) : Sig :=
  sigA c.w16 h f
    { plainMod f.m with dst := .sca 2 2 59, a := .sca true, ds := .one, sub := decide (f.m.sub.toNat < 3), sb := true }

/-- R278. -/
def tblstatBody (h : Hdr) (f : FmtA) (c : Ctx) (s : State) : Exit :=
  if c.lanes.isEmpty then .done s
  else
    match useHandle s c (handleOf c f.sa) with
    | .error t => .trap s t
    | .ok d =>
      let x := if f.m.sub.getLsbD 0 then d.version + 2 ^ 32 * d.rows else d.drops
      let answer (s : State) : Exit := .done (commitAlu s c (sigTblstat h f c) { writes := dstWr true h.dst true 0 x })
      if f.m.sub.getLsbD 1 then
        if s.writable (.dev (d.at_ + 40)) 8 then answer { s with mem := s.mem.writeNat (d.at_ + 40) 8 0 }
        else .stall (contestAll s (.dev (d.at_ + 40)) 8)
      else answer s

def execTblstat (h : Hdr) (f : FmtA) (s : State) : Host.Outcome State Fault Refusal :=
  issue h notInSection (sigTblstat h f) (tblstatBody h f) s

/-! ## The table unit -/

/-- The operation waits abandoned (R381). -/
def abandonTable (s : State) (core : Nat) (o : TableOp) (store : Bool) (va cause : Nat) : State :=
  engineFault (s.updCore core (fun x =>
    { x with tableOps := x.tableOps.map (fun p => if p.id = o.id then { p with fault := some (store, va, cause) } else p) }))
    core o.w o.ctx o.gid o.team o.pc store va cause 0 1

/-- The operation leaves: its locks go, its completion is not signalled (R383). -/
def dropTable (s : State) (core : Nat) (o : TableOp) : State :=
  (dropLocks s core o.id).updCore core (fun x => { x with tableOps := x.tableOps.filter (fun p => p.id != o.id) })

def failTable (s : State) (core : Nat) (o : TableOp) (code : Nat) : State :=
  copyFault (dropTable s core o) core o.w o.ctx o.gid o.team o.pc code 0

def byteRun (a n : Nat) : List Nat := (List.range n).map (a + ·)

/-- Bytes that an operation reads, or how it ends. -/
inductive TableRead where
  | ok (l : List Byte) (s : State)
  | ends (s : State)

def tableRead (s : State) (core : Nat) (o : TableOp) (space : Nat) (vas : List Nat) : TableRead :=
  match reach s (whoFor s core o.ctx o.gid o.team) .load space vas with
  | (.ok l, s) => .ok (l.map s.byteAt) s
  | (.fault va c, s) => .ends (abandonTable s core o false va c)
  | (.secure, s) => .ends (failTable s core o 2)
  | (.poisoned, s) => .ends (failTable s core o 3)
  | (.wait, s) => .ends s

/-- Writes `bytes(old)` at `vas`, counts the drops and completes: the rows are in place, the locks go, the barrier counts the sectors
(R225, R276). -/
def tableWrite (s : State) (core : Nat) (o : TableOp) (space drops : Nat) (vas : List Nat) (add : Bool)
    (bytes : List Byte → List Byte) : State :=
  match reach s (whoFor s core o.ctx o.gid o.team) .store space vas with
  | (.fault va c, s) => abandonTable s core o true va c
  | (.secure, s) => failTable s core o 2
  | (.poisoned, s) => failTable s core o 3
  | (.wait, s) => s
  | (.ok l, s) =>
    if add && l.any s.poisonedAt then failTable s core o 3
    else if !writableAll s o.ctx l then s
    else if (countDrops s o.descAt drops).isNone then contestAll s (.dev (o.descAt + 40)) 8
    else
      match signalBarrier s (whoFor s core o.ctx o.gid o.team) o.tb (o.count * o.rowBytes / 32) with
      | .wait s => s
      | .fault va c => abandonTable s core o true va c
      | .stop code => failTable s core o code
      | .done s1 =>
        let s2 := writePlaces s1 core o.ctx (l.zip (bytes (l.map s.byteAt)))
        (dropTable ((countDrops s2 o.descAt drops).getD s2) core o).updWave o.w Wave.progress

/-- The lines of the hot rows that an operation gathers are read at their replicas (R274). -/
def readHot (s : State) (core : Nat) (o : TableOp) (rows : List Nat) : State :=
  let vas := (rows.filter o.hot.contains).flatMap (fun i =>
    (List.range (o.rowBytes / 128 + 1)).map (fun j => o.base + i * o.rowBytes + min (128 * j) (o.rowBytes - 1)))
  vas.foldl (fun s va =>
    match place s (whoFor s core o.ctx o.gid o.team) .load 0 va 1 with
    | (.ok t lease, s) => s.replicate core t lease
    | (_, s) => s) s

/-- All rows of the operation move (R276, R277). -/
def runTable (s : State) (core : Nat) (o : TableOp) : State :=
  let e := if o.wide then 8 else 4
  match tableRead s core o (cbSpace o.idx) (byteRun (cbAddr o.idx) (e * o.count)) with
  | .ends s => s
  | .ok l s1 =>
    let rows := (splitElems e o.count (bytesToNat l)).map (rowIndex o.wide o.rows)
    let drops := (rows.filter (·.isNone)).length
    let kept : List (Nat × Nat) := rows.zipIdx.filterMap (fun p => p.1.map (fun i => (p.2, i)))
    let tableRun (i : Nat) : List Nat := byteRun (o.base + i * o.rowBytes) o.rowBytes
    let ownRun (k : Nat) : List Nat := byteRun (cbAddr o.rowsAddr + k * o.stride) o.rowBytes
    if o.scatter then
      match tableRead s1 core o (cbSpace o.rowsAddr) ((kept.map (fun p => ownRun p.1)).flatten) with
      | .ends s => s
      | .ok src s2 =>
        if o.add then
          let w := codeWidth o.fmt / 8
          let n := o.rowBytes / w
          let sums := combineRows o.fmt [] (kept.zipIdx.map (fun (p : (Nat × Nat) × Nat) =>
            (p.1.1, p.1.2, splitElems w n (bytesToNat ((src.drop (p.2 * o.rowBytes)).take o.rowBytes)))))
          let new : List Nat := (sums.map (·.2.2)).flatten
          tableWrite s2 core o 0 drops ((sums.map (fun p => byteRun (o.base + p.2.1 * o.rowBytes) (w * n))).flatten) true
            (fun old => (new.zipIdx.map (fun p =>
              natToBytes w (atomicNew o.fmt 1 (bytesToNat ((old.drop (p.2 * w)).take w)) p.1))).flatten)
        else tableWrite s2 core o 0 drops ((kept.map (fun p => tableRun p.2)).flatten) false (fun _ => src)
    else
      match tableRead s1 core o 0 ((kept.map (fun p => tableRun p.2)).flatten) with
      | .ends s => s
      | .ok src s2 =>
        let place (k : Nat) : Option Nat := (kept.zipIdx.find? (fun (p : (Nat × Nat) × Nat) => p.1.1 == k)).map (·.2)
        let out : List Byte := ((List.range o.count).map (fun k =>
          match place k with
          | some j => (src.drop (j * o.rowBytes)).take o.rowBytes
          | none => List.replicate o.rowBytes 0)).flatten
        tableWrite (readHot s2 core o (kept.map (·.2))) core o (cbSpace o.rowsAddr) drops (((List.range o.count).map ownRun).flatten) false
          (fun _ => out)

/-- R225, R276, R381. -/
def execTableOpComplete (core id : Nat) (s : State) : Host.Outcome State Fault Refusal :=
  match (s.core core).tableOps.find? (fun o => o.id == id) with
  | none => .next s
  | some o => .next (if o.fault.isNone && !s.ctxHeld core o.ctx && engineSettled s o.w o.seq then runTable s core o else s)

end Sys2Proof.Machine
end

