-- ==== Sys2Proof/Machine/Convert.lean ====
section
/-! DEFINITION. Conversion (06 R180-R183, 03 R74, R75, R82, R83) and the amax registers (R184, R185). -/

namespace Sys2Proof.Machine

/-- Counts as a float operand: a float code or a scaled one (R67). -/
def floatClass (c : Nat) : Bool := decide (16 ≤ c) || isFloatCode c

/-- An element alone; slot code 15 reads its marker as 0 (R75). -/
def decodeElem (c x : Nat) : Val :=
  if isFloatCode c then decodeFloat c x
  else if c % 16 = 15 ∧ x % 16 = 8 then Val.posZero
  else Val.ofInt (decodeInt c x)

/-- The source value with its scale (R83). -/
def scaleIn (c : Nat) (scale x : Val) : Val × FlagBits :=
  if 16 ≤ c then
    let r := Val.mul x scale
    (r.1, r.2 ||| snanFlag x ||| snanFlag scale)
  else (x, 0)

/-- The destination scale (R83). -/
def scaleOut (c : Nat) (scale x : Val) : Val × FlagBits :=
  if 16 ≤ c then
    let r := Val.div x scale
    (r.1, r.2 ||| snanFlag x ||| snanFlag scale)
  else (x, 0)

/-- An integer value without class change (R82). -/
def intToInt (dc : Nat) (sat : Bool) : Val → Nat
  | .fin s n _ => reduceInt dc (sat || dc % 16 == 15) (signed s n)
  | _ => 0

/-- R82 after scaling: `srcFloat` is the class of the value. -/
def convertVal (dc mode : Nat) (sat srcFloat : Bool) (scale x : Val) : FRes :=
  if !srcFloat && !floatClass dc then (intToInt dc sat x, 0)
  else
    let y := scaleOut dc scale x
    let r := if isFloatCode dc then roundVal dc mode sat y.1 else floatToInt dc mode y.1
    (r.1, r.2 ||| y.2)

/-- R181 without the amax steps. -/
def convertElem (dc sc mode : Nat) (sat : Bool) (scale bits : Nat) : FRes :=
  let k := decodeFloat 1 scale
  let x := scaleIn sc k (decodeElem sc bits)
  let r := convertVal dc mode sat (floatClass sc) k x.1
  (r.1, r.2 ||| x.2)

/-- The amax update of a source value (R90); none for a NaN. -/
def amaxOf : Val → Option Word
  | .nan _ => none
  | v => some (BitVec.ofNat 32 (roundVal 1 2 false v.abs).1)

def amaxUpdate (k : Nat) (x : Val) : List (Nat × Word) × FlagBits :=
  match amaxOf x with
  | some w => ([(k, w)], 0)
  | none => ([], Flag.an)

/-- Legality of RND and SAT in conversions (R180). PACK to I4X and UNPK of it between integers count as integer-to-integer, although
R75 and R82 round there under the mode: the model's choice (log 113). -/
def cvtRnd (dc sc : Nat) (m : Mod) : Bool := if !floatClass sc && !floatClass dc then m.rnd == 0 else rndOk m

def cvtSat (dc sc : Nat) (m : Mod) : Bool := !m.sat || !(floatClass sc && !floatClass dc)

def cvtScale (dc sc : Nat) : SrcUse := if 16 ≤ dc ∨ 16 ≤ sc then .reg false else .unused

/-- The amax field of SB: EN and K, the other bits 0 (R180). -/
def amaxField (s : Src) : Bool := s.reg == 0 && s.kind == 0 && decide (s.k.toNat < 8)

/-- The register that a conversion updates (R60, R90). -/
def Ctx.amaxReg (c : Ctx) (en : Bool) (k : Nat) : Option Nat :=
  if en then some k
  else if c.w.wcw.getLsbD 7 then some (c.w.wcw.extractLsb' 5 2).toNat else none

def sigCvt (h : Hdr) (f : FmtA) (c : Ctx) : Sig :=
  let dc := f.m.ty.toNat
  let sc := f.m.sub.toNat
  sigA c.w16 h f
    { dst := .reg (isWide dc), a := .reg (isWide sc), b := .field (amaxField f.sb), c := cvtScale dc sc, ty := true,
      rnd := cvtRnd dc sc f.m, sat := cvtSat dc sc f.m, ds := .either, sub := true, lat := 4 }

/-- R181. -/
def cvtBody (h : Hdr) (f : FmtA) (c : Ctx) (_ : State) : Exit :=
  let dc := f.m.ty.toNat
  let sc := f.m.sub.toNat
  let bits := c.src 0 f.m.sa f.sa (isWide sc)
  let scale := c.src 2 f.m.sc f.sc false
  let r (l : Nat) : FRes := convertElem dc sc (c.mode f.m.rnd.toNat) f.m.sat (scale l) (bits l)
  let lanes := if f.m.ds then c.lanes.take 1 else c.lanes
  let am : List (List (Nat × Word) × FlagBits) :=
    match c.amaxReg (f.sb.k.getLsbD 2) (f.sb.k.toNat % 4) with
    | some k => lanes.map (fun l => amaxUpdate k (scaleIn sc (decodeFloat 1 (scale l)) (decodeElem sc (bits l))).1)
    | none => []
  let a := c.floatAlu f.m.ds h.dst dc r
  .alu { a with flags := a.flags ||| orAll (am.map (·.2)), amax := (am.map (·.1)).flatten }

def execCvt (h : Hdr) (f : FmtA) (s : State) : Host.Outcome State Fault Refusal := issue h always (sigCvt h f) (cvtBody h f) s

/-! ## I4X groups -/

def roundedOf (mode : Nat) (v : Val) : Int × Bool :=
  match v with
  | .nan _ => (0, false)
  | .inf s => (if s then -8 else 8, false)
  | v => (roundInt mode v).getD (0, false)

/-- Index of the element of largest magnitude, the lowest on a tie (R75). -/
def largest : Nat → List Val → Nat × Val
  | i, [] => (i, Val.posZero)
  | i, v :: t =>
    let v := if v.isNan then Val.posZero else v.abs
    let r := largest (i + 1) t
    match t with
    | [] => (i, v)
    | _ => if Val.cmp v r.2 < 0 then r else (i, v)

/-- R75: a group's 16 bits and flags. -/
def encodeI4x (mode : Nat) (x : List Val) : FRes :=
  let r := x.map (roundedOf mode)
  let at_ (i : Nat) : Int := (r.getD (i % 4) (0, false)).1
  let base := orAll (x.map (fun v => Flag.when_ v.isNan Flag.iv)) ||| Flag.when_ (r.any (·.2)) Flag.nx
  let nib (v : Int) : Nat := wrapBits 4 v
  if r.all (fun p => decide (-7 ≤ p.1) && decide (p.1 ≤ 7)) then
    (nib (at_ 0) + 16 * nib (at_ 1) + 256 * nib (at_ 2) + 4096 * nib (at_ 3), base)
  else
    let j := (largest 0 x).1
    let o := roundVal 4 mode true (x.getD j Val.posZero)
    let step := decide (j = 3) && o.1 % 16 == 8
    let b := if step then o.1 - 1 else o.1
    let k := at_ (j + 3)
    let kc := clampInt 15 k
    let lost (i : Nat) : Bool :=
      let v := x.getD ((j + i) % 4) Val.posZero
      !v.isNan && !v.isZero
    let put (i v : Nat) : Nat := v * 16 ^ ((j + i) % 4)
    (put 0 8 + put 2 (b / 16) + put 1 (b % 16) + put 3 (nib kc),
      base ||| o.2 ||| Flag.when_ step Flag.nx ||| Flag.when_ (decide (kc ≠ k)) Flag.ofl
        ||| Flag.when_ (lost 1 || lost 2) Flag.nx)

/-- R74: a group's four values, each with its class. -/
def decodeI4x (g : Nat) : List (Val × Bool) :=
  let slot (i : Nat) : Nat := g / 16 ^ (i % 4) % 16
  let plain (i : Nat) : Val := Val.ofInt (decodeInt 14 (slot i))
  match (List.range 4).find? (fun i => slot i == 8) with
  | none => (List.range 4).map (fun i => (plain i, false))
  | some j =>
    (List.range 4).map (fun i =>
      if i = j then (decodeFloat 4 (slot (j + 2) * 16 + slot (j + 1)), true)
      else if i = (j + 3) % 4 then (if slot i = 8 then Val.posZero else plain i, false)
      else (Val.posZero, false))

/-! ## PACK and UNPK -/

/-- Elements of a packed register (R182). -/
def packCount (c : Nat) : Nat := if codeWidth c ≤ 16 then 32 / codeWidth c else 1

/-- R182. A source window of several registers is of vector registers (log 132). -/
def sigPack (h : Hdr) (f : FmtA) (c : Ctx) : Sig :=
  let dc := f.m.ty.toNat
  let sc := f.m.sub.toNat
  let n := packCount dc * (if isWide sc then 2 else 1)
  sigA c.w16 h f
    { dst := .reg (isWide dc), a := if packCount dc = 1 then .reg (isWide sc) else .win n 2 true (isWide sc), c := cvtScale dc sc,
      ty := true, rnd := cvtRnd dc sc f.m, sat := cvtSat dc sc f.m, sub := true, lat := 4 }

/-- Element `i` of a window, by its code. -/
def Ctx.winElem (c : Ctx) (f : FmtA) (sc i lane : Nat) : Nat :=
  if isWide sc then
    (c.regAt 0 f.m.sa f.sa (2 * i) lane).toNat + 2 ^ 32 * (c.regAt 0 f.m.sa f.sa (2 * i + 1) lane).toNat
  else (c.regAt 0 f.m.sa f.sa i lane).toNat

/-- R182 in one lane. -/
def packLane (dc sc mode : Nat) (sat : Bool) (scale : Nat) (x : List Nat) : FRes :=
  let k := decodeFloat 1 scale
  if dc % 16 = 15 then
    let v := x.map (fun b =>
      let a := scaleIn sc k (decodeElem sc b)
      let o := scaleOut dc k a.1
      (o.1, a.2 ||| o.2 ||| snanFlag a.1))
    let g0 := encodeI4x mode ((v.take 4).map (·.1))
    let g1 := encodeI4x mode ((v.drop 4).map (·.1))
    (g0.1 + 2 ^ 16 * g1.1, g0.2 ||| g1.2 ||| orAll (v.map (·.2)))
  else
    let r := x.map (convertElem dc sc mode sat scale)
    let w := codeWidth dc
    (if w ≤ 16 then r.zipIdx.foldl (fun a p => a + p.1.1 % 2 ^ w * 2 ^ (w * p.2)) 0 else (r.headD (0, 0)).1,
      orAll (r.map (·.2)))

def execPack (h : Hdr) (f : FmtA) (s : State) : Host.Outcome State Fault Refusal :=
  let dc := f.m.ty.toNat
  let sc := f.m.sub.toNat
  issue h always (sigPack h f)
    (fun c _ =>
      let r (l : Nat) := packLane dc sc (c.mode f.m.rnd.toNat) f.m.sat (c.src 2 f.m.sc f.sc false l)
        ((List.range (packCount dc)).map (fun i => c.winElem f sc i l))
      .alu { writes := c.dstAll false h.dst (isWide dc) (fun l => (r l).1), flags := orAll (c.lanes.map (fun l => (r l).2)) }) s

def sigUnpk (h : Hdr) (f : FmtA) (c : Ctx) : Sig :=
  let dc := f.m.ty.toNat
  let sc := f.m.sub.toNat
  let n := packCount sc * (if isWide dc then 2 else 1)
  sigA c.w16 h f
    { dst := if packCount sc = 1 then .reg (isWide dc) else .vec n 2 (isWide dc), a := .reg (isWide sc), c := cvtScale dc sc, ty := true,
      rnd := cvtRnd dc sc f.m, sat := cvtSat dc sc f.m, sub := true, lat := 4 }

/-- R183 in one lane: every element's result. -/
def unpkLane (dc sc mode : Nat) (sat : Bool) (scale bits : Nat) : List FRes :=
  if sc % 16 = 15 then
    let k := decodeFloat 1 scale
    (decodeI4x (bits % 2 ^ 16) ++ decodeI4x (bits / 2 ^ 16 % 2 ^ 16)).map (fun p =>
      let x := scaleIn sc k p.1
      let r := convertVal dc mode sat (p.2 || decide (16 ≤ sc)) k x.1
      (r.1, r.2 ||| x.2))
  else
    (List.range (packCount sc)).map (fun i => convertElem dc sc mode sat scale (bits / 2 ^ (codeWidth sc * i)))

def execUnpk (h : Hdr) (f : FmtA) (s : State) : Host.Outcome State Fault Refusal :=
  let dc := f.m.ty.toNat
  let sc := f.m.sub.toNat
  let d := if isWide dc then 2 else 1
  issue h always (sigUnpk h f)
    (fun c _ =>
      let r (l : Nat) := unpkLane dc sc (c.mode f.m.rnd.toNat) f.m.sat (c.src 2 f.m.sc f.sc false l)
        (c.src 0 f.m.sa f.sa (isWide sc) l)
      .alu
        { writes := (c.lanes.map (fun l => ((r l).zipIdx.map (fun p =>
            dstWr false (h.dst + BitVec.ofNat 8 (d * p.2)) (isWide dc) l (extendElem dc p.1.1))).flatten)).flatten
          flags := orAll ((c.lanes.map (fun l => (r l).map (·.2))).flatten) }) s

/-! ## Amax registers -/

/-- An update of one of the registers has been issued and not yet retired (R184). -/
def amaxPending (w : Wave) (p : Nat → Bool) : Bool :=
  w.pend.any (fun x => x.amax.any (fun a => p a.1)) || w.late.any (fun x => x.amax.any (fun a => p a.1))

def sigAmaxrd (h : Hdr) (f : FmtA) (c : Ctx) : Sig :=
  let k := f.m.sub.toNat
  sigA c.w16 h f
    { plainMod f.m with dst := .reg false, ds := .either, sub := decide (k < 4), lat := 2 }

def execAmaxrd (h : Hdr) (f : FmtA) (s : State) : Host.Outcome State Fault Refusal :=
  let k := f.m.sub.toNat
  issue h always (sigAmaxrd h f)
    (fun c s =>
      if !c.lanes.isEmpty && amaxPending c.w (fun i => i == k) then .stall s
      else .alu { writes := c.dstAll f.m.ds h.dst false (fun _ => (SMap.get 0#32 c.w.amax k).toNat) }) s

def sigAmaxclr (h : Hdr) (f : FmtA) (c : Ctx) : Sig :=
  let n := f.m.sub
  sigA c.w16 h f { plainMod f.m with sub := n != 0 && decide (n.toNat < 16) }

/-- R185. -/
def execAmaxclr (h : Hdr) (f : FmtA) (s : State) : Host.Outcome State Fault Refusal :=
  let n := f.m.sub
  issue h always (sigAmaxclr h f)
    (fun c s =>
      if c.lanes.isEmpty then .done s
      else if amaxPending c.w (fun i => n.getLsbD i) then .stall s
      else
        .done (s.updWave c.k (fun w =>
          { w with amax := ((List.range 4).filter (fun i => n.getLsbD i)).foldl (fun m i => SMap.set 0#32 m i 0#32) w.amax }))) s

end Sys2Proof.Machine
end

