-- ==== Sys2Proof/Machine/Wake.lean ====
section
/-! DEFINITION. When a waiting gang goes on: REGANG (01 R22), barriers (05 R146), launches (R151), batches (08 R263),
transaction barriers (R271), tiles (09 R316). `settle` follows every step; waits that complete by an event of their own
(queues, fences, SLEEP, COMBCFG, SHIP, the baton) are left to it. -/

namespace Sys2Proof.Machine

/-- The waves of a team, resident or saved. -/
def teamWaves (s : State) (t : Team) : List Wave :=
  match t.res with
  | .resident => s.waves.filter (fun w => !w.section? && w.grid == t.gid && w.team == t.num)
  | .ended => []
  | _ => t.saved

def Wave.finished (w : Wave) : Bool := w.quads.all (·.ended)

/-- Every live gang of the wave waits at this barrier; an ended wave has arrived (R145, R146). -/
def waveAt (w : Wave) (kind n : Nat) : Bool := w.gangs.all (fun g => g.wait == .barrier kind n)

def teamAt (s : State) (t : Team) (kind n : Nat) : Bool := t.terminated || (teamWaves s t).all (fun w => waveAt w kind n)

/-- The barrier that a waiting gang of the wave stands at is complete (R146). -/
def barrierDone (s : State) (w : Wave) (kind n : Nat) : Bool :=
  match s.team? w.grid w.team with
  | none => waveAt w kind n
  | some t =>
    let c := s.clusterSize w
    match kind with
    | 0 => teamAt s t 0 n
    | 1 => (s.teams.filter (fun u => u.gid == t.gid && u.num / c == t.num / c)).all (fun u => teamAt s u 1 n)
    | _ => (s.teams.filter (fun u => u.gid == t.gid)).all (fun u => teamAt s u 2 n)

/-- Batches that a WAITB of `n` covers and that are incomplete (R263). -/
def waitbOpen (w : Wave) (n : Nat) : Bool := w.batches.any (fun b => decide ((n + 65536 - b.1.toNat) % 65536 < 32768))

/-- A command of the team on one of the tiles, issued before `upTo`, is in an engine's list or saved with the team: an MMA, which has then not
retired (R290, R316); with `all`, ACCZ and ACCWR as well, which take effect in issue order (R284). -/
def tileBusy (s : State) (gid team : Nat) (tiles : BitVec 16) (upTo : Nat) (all : Bool) : Bool :=
  s.engCmds.any (fun c =>
    c.gid == gid && c.team == team && decide (c.id < upTo)
    && (match c.kind with
      | .mma ty t _ _ _ _ _ _ => tiles.getLsbD t || ((ty == 0 || ty == 16) && tiles.getLsbD (t + 1))
      | .accz t tag => all && (tiles.getLsbD t || (tag == 2 && tiles.getLsbD (t + 1)))
      | .accwr t wide _ => all && (tiles.getLsbD t || (wide && tiles.getLsbD (t + 1)))
      | _ => false))

/-- The wait's condition holds now. REGANG is judged for its whole set below. -/
def waitDone (s : State) (w : Wave) (g : Gang) : Bool :=
  match g.wait with
  | .barrier kind n => barrierDone s w kind n
  | .waitb n => !waitbOpen w n
  | .tbwait t parity _ => (s.byteAt t).getLsbD 0 != parity
  | .launch t _ => s.byteAt t != 0
  | .ship id => (s.ships.find? (fun o => o.id == id)).isNone
  | .acc tiles upTo => !tileBusy s w.grid w.team tiles upTo false
  | _ => false

/-- Conditions of the waits with events of their own, for a team that is not resident (R34). -/
def waitCouldEnd (s : State) (w : Wave) (g : Gang) : Bool :=
  waitDone s w g ||
    match g.wait with
    | .queue push q n _ =>
      (match readQueue s q with
        | some h => if push then decide (n ≤ roomOf s q h) else decide (n ≤ h.count)
        | none => false)
    | .baton => (s.core (s.engineCore w)).eng.baton == some w.key
    | _ => false

/-! ## REGANG -/

def Wait.named : Wait → Option (BitVec 24)
  | .regang n => some n
  | _ => Option.none

/-- Live quads that a mask names. -/
def Wave.namedLive (w : Wave) (n : BitVec 24) : List Nat :=
  (List.range w.quads.length).filter (fun q => n.getLsbD q && w.quadLive q)

/-- Every quad of the list waits at some REGANG. -/
def Wave.allRegang (w : Wave) (l : List Nat) : Bool :=
  l.all (fun q => match w.gangOf q with | some g => g.wait.named.isSome | none => false)

def Wave.samePc (w : Wave) (l : List Nat) : Bool := l.all (fun q => w.pcOf q == w.pcOf (l.headD 0))

/-- The later of two issues, by when the next one is due. -/
def LastIssue.later (a b : LastIssue) : LastIssue := if a.cyc + max a.stall a.beats < b.cyc + max b.stall b.beats then b else a

/-- The quads leave REGANG as one gang (R22); a gang of which some wait for another set keeps those. The new gang goes on when the last
of its REGANGs allows (R112), and what its parts have not yet received is interlocked (R114). -/
def Wave.regroup (w : Wave) (l : List Nat) : Wave :=
  let parts := w.gangs.filter (fun g => g.quads.any l.contains)
  let rest := (w.gangs.map (fun g => { g with quads := g.quads.filter (fun q => !l.contains q) })).filter (fun g => !g.quads.isEmpty)
  let g : Gang :=
    { quads := l, wait := .none, yielding := false, waitSince := 0, replay := none, owed := none, released := false, bound := none, stalledAt := none,
      hist := ((parts.map (·.hist)).flatten).map (fun h => { h with inter := true })
      last := (parts.filterMap (·.last)).foldl (fun b x => match b with | some y => some (y.later x) | none => some x) none }
  { w with gangs := g :: rest }

/-- What a wave's REGANG waits come to: a complete set, or a set whose quads wait at different PCs. -/
inductive Regang where
  | idle
  | complete (l : List Nat)
  | deadlock (g : Gang)
  deriving DecidableEq, Repr

/-- The live quads that a waiting gang's REGANG names, when each of them waits at some REGANG. -/
def Wave.regangSet (w : Wave) (g : Gang) : Option (List Nat) :=
  match g.wait.named with
  | none => none
  | some n => if w.allRegang (w.namedLive n) then some (w.namedLive n) else none

/-- A set that is complete leaves before any other is judged: it may free quads that another waits for. -/
def Wave.regangState (w : Wave) (l : List Gang) : Regang :=
  match (l.filterMap w.regangSet).find? w.samePc with
  | some q => .complete q
  | none =>
    match l.find? (fun g => (w.regangSet g).isSome) with
    | some g => .deadlock g
    | none => .idle

/-- REGANG of one wave completes, or raises ILLEGAL_WAIT detail 1 (R22). The record names the first such gang of the wave's list and
its live lanes, which the spec does not choose among the waiting ones (log 106). -/
def settleRegang (s : State) (k : WaveKey) : State :=
  match s.wave? k with
  | none => s
  | some w =>
    match w.regangState w.gangs with
    | .idle => s
    | .complete l => s.updWave k (fun w => (w.regroup l).completeWait (l.headD 0))
    | .deadlock g =>
      let q := g.quads.headD 0
      park s k
        (({ code := Trap.illegalWait, mask := laneMask (w.liveLanes g), det1 := 1 } : TrapInfo).at_ (w.pcOf q))

/-! ## Engine marks -/

/-- Marks at the head of the engine's list take effect (R293, R309). -/
def settleMarks (e : Engine) : List Cmd → Engine
  | [] => { e with cmds := [] }
  | c :: t =>
    match c.kind with
    | .inval o => settleMarks (e.disown o) t
    | .restore l =>
      settleMarks
        (l.foldl (fun (e : Engine) (p : Nat × BBuf) => if p.1 = 0 then { e with b0 := p.2 } else { e with b1 := p.2 }) e) t
    | _ => { e with cmds := c :: t }

/-! ## Settling -/

/-- A yielded team one of whose yielding waits could end becomes eligible (R34, R364), unless a cluster peer has failed (R35). -/
def settleTeam (s : State) (t : Team) : State :=
  match t.res with
  | .yielded false =>
    if !t.terminated && !t.events.any (fun e => e.code == Trap.clusterAbort)
        && t.saved.any (fun w => w.gangs.any (fun g => g.yielding && waitCouldEnd s w g)) then
      s.updTeam t.gid t.num (fun t => { t with res := .yielded true, eligibleAt := s.cyc })
    else s
  | _ => s

/-- A barrier that completes lets go the waves of saved teams as well, which have arrived (R146). -/
def settleSaved (s a : State) (t : Team) : State :=
  let done (w : Wave) : List Nat :=
    (w.gangs.filter (fun g => (match g.wait with | .barrier _ _ => true | _ => false) && waitDone s w g)).map (fun g => g.quads.headD 0)
  if t.res = .resident ∨ t.saved.all (fun w => (done w).isEmpty) then a
  else
    a.updTeam t.gid t.num (fun t =>
      { t with saved := t.saved.map (fun w => if w.sched = .trapped then w else (done w).foldl Wave.completeWait w) })

/-- The scope of a section: device, or fabric when its home and its sender are on different devices (R255). -/
def sectionScope (s : State) (o : ShipOp) (lane : Nat) : Nat :=
  match o.reqs.find? (fun r => r.lane == lane) with
  | some r => if r.rank = s.fabric.rank ∧ o.sender.isNone then 4 else 5
  | none => 4

/-- A section that has ended leaves its Benuri core once its release has completed; its result waits for the sender. -/
def settleSection (s : State) (w : Wave) : State :=
  match w.info with
  | some i =>
    match i.outcome, s.ships.find? (fun o => o.id == i.ship) with
    | some out, some o =>
      if fenceReady s w (sectionScope s o i.lane) w.opSeq then
        let s := if o.tokens.isSome then
            s.updBenuri (w.key.core - 256) (fun b => { b with held := b.held ++ [(o.id, i.lane)] })
          else s
        { s with
          waves := s.waves.filter (fun x => x.key != w.key)
          ships := s.ships.map (fun o =>
            if o.id = i.ship then
              { o with reqs := o.reqs.map (fun r => if r.lane = i.lane then { r with result := some out } else r) }
            else o) }
      else s
    | some _, none => { s with waves := s.waves.filter (fun x => x.key != w.key) }
    | none, _ => s
  | none => s

/-- What becomes possible after a step: all waits are judged on the state the step left; a connection entry that the driver
has cleared is no longer in error (R414). -/
def settle (s : State) : State :=
  let s1 := s.waves.foldl (fun a w =>
    if w.sched = .trapped then a
    else
      let done := (w.gangs.filter (waitDone s w)).map (fun g => g.quads.headD 0)
      if done.isEmpty then a else a.updWave w.key (fun w => done.foldl Wave.completeWait w))
    (s.teams.foldl (settleSaved s) (s.teams.foldl settleTeam s))
  let s2 := s1.waves.foldl (fun a w => if w.gangs.any (fun g => g.wait.named.isSome) then settleRegang a w.key else a) s1
  let s3 := s2.waves.foldl settleSection (s2.teams.foldl settleTeam s2)
  { s3 with
    io := { s3.io with
      broken := s3.io.broken.filter (fun (p : Nat × Nat) => s3.mem.readNat ((s3.part p.1).conBase.toNat + 64 * p.2) 1 % 2 == 1) }
    cores := s3.cores.map (fun c =>
      match c.eng.cmds with
      | { kind := .inval _, .. } :: _ => { c with eng := settleMarks c.eng c.eng.cmds }
      | { kind := .restore _, .. } :: _ => { c with eng := settleMarks c.eng c.eng.cmds }
      | _ => c) }

end Sys2Proof.Machine
end

