-- ==== Sys2Proof/Machine/Matrix.lean ====
section
/-! DEFINITION. The matrix engine's instructions (09 R283-R318): the baton, the commands as they enter the engine's list, and
the accumulator reads. Machine/Engine.lean runs the commands. -/

namespace Sys2Proof.Machine

/-! ## Formats -/

/-- Format codes that the engine accepts (R285). -/
def engineTy (ty : BitVec 5) : Bool := !(decide (6 ≤ ty.toNat % 16) && decide (ty.toNat % 16 < 10))

/-- Class of a code (R285): 0 F64, 1 float, 2 integer, 3 outlier. -/
def engineClass (ty : Nat) : Nat := if ty % 16 = 0 then 0 else if 16 ≤ ty ∨ ty < 6 then 1 else if ty = 15 then 3 else 2

/-- The accumulator's tag (R285, R288): 0 F32, 1 I32, 2 F64. -/
def pairing (a b : Nat) : Option Nat :=
  let small (t : Nat) : Bool := t == 14 || t == 15
  match engineClass a, engineClass b with
  | 0, 0 => some 2
  | 1, 1 => some 0
  | 2, 2 => some 1
  | 1, _ => if small b then some 0 else none
  | _, 1 => if small a then some 0 else none
  | _, _ => none

/-- K and the bytes of a B row (R286). -/
def depthOf (bfmt : Nat) : Nat := 1024 / codeWidth bfmt

def brow (bfmt : Nat) : Nat := 8 * codeWidth bfmt

/-- Bytes of one A row against a B buffer. -/
def arow (ty bfmt : Nat) : Nat := depthOf bfmt * codeWidth ty / 8

/-- Tag of TYPE 1, 8 or 0 (R312, R313). -/
def tagOf (ty : BitVec 5) : Option (BitVec 2) := if ty = 1 then some 0 else if ty = 8 then some 1 else if ty = 0 then some 2 else none

/-! ## Tiles -/

/-- The physical tile of a team's tile (R289). -/
def tileOf (s : State) (gid team n : Nat) : Option Nat :=
  (s.team? gid team).bind (fun t => (t.tiles.find? (fun p => p.1 == n)).map (·.2))

/-- The tile, and for a 64-bit accumulator its partner, lie in the kernel's mask (R289, R301). -/
def tileOk (s : State) (w : Wave) (n : Nat) (f64 : Bool) : Bool :=
  (tileOf s w.grid w.team n).isSome && (!f64 || (n % 2 == 0 && (tileOf s w.grid w.team (n + 1)).isSome))

def Engine.tile (e : Engine) (p : Nat) : Tile := e.tiles.getD p Tile.reset

def Engine.updTile (e : Engine) (p : Nat) (f : Tile → Tile) : Engine := { e with tiles := e.tiles.set p (f (e.tile p)) }

def Engine.cell (e : Engine) (p i : Nat) : Word := SMap.get 0#32 (e.tile p).cells i

def Engine.setCell (e : Engine) (p i : Nat) (x : Word) : Engine :=
  e.updTile p (fun t => { t with cells := SMap.set 0#32 t.cells i x })

/-- An accumulator element (R288): cell `i` of tile `p`, or of the pair. -/
def Engine.elem (e : Engine) (wide : Bool) (p i : Nat) : Nat :=
  (e.cell p i).toNat + if wide then (e.cell (p + 1) i).toNat * 2 ^ 32 else 0

def Engine.setElem (e : Engine) (wide : Bool) (p i x : Nat) : Engine :=
  let e := e.setCell p i (BitVec.ofNat 32 x)
  if wide then e.setCell (p + 1) i (BitVec.ofNat 32 (x / 2 ^ 32)) else e

/-! ## Issue of engine instructions -/

def Ctx.eng (c : Ctx) (s : State) : Engine := (s.core (s.engineCore c.w)).eng

/-- R296: the wave holds the baton; with no lane active the instruction only goes on. -/
def holding (body : Ctx → State → Exit) (c : Ctx) (s : State) : Exit :=
  if c.lanes.isEmpty then .done s
  else if (c.eng s).baton = some c.k then body c s
  else .trap s { code := Trap.baton, mask := laneMask c.lanes, det1 := 1 }

def Cmd.isMark (c : Cmd) : Bool :=
  match c.kind with
  | .inval _ => true
  | .restore _ => true
  | _ => false

/-- One command runs and 32 wait (R283, R284). -/
def engineFull (e : Engine) : Bool := decide (33 ≤ (e.cmds.filter (fun c => !c.isMark)).length)

/-- A command enters the list with its locks (R222, R284); it waits for room. -/
def enterCommand (c : Ctx) (opcode : Nat) (locks : List Range) (k : CmdKind) (s : State) : Exit :=
  let core := s.engineCore c.w
  if engineFull (s.core core).eng then .stall s
  else
    match addLocks s core c.w.ctx c.w.grid c.w.team s.nextId opcode locks with
    | none => .stall s
    | some s1 =>
      let cmd : Cmd :=
        { id := s.nextId, w := c.k, gid := c.w.grid, team := c.w.team, ctx := c.w.ctx, pc := c.pc, seq := c.w.opSeq,
          ntm := c.w.wcw.getLsbD 4, kind := k, started := false, granule := 0, seen := [], stop := none }
      .done (({ s1 with nextId := s.nextId + 1 }.updEng core (fun e => { e with cmds := e.cmds ++ [cmd] })).updWave c.k (fun w =>
        { w with opSeq := w.opSeq + 1 }))

/-- Space and window faults, which need no translation (R64, R105, R201). -/
def spaceCause (s : State) (c : Ctx) (space va n : Nat) : Option Nat :=
  if space = 1 then
    let who := whoOf s c.w
    match placeC s who.core who.priv who.gid who.team who.sect va n with
    | .fault x => some x
    | .ok _ _ => none
  else if 2 ^ 57 ≤ va then some 4 else none

/-- Alignment, range locks and space of a command's addresses (R301, R308). -/
def commandCheck (s : State) (c : Ctx) (write : Bool) (space align : Nat) (l : List Acc) : Option TrapInfo :=
  match accessChecks s c write space align l with
  | some t => some t
  | none =>
    let bad := l.filterMap (fun a => (spaceCause s c space a.va a.size).map (fun x => (a, x)))
    match bad with
    | [] => none
    | (a, x) :: _ =>
      some { code := if write then Trap.storeFault else Trap.loadFault, mask := laneMask (bad.map (fun (p : Acc × Nat) => p.1.lane)),
             addr := a.va, det1 := x }

def TrapInfo.all (t : TrapInfo) (c : Ctx) : TrapInfo := { t with mask := laneMask c.lanes }

def formatTrap (c : Ctx) (n : Nat) : TrapInfo := { code := Trap.matrixFormat, mask := laneMask c.lanes, det1 := n }

/-! ## The baton -/

def sigBtake (h : Hdr) (f : FmtA) (c : Ctx) : Sig := sigA c.w16 h f (plainMod f.m)

/-- R292. -/
def execBtake (h : Hdr) (f : FmtA) (s : State) : Host.Outcome State Fault Refusal :=
  issue h notInSection (sigBtake h f)
    (fun c s =>
      let e := s.engineCore c.w
      if c.lanes.isEmpty || (s.core e).eng.baton == some c.k then .done s
      else if (s.core e).eng.baton.isNone then .done (takeBaton s e c.k)
      else .block (takeBaton s e c.k) .baton) s

/-- The wave that the scalar names (R293). -/
def passTo (s : State) (c : Ctx) (x : Nat) : Option WaveKey :=
  let e := s.engineCore c.w
  let span := ((s.waveTeam c.w).map (·.span)).getD false
  if x.testBit 7 && !span then none
  else some ⟨if x.testBit 7 then e + 1 else e, field x 1 0, field x 6 2⟩

/-- R293. -/
def bpassBody (f : FmtA) (c : Ctx) (s : State) : Exit :=
  if c.lanes.isEmpty then .done s
  else if (c.eng s).baton ≠ some c.k then .trap s { code := Trap.baton, mask := laneMask c.lanes, det1 := 3 }
  else
    .done (passBaton s (s.engineCore c.w) (if f.m.sub = 1 then passTo s c (c.w.rdS f.sa.reg.toNat).toNat else none))

def sigBpass (h : Hdr) (f : FmtA) (c : Ctx) : Sig :=
  sigA c.w16 h f
    { plainMod f.m with a := if f.m.sub = 1 then .sca false else .unused, sub := decide (f.m.sub.toNat < 2) }

def execBpass (h : Hdr) (f : FmtA) (s : State) : Host.Outcome State Fault Refusal :=
  issue h notInSection (sigBpass h f)
    (bpassBody f) s

/-! ## BLOAD and BSWAP -/

def bloadLocks (space src stride fmt : Nat) (scales : Nat) : List Range :=
  [{ space := space, lo := src, hi := src + (depthOf fmt - 1) * stride + brow fmt, write := false }]
    ++ if 16 ≤ fmt then [{ space := space, lo := scales, hi := scales + 256, write := false }] else []

/-- R297. -/
def bloadBody (f : FmtX) (c : Ctx) (s : State) : Exit :=
  let comb := f.m.sub3.getLsbD 0
  let space := if comb then 1 else 0
  let fmt := f.m.ty.toNat
  let src := c.src 0 true f.sa (!comb) 0
  let stride := c.src 1 true f.sb false 0
  let scales := if 16 ≤ fmt then c.src 2 true f.sc (!comb) 0 else 0
  let odd := if src % 32 ≠ 0 then some src else if scales % 32 ≠ 0 then some scales else none
  match odd with
  | some a => .trap s { code := Trap.alignment, mask := laneMask c.lanes, addr := a }
  | none =>
    if stride % 32 ≠ 0 ∨ stride < brow fmt then .trap s (formatTrap c 4)
    else
      let locks := bloadLocks space src stride fmt scales
      match commandCheck s c false space 1 (locks.map (fun r => { lane := c.lanes.headD 0, va := r.lo, size := r.hi - r.lo })) with
      | some t => .trap s (t.all c)
      | none => enterCommand c 0x142 locks (.bload comb src stride scales f.m.ty) s

def sigBload (h : Hdr) (f : FmtX) (c : Ctx) : Sig :=
  let wide := !f.m.sub3.getLsbD 0
  sigX c.w16 h f
    { a := .sca wide, b := .sca false, c := if 16 ≤ f.m.ty.toNat then .sca wide else .unused, ty := engineTy f.m.ty,
      tile := f.m.tile == 0, aux := f.m.aux == 0, sub3 := decide (f.m.sub3.toNat < 2) }

def execBload (h : Hdr) (f : FmtX) (s : State) : Host.Outcome State Fault Refusal :=
  issue h notInSection (sigBload h f)
    (holding (bloadBody f)) s

/-- Every field of MODX zero. -/
def plainX (m : ModX) : UseX := { ty := m.ty == 0, tile := m.tile == 0, aux := m.aux == 0, sub3 := m.sub3 == 0 }

def sigBswap (h : Hdr) (f : FmtX) (c : Ctx) : Sig := sigX c.w16 h f (plainX f.m)

/-- R299. -/
def execBswap (h : Hdr) (f : FmtX) (s : State) : Host.Outcome State Fault Refusal :=
  issue h notInSection (sigBswap h f)
    (holding (fun c s => enterCommand c 0x143 [] .bswap s)) s

/-! ## MMA -/

/-- What a B buffer will hold, as far as MMA's checks need it (R301). -/
structure BState where
  valid : Bool
  owner : Option (Nat × Nat)
  fmt : Nat
  deriving DecidableEq, Repr

def BBuf.state (b : BBuf) : BState := { valid := b.valid, owner := b.owner, fmt := b.fmt.toNat }

def BState.disown (b : BState) (o : Nat × Nat) : BState := if b.owner = some o then b else { b with valid := false }

/-- `n` further blocks of a long MMA pass through the buffers. -/
def longBufs (new : BState) (p : BState × BState) (n : Nat) : BState × BState :=
  if n = 0 then p else if n = 1 then (new, p.1) else (new, new)

/-- b0 and b1 after a command (R284, R299, R304). -/
def afterCmd (p : BState × BState) (c : Cmd) : BState × BState :=
  let own (fmt : Nat) : BState := { valid := true, owner := some (c.gid, c.team), fmt := fmt }
  match c.kind with
  | .bload _ _ _ _ fmt => (p.1, own fmt.toNat)
  | .bswap => (p.2, p.1)
  | .mma _ _ _ _ _ _ _ (some l) =>
    let new := own l.bfmt.toNat
    if l.stage = 0 then longBufs new p (l.nb - l.block)
    else longBufs new (if l.stage = 1 then (p.2, p.1) else p) (l.nb - l.block - 1)
  | .inval o => (p.1.disown o, p.2.disown o)
  | .restore l =>
    l.foldl (fun (p : BState × BState) (b : Nat × BBuf) => if b.1 = 0 then (b.2.state, p.2) else (p.1, b.2.state)) p
  | _ => p

/-- b0 as the MMA will find it. -/
def futureB0 (e : Engine) : BState := (e.cmds.foldl afterCmd (e.b0.state, e.b1.state)).1

/-- Bytes of a row that the checks and the lock use (R301). -/
def rowLength (s : State) (c : Ctx) (ty : Nat) (long : Option LongMma) : Nat :=
  match long with
  | some l => if (pairing ty l.bfmt.toNat).isSome then l.nb * arow ty l.bfmt.toNat else 32
  | none =>
    let b := futureB0 (c.eng s)
    if b.valid && b.owner == some (c.w.grid, c.w.team) && (pairing ty b.fmt).isSome then arow ty b.fmt else 32

/-- The long descriptor (R304), or the detail of MATRIX_FORMAT. -/
def longOf (x : Nat) : Except Nat LongMma :=
  let bfmt : BitVec 5 := BitVec.ofNat 5 (field x 220 216)
  let l : LongMma :=
    { sp := x.testBit 224, bfmt := bfmt, nb := field x 215 200, bblk := field x 191 160, bstr := field x 159 128,
      bscl := field x 127 64, bsrc := field x 63 0, block := 0, stage := 0 }
  if field x 255 225 ≠ 0 ∨ field x 223 221 ≠ 0 ∨ field x 199 192 ≠ 0 ∨ l.nb = 0 ∨ !engineTy bfmt ∨ l.bblk % 32 ≠ 0
      ∨ l.bstr % 32 ≠ 0 ∨ l.bscl % 32 ≠ 0 ∨ l.bsrc % 32 ≠ 0 then .error 5
  else if l.bstr < brow bfmt.toNat then .error 4
  else .ok l

/-- Locks and checks of the B side of a long MMA (R304). -/
def longLocks (l : LongMma) : List Range :=
  let f := l.bfmt.toNat
  let sp := if l.sp then 1 else 0
  [{ space := sp, lo := l.bsrc, hi := l.bsrc + (l.nb - 1) * l.bblk + (depthOf f - 1) * l.bstr + brow f, write := false }]
    ++ if 16 ≤ f then [{ space := sp, lo := l.bscl, hi := l.bscl + 256, write := false }] else []

/-- R301, R302: the active lanes' rows, one pass. -/
def mmaPass (f : FmtX) (long : Option LongMma) (c : Ctx) (s : State) : Exit :=
  let ty := f.m.ty.toNat
  let comb := f.m.sub3.getLsbD 1
  let space := if comb then 1 else 0
  let len := rowLength s c ty long
  let rows := c.lanes.map (fun l => (l, c.src 0 false f.sa (!comb) l))
  let more := (long.map longLocks).getD []
  match commandCheck s c false space 32 (rows.map (fun p => { lane := p.1, va := p.2, size := len })) with
  | some t => .trap s t
  | none =>
    match more.findSome? (fun r => commandCheck s c false r.space 1 [{ lane := c.lanes.headD 0, va := r.lo, size := r.hi - r.lo }]) with
    | some t => .trap s (t.all c)
    | none =>
      let addrs := rows.map (·.2)
      let lo := addrs.foldl min (addrs.headD 0)
      let scales := if 16 ≤ ty then c.lanes.map (fun l => (l, BitVec.ofNat 32 (c.src 1 f.m.sb f.sb false l))) else []
      enterCommand c 0x144 ({ space := space, lo := lo, hi := addrs.foldl max 0 + len, write := false } :: more)
        (.mma f.m.ty f.m.tile.toNat (f.m.sub3.getLsbD 0) comb f.m.aux.toNat rows scales long) s

def mmaBody (f : FmtX) (c : Ctx) (s : State) : Exit :=
  if f.m.sub3.getLsbD 2 then
    match oneAccess c .load 0 32 (c.src 2 true f.sc true 0) 32 s with
    | .ends e => e
    | .at_ t s =>
      match readOne c t 32 s with
      | .error e => .trap s e
      | .ok x =>
        match longOf x with
        | .error n => .trap s (formatTrap c n)
        | .ok l => mmaPass f (some l) c s
  else mmaPass f none c s

def sigMma (h : Hdr) (f : FmtX) (s : State) (c : Ctx) : Sig :=
  let ty := f.m.ty.toNat
  sigX c.w16 h f
    { a := .vec (!f.m.sub3.getLsbD 1), b := if 16 ≤ ty then .any false else .unused,
      c := if f.m.sub3.getLsbD 2 then .sca true else .unused, ty := engineTy f.m.ty,
      tile := tileOk s c.w f.m.tile.toNat (ty % 16 == 0), aux := true, sub3 := true }

def execMma (h : Hdr) (f : FmtX) (s : State) : Host.Outcome State Fault Refusal :=
  issue h notInSection (sigMma h f s)
    (holding (mmaBody f)) s

/-! ## Tiles: ACCZ, ACCRD, ACCWR -/

/-- The tiles that an instruction on `tile` waits for: the tile, with its partner where the two are an F64 pair (R290, R333). -/
def interlockTiles (s : State) (c : Ctx) (tile : Nat) (wide : Bool) : BitVec 16 :=
  let pair := wide || ((tileOf s c.w.grid c.w.team tile).map (fun p => ((c.eng s).tile p).tag)) == some 2
  if pair then (3#16) <<< (tile / 2 * 2) else (1#16) <<< tile

/-- The interlock of R290: the body runs when nothing of the team is left to do on the tiles. -/
def interlocked (tile : Nat) (wide : Bool) (body : Ctx → State → Exit) (c : Ctx) (s : State) : Exit :=
  let m := interlockTiles s c tile wide
  if tileBusy s c.w.grid c.w.team m s.nextId true then .stall s else body c s

def sigAccz (h : Hdr) (f : FmtX) (s : State) (c : Ctx) : Sig :=
  let t := f.m.tile.toNat
  sigX c.w16 h f
    { plainX f.m with ty := (tagOf f.m.ty).isSome, tile := tileOk s c.w t (f.m.ty == 0) }

/-- R312. -/
def execAccz (h : Hdr) (f : FmtX) (s : State) : Host.Outcome State Fault Refusal :=
  let t := f.m.tile.toNat
  issue h notInSection (sigAccz h f s)
    (holding (interlocked t (tagOf f.m.ty == some 2) (fun c s => enterCommand c 0x145 [] (.accz t ((tagOf f.m.ty).getD 0)) s))) s

/-- row0 and c0 (R311). -/
def tileScalar (c : Ctx) (scl : Bool) (s : Src) (n : Nat) : Nat := if scl then (c.w.rdS s.reg.toNat).toNat % 2 ^ n else 0

/-- The checks of R311; then the physical tile and the tag. -/
def windowCheck (s : State) (c : Ctx) (tile row0 c0 m : Nat) (need : Option (BitVec 2)) : Except TrapInfo (Nat × BitVec 2) :=
  match tileOf s c.w.grid c.w.team tile with
  | none => .error (formatTrap c 4)
  | some p =>
    let tag := ((c.eng s).tile p).tag
    if c.lanes.any (fun l => decide (95 < row0 + l)) || decide (64 < c0 + m) || (need.isSome && need != some tag)
        || (tag == 2 && tile % 2 == 1) then .error (formatTrap c 4)
    else .ok (p, tag)

/-- A poisoned tile traps when it is read (R392). -/
def tilePoison (s : State) (c : Ctx) (p : Nat) (wide : Bool) : Option TrapInfo :=
  let e := s.engineCore c.w
  if s.poison.contains (.engineTile e p) || (wide && s.poison.contains (.engineTile e (p + 1))) then
    some { code := Trap.poison, mask := laneMask c.lanes, det1 := 5 }
  else none

def rowUse (scl : Bool) : SrcUse := if scl then .sca false else .unused

def accCount (f : FmtX) : Nat := 2 ^ f.m.aux.toNat

def accRegs (f : FmtX) : Nat := accCount f * if f.m.ty = 0 then 2 else 1

def windowAlign (n : Nat) : Nat := if n = 1 then 1 else 2

def sigAccrd (h : Hdr) (f : FmtX) (s : State) (c : Ctx) : Sig :=
  sigX c.w16 h f
    { dst := .vec (accRegs f) (windowAlign (accRegs f)) (f.m.ty == 0), a := rowUse f.m.sa, b := rowUse f.m.sb, ty := (tagOf f.m.ty).isSome,
      tile := tileOk s c.w f.m.tile.toNat false, aux := decide (f.m.aux.toNat < 7), sub3 := f.m.sub3 == 0, sb := true }

/-- R313: raw bits of the window. -/
def accrdBody (h : Hdr) (f : FmtX) (sig : Ctx → Sig) (c : Ctx) (s : State) : Exit :=
  let row0 := tileScalar c f.m.sa f.sa 7
  let c0 := tileScalar c f.m.sb f.sb 6
  let m := accCount f
  match windowCheck s c f.m.tile.toNat row0 c0 m (tagOf f.m.ty) with
  | .error t => .trap s t
  | .ok (p, tag) =>
    let wide := tag == 2
    match tilePoison s c p wide with
    | some t => .trap s t
    | none =>
      let d := if wide then 2 else 1
      .done (commitAlu s c (sig c)
        { writes := (c.lanes.map (fun l => ((List.range m).map (fun i =>
            dstWr false (h.dst + BitVec.ofNat 8 (d * i)) wide l ((c.eng s).elem wide p ((row0 + l) * 64 + c0 + i)))).flatten)).flatten })

def execAccrd (h : Hdr) (f : FmtX) (s : State) : Host.Outcome State Fault Refusal :=
  issue h notInSection (sigAccrd h f s)
    (holding (interlocked f.m.tile.toNat (tagOf f.m.ty == some 2) (fun c s => accrdBody h f (sigAccrd h f s) c s))) s

/-- R313: the cells are captured at issue and written in command order. -/
def accwrBody (f : FmtX) (c : Ctx) (s : State) : Exit :=
  let row0 := tileScalar c f.m.sa f.sa 7
  let c0 := tileScalar c f.m.sb f.sb 6
  let m := accCount f
  match windowCheck s c f.m.tile.toNat row0 c0 m (tagOf f.m.ty) with
  | .error t => .trap s t
  | .ok (_, tag) =>
    let wide := tag == 2
    let word (l i : Nat) : Nat := (c.regAt 2 false f.sc i l).toNat
    let cells := (c.lanes.map (fun l => (List.range m).map (fun i =>
      ((row0 + l) * 64 + c0 + i, if wide then word l (2 * i) + word l (2 * i + 1) * 2 ^ 32 else word l i)))).flatten
    enterCommand c 0x147 [] (.accwr f.m.tile.toNat wide cells) s

def sigAccwr (h : Hdr) (f : FmtX) (s : State) (c : Ctx) : Sig :=
  sigX c.w16 h f
    { a := rowUse f.m.sa, b := rowUse f.m.sb, c := .win (accRegs f) (windowAlign (accRegs f)) false (f.m.ty == 0),
      ty := (tagOf f.m.ty).isSome, tile := tileOk s c.w f.m.tile.toNat false, aux := decide (f.m.aux.toNat < 7),
      sub3 := f.m.sub3 == 0 }

def execAccwr (h : Hdr) (f : FmtX) (s : State) : Host.Outcome State Fault Refusal :=
  issue h notInSection (sigAccwr h f s)
    (holding (interlocked f.m.tile.toNat (tagOf f.m.ty == some 2) (accwrBody f))) s

/-! ## ACCCVT and ACCST -/

/-- An accumulator element's value. -/
def accVal (tag : BitVec 2) (x : Nat) : Val := if tag = 1 then Val.ofInt (sext 32 x) else decodeFloat (if tag = 2 then 0 else 1) x

/-- Elements to the destination format, packed (R314, R315): saturating, one rounding each. -/
def packAcc (dc rm : Nat) (tag : BitVec 2) (scale : Word) (x : List Nat) : FRes :=
  let k := decodeFloat 1 scale.toNat
  let v := x.map (accVal tag)
  if dc % 16 = 15 then
    let o := v.map (fun a => let r := scaleOut dc k a; (r.1, r.2 ||| snanFlag a))
    let g := (List.range (x.length / 4)).map (fun j => encodeI4x rm (((o.drop (4 * j)).take 4).map (·.1)))
    (g.zipIdx.foldl (fun a p => a + p.1.1 * 2 ^ (16 * p.2)) 0, orAll (o.map (·.2)) ||| orAll (g.map (·.2)))
  else
    let w := codeWidth dc
    let r := v.map (convertVal dc rm true (tag != 1) k)
    (r.zipIdx.foldl (fun a p => a + p.1.1 % 2 ^ w * 2 ^ (w * p.2)) 0, orAll (r.map (·.2)))

/-- Registers of ACCCVT's window (R314). -/
def cvtRegs (f : FmtX) : Nat := (accCount f * codeWidth f.m.ty.toNat + 31) / 32

def sigAcccvt (h : Hdr) (f : FmtX) (s : State) (c : Ctx) : Sig :=
  let w := codeWidth f.m.ty.toNat
  sigX c.w16 h f
    { dst := .vec (cvtRegs f) (windowAlign (cvtRegs f)) (64 ≤ codeWidth f.m.ty.toNat), a := rowUse f.m.sa, b := rowUse f.m.sb,
      c := if 16 ≤ f.m.ty.toNat then .sca false else .unused, ty := true, tile := tileOk s c.w f.m.tile.toNat false,
      aux := decide (f.m.aux.toNat < 7) && (decide (32 ≤ w) || accCount f * w % 32 == 0)
        && (f.m.ty.toNat % 16 != 15 || decide (8 ≤ accCount f))
      sub3 := true, sb := true }

/-- R314. -/
def acccvtBody (h : Hdr) (f : FmtX) (sig : Ctx → Sig) (c : Ctx) (s : State) : Exit :=
  let row0 := tileScalar c f.m.sa f.sa 7
  let c0 := tileScalar c f.m.sb f.sb 6
  let m := accCount f
  match windowCheck s c f.m.tile.toNat row0 c0 m none with
  | .error t => .trap s t
  | .ok (p, tag) =>
    match tilePoison s c p (tag == 2) with
    | some t => .trap s t
    | none =>
      let scale := if 16 ≤ f.m.ty.toNat then c.w.rdS f.sc.reg.toNat else 0
      let elems (l : Nat) : List Nat := (List.range m).map (fun i => (c.eng s).elem (tag == 2) p ((row0 + l) * 64 + c0 + i))
      let r (l : Nat) : FRes := packAcc f.m.ty.toNat c.w.rm tag scale (elems l)
      let am : List (List (Nat × Word) × FlagBits) :=
        match c.amaxReg (f.m.sub3.getLsbD 2) (f.m.sub3.toNat % 4) with
        | some k => (c.lanes.map (fun l => (elems l).map (fun x => amaxUpdate k (accVal tag x)))).flatten
        | none => []
      .done (commitAlu s c (sig c)
        { writes := (c.lanes.map (fun l => (List.range (cvtRegs f)).map (fun i =>
            (⟨.vec, h.dst.toNat + i, l, BitVec.ofNat 32 ((r l).1 / 2 ^ (32 * i))⟩ : RegWr)))).flatten
          flags := orAll (c.lanes.map (fun l => (r l).2)) ||| orAll (am.map (·.2)), amax := (am.map (·.1)).flatten })

def execAcccvt (h : Hdr) (f : FmtX) (s : State) : Host.Outcome State Fault Refusal :=
  issue h notInSection (sigAcccvt h f s)
    (holding (interlocked f.m.tile.toNat false (fun c s => acccvtBody h f (sigAcccvt h f s) c s))) s

/-- R315. -/
def accstBody (f : FmtX) (c : Ctx) (s : State) : Exit :=
  let comb := f.m.sub3.getLsbD 0
  let row0 := tileScalar c f.m.sb f.sb 7
  match windowCheck s c f.m.tile.toNat row0 0 64 none with
  | .error t => .trap s t
  | .ok _ =>
    let rows := c.lanes.map (fun l => (l, c.src 0 false f.sa (!comb) l))
    match commandCheck s c true (if comb then 1 else 0) 32
        (rows.map (fun p => { lane := p.1, va := p.2, size := 8 * codeWidth f.m.ty.toNat })) with
    | some t => .trap s t
    | none =>
      enterCommand c 0x149 []
        (.accst f.m.ty f.m.tile.toNat comb row0 rows c.w.rm (if 16 ≤ f.m.ty.toNat then c.w.rdS f.sc.reg.toNat else 0)) s

def sigAccst (h : Hdr) (f : FmtX) (s : State) (c : Ctx) : Sig :=
  sigX c.w16 h f
    { a := .vec (!f.m.sub3.getLsbD 0), b := rowUse f.m.sb, c := if 16 ≤ f.m.ty.toNat then .sca false else .unused, ty := true,
      tile := tileOk s c.w f.m.tile.toNat false, aux := f.m.aux == 0, sub3 := decide (f.m.sub3.toNat < 2) }

def execAccst (h : Hdr) (f : FmtX) (s : State) : Host.Outcome State Fault Refusal :=
  issue h notInSection (sigAccst h f s)
    (holding (interlocked f.m.tile.toNat false (accstBody f))) s

/-! ## ACCWAIT and MMACFG -/

def sigAccwait (h : Hdr) (f : FmtX) (s : State) (c : Ctx) : Sig :=
  let all := f.m.sub3.getLsbD 0
  sigX c.w16 h f
    { plainX f.m with
      tile := if all then f.m.tile == 0 else tileOk s c.w f.m.tile.toNat false, sub3 := decide (f.m.sub3.toNat < 2) }

/-- R316. -/
def execAccwait (h : Hdr) (f : FmtX) (s : State) : Host.Outcome State Fault Refusal :=
  let all := f.m.sub3.getLsbD 0
  issue h notInSection (sigAccwait h f s)
    (holding (fun c s =>
      let m : BitVec 16 := if all then 0xFFFF#16 else interlockTiles s c f.m.tile.toNat false
      if tileBusy s c.w.grid c.w.team m s.nextId false then .block s (.acc m s.nextId) else .done s)) s

/-- The user bits that MMACFG writes (R61, R317). -/
def mmacfgWord (imm wcw : Word) : Word :=
  let a := if imm.getLsbD 1 then (wcw &&& ~~~0x10#32) ||| (if imm.getLsbD 0 then 0x10#32 else 0) else wcw
  if imm.getLsbD 5 then
    (a &&& ~~~0xE0#32) ||| (if imm.getLsbD 2 then 0x80#32 else 0) ||| ((imm.extractLsb' 3 2).zeroExtend 32 <<< 5)
  else a

def sigMmacfg (h : Hdr) (f : FmtI) (s : State) (c : Ctx) : Sig :=
  let budget := f.imm.toNat / 2 ^ 16
  sigI c.w16 h f (plainMod f.m)
    [(49, budget == 0 || s.waveDesc c.w 499 499 == 1), (33, field f.imm.toNat 15 6 == 0)]

/-- R317. -/
def execMmacfg (h : Hdr) (f : FmtI) (s : State) : Host.Outcome State Fault Refusal :=
  let budget := f.imm.toNat / 2 ^ 16
  issue h notInSection (sigMmacfg h f s)
    (fun c s =>
      if c.lanes.isEmpty then .done s
      else
        let s1 := s.updWave c.k (fun w => { w with wcw := mmacfgWord f.imm w.wcw })
        .done (if budget = 0 then s1 else s1.updEng (s.engineCore c.w) (fun e => { e with nextBudget := budget }))) s

end Sys2Proof.Machine
end

