-- ==== Sys2Proof/Machine/Engine.lean ====
section
/-! DEFINITION. The matrix engine at work (09 R298-R316): each event lets the command at the head of the engine's list take its
next step; a stopped command blocks the list. -/

namespace Sys2Proof.Machine

/-! ## The head of the list -/

/-- Part of its work is done. -/
def Cmd.begun (c : Cmd) : Bool :=
  c.started || match c.kind with | .mma _ _ _ _ _ _ _ (some l) => decide (l.stage ≠ 0) || decide (l.block ≠ 0) | _ => false

/-- The command at the head of the engine's list, unless it has stopped; a held context's engines finish only what they have
begun (R356). -/
def State.engHead (s : State) (core : Nat) : Option Cmd :=
  match (s.core core).eng.cmds with
  | c :: _ => if c.stop.isNone && (c.begun || !s.ctxHeld core c.ctx) then some c else none
  | [] => none

def updCmd (s : State) (core id : Nat) (f : Cmd → Cmd) : State :=
  s.updEng core (fun e => { e with cmds := e.cmds.map (fun c => if c.id = id && !c.isMark then f c else c) })

/-- A command leaves: its locks are released (R222, R303). -/
def retireCmd (s : State) (core : Nat) (c : Cmd) : State :=
  ((dropLocks s core c.id).updEng core (fun e => { e with cmds := e.cmds.filter (fun x => x.isMark || x.id != c.id) })).updWave c.w
    Wave.progress

/-- The report of the stop of command `id`: to the issuing wave, else to the lowest live wave of its team, else to the supervisor
(R308). -/
def tellStop (s : State) (core ctx gid team : Nat) (k : WaveKey) (id : Nat) (r : TrapRec) : State :=
  let l := liveWaves s gid team
  let send (k : WaveKey) : State :=
    s.updWave k (fun w => { w with async := w.async ++ [{ prio := 4, next := false, record := r, cmd := some id }] })
  match l.find? (fun w => w.key == k), lowestWave l with
  | some w, _ => send w.key
  | none, some w => send w.key
  | none, none => teamEvent s core ctx gid team k (some id) r

def engineReport (s : State) (core : Nat) (c : Cmd) (r : TrapRec) : State := tellStop s core c.ctx c.gid c.team c.w c.id r

/-- A command stops; MATRIX_FORMAT retires it (R303, R307, R308). -/
def stopCmd (s : State) (core : Nat) (c : Cmd) (t : TrapInfo) : State :=
  let r := t.at_ c.pc
  let s := if t.code = Trap.matrixFormat then retireCmd s core c else updCmd s core c.id (fun x => { x with stop := some r })
  engineReport s core c r

/-! ## Reading -/

/-- What reading a command's data comes to. -/
inductive EngRead where
  | ok (l : List (List Target)) (s : State)
  | stop (t : TrapInfo) (s : State)
  | wait (s : State)

/-- Addresses of `n` bytes in a space. -/
def spaceRun (space a n : Nat) : List Nat := (List.range n).map (fun i => (a + i) % 2 ^ (if space = 1 then 32 else 64))

def reachRows (s : State) (who : Who) (need : Need) (space : Nat) : List (Nat × Nat) → List (Nat × Reach) × State
  | [] => ([], s)
  | (a, n) :: t =>
    let r := reach s who need space (spaceRun space a n)
    let u := reachRows r.2 who need space t
    ((a, r.1) :: u.1, u.2)

/-- Rows of (lane, address, bytes). The mask names the rows that failed, the address and cause those of the lowest (R308). -/
def engReach (s : State) (core : Nat) (c : Cmd) (need : Need) (space : Nat) (rows : List (Nat × Nat × Nat)) : EngRead :=
  let r := reachRows s (whoFor s core c.ctx c.gid c.team) need space (rows.map (·.2))
  let l := (rows.map (·.1)).zip (r.1.map (·.2))
  let lanes (p : Reach → Bool) : Mask := laneMask ((l.filter (fun x => p x.2)).map (·.1))
  let isFault : Reach → Bool := fun x => match x with | .fault _ _ => true | _ => false
  match l.findSome? (fun x => match x.2 with | .fault va n => some (va, n) | _ => none) with
  | some (va, n) =>
    .stop { code := if need = .store then Trap.storeFault else Trap.loadFault, mask := lanes isFault, addr := va, det1 := n } r.2
  | none =>
    if l.any (fun x => x.2 == .secure) then .stop { code := Trap.copyFault, mask := lanes (fun x => x == .secure), det1 := 2 } r.2
    else if l.any (fun x => x.2 == .poisoned) then
      .stop { code := Trap.poison, mask := lanes (fun x => x == .poisoned), det1 := if space = 1 then 4 else 1 } r.2
    else if l.any (fun x => x.2 == .wait) then .wait r.2
    else .ok (l.map (fun x => match x.2 with | .ok t => t | _ => [])) r.2

/-- Bytes as a sparse map. -/
def sparse (l : List Byte) : SMap Byte := l.zipIdx.filterMap (fun p => if p.1 = 0 then none else some (p.2, p.1))

/-! ## BLOAD and BSWAP -/

/-- The B tile and its scales, read into a buffer, or how the command stops (R298, R308). -/
def loadBuffer (s : State) (core : Nat) (c : Cmd) (comb : Bool) (src stride scales : Nat) (fmt : BitVec 5)
    (k : BBuf → State → State) : State :=
  let f := fmt.toNat
  let space := if comb then 1 else 0
  let rows := (List.range (depthOf f)).map (fun i => (0, src + i * stride, brow f))
  match engReach s core c .load space (rows ++ if 16 ≤ f then [(0, scales, 256)] else []) with
  | .wait s => s
  | .stop t s => stopCmd s core c { t with mask := 0 }
  | .ok l s =>
    let bytes := (l.map (fun r => r.map s.byteAt))
    let sc := ((bytes.drop (depthOf f)).headD [])
    let words : List Word := (List.range 64).map (fun i => BitVec.ofNat 32 (bytesToNat ((sc.drop (4 * i)).take 4)))
    k { data := sparse ((bytes.take (depthOf f)).flatten), fmt := fmt
        scales := if 16 ≤ f then words.zipIdx.filterMap (fun p => if p.1 = 0x3F800000#32 then none else some (p.2, p.1)) else []
        valid := true, owner := some (c.gid, c.team) } s

/-- b1 receives a buffer; its poison goes (R298, R392). -/
def putB1 (core : Nat) (b : BBuf) (s : State) : State :=
  let s := s.updEng core (fun e => { e with b1 := b })
  { s with poison := s.poison.filter (fun p => p != .engineBuffer core 1) }

/-- R299. The buffers change places with their poison. -/
def swapBuffers (s : State) (core : Nat) : State :=
  let s := s.updEng core (fun e => { e with b0 := e.b1, b1 := e.b0 })
  { s with poison := s.poison.map (fun p =>
      if p = .engineBuffer core 0 then .engineBuffer core 1 else if p = .engineBuffer core 1 then .engineBuffer core 0 else p) }

def setLong (f : LongMma → LongMma) (c : Cmd) : Cmd :=
  match c.kind with
  | .mma ty t z comb n rows sc (some l) => { c with kind := .mma ty t z comb n rows sc (some (f l)), started := false, granule := 0, seen := [] }
  | _ => c

/-- BLOAD, or the load of a long MMA's next block (R298, R304). -/
def execBloadRun (core : Nat) (s : State) : Host.Outcome State Fault Refusal :=
  match s.engHead core with
  | none => .next s
  | some c =>
    if !engineSettled s c.w c.seq then .next s
    else
      match c.kind with
      | .bload comb src stride scales fmt =>
        .next (loadBuffer s core c comb src stride scales fmt (fun b s => retireCmd (putB1 core b s) core c))
      | .mma _ _ _ _ _ _ _ (some l) =>
        if l.stage = 0 then
          .next (loadBuffer s core c l.sp (l.bsrc + l.block * l.bblk) l.bstr l.bscl l.bfmt (fun b s =>
            updCmd (putB1 core b s) core c.id (setLong (fun l => { l with stage := 1 }))))
        else .next s
      | _ => .next s

def execBswapRun (core : Nat) (s : State) : Host.Outcome State Fault Refusal :=
  match s.engHead core with
  | none => .next s
  | some c =>
    match c.kind with
    | .bswap => .next (retireCmd (swapBuffers s core) core c)
    | .mma _ _ _ _ _ _ _ (some l) =>
      .next (if l.stage = 1 then updCmd (swapBuffers s core) core c.id (setLong (fun l => { l with stage := 2 })) else s)
    | _ => .next s

/-! ## MMA -/

/-- Rows of a tile become 0. -/
def Tile.clearRows (t : Tile) (rows : List Nat) : Tile := { t with cells := t.cells.filter (fun x => !rows.contains (x.1 / 64)) }

def rowMask (rows : List (Nat × Nat)) : Mask := laneMask (rows.map (·.1))

/-- Poison of a tile's cells goes when the tile is written whole. -/
def clearTilePoison (s : State) (core p : Nat) : State := { s with poison := s.poison.filter (fun x => x != .engineTile core p) }

/-- The checks and the start of a pass (R303). -/
def startMma (s : State) (core : Nat) (c : Cmd) (ty : BitVec 5) (tile : Nat) (z : Bool) (rows : List (Nat × Nat)) : State :=
  let e := (s.core core).eng
  let mask := rowMask rows
  match tileOf s c.gid c.team tile with
  | none => retireCmd s core c
  | some p =>
    if !e.b0.valid || e.b0.owner != some (c.gid, c.team) then stopCmd s core c { code := Trap.matrixFormat, mask := mask, det1 := 2 }
    else
      match pairing ty.toNat e.b0.fmt.toNat with
      | none => stopCmd s core c { code := Trap.matrixFormat, mask := mask, det1 := 1 }
      | some acc =>
        let tag : BitVec 2 := BitVec.ofNat 2 acc
        if !z && (e.tile p).tag != tag then stopCmd s core c { code := Trap.matrixFormat, mask := mask, det1 := 3 }
        else
          let begin_ (e : Engine) (q : Nat) : Engine :=
            if z then e.updTile q (fun t => { t.clearRows (rows.map (·.1)) with tag := tag }) else e
          updCmd (s.updEng core (fun e => if acc = 2 then begin_ (begin_ e p) (p + 1) else begin_ e p)) core c.id (fun x =>
            { x with started := true })

def execMmaRun (core : Nat) (s : State) : Host.Outcome State Fault Refusal :=
  match s.engHead core with
  | none => .next s
  | some c =>
    if c.started || !engineSettled s c.w c.seq then .next s
    else
      match c.kind with
      | .mma ty tile z _ _ rows _ none => .next (startMma s core c ty tile z rows)
      | .mma ty tile z _ _ rows _ (some l) =>
        .next (if l.stage = 2 then startMma s core c ty tile (z && l.block == 0) rows else s)
      | _ => .next s

/-- Elements of a packed array (R73, R74). -/
def decodeArray (ty : Nat) (bytes : List Byte) : List Val :=
  let x := bytesToNat bytes
  if ty % 16 = 15 then
    ((List.range (bytes.length / 2)).map (fun j => (decodeI4x (x / 2 ^ (16 * j) % 2 ^ 16)).map (·.1))).flatten
  else (List.range (bytes.length * 8 / codeWidth ty)).map (fun i => decodeElem ty (x / 2 ^ (codeWidth ty * i)))

/-- Element (k, col) of a B buffer (R287). -/
def BBuf.elem (b : BBuf) (k col : Nat) : Val :=
  let f := b.fmt.toNat
  let w := codeWidth f
  let at_ (i : Nat) : Nat := (SMap.get 0#8 b.data (k * brow f + i)).toNat
  if f % 16 = 15 then ((decodeI4x (at_ (col / 4 * 2) + 256 * at_ (col / 4 * 2 + 1))).getD (col % 4) (Val.posZero, false)).1
  else
    let n := (List.range ((w + 7) / 8)).foldl (fun a i => a + at_ (w * col / 8 + i) * 256 ^ i) 0
    decodeElem f (n / 2 ^ (w * col % 8))

/-- The group size (R88). -/
def groupSize (a b : Nat) : Nat :=
  let w := max (codeWidth a) (codeWidth b)
  if 32 ≤ w then 1 else if w = 16 then 4 else if w = 8 then 8 else 16

/-- R88: one update of an accumulator by the products of a group, scaled by the scales of scaled operands. A sum of negative zeros alone
is +0: the model's choice (log 115). -/
def accUpdate (tag : BitVec 2) (acc : Nat) (prods : List (Val × Val)) (scales : List Val) : Nat :=
  if tag = 1 then
    let int : Val → Int := fun v => match v with | .fin s n _ => signed s n | _ => 0
    wrapBits 32 (sext 32 acc + (prods.map (fun p => int p.1 * int p.2)).sum)
  else
    let fmt := if tag = 2 then 0 else 1
    let sum := prods.foldl (fun v p => (Val.add 0 v (Val.mul p.1 p.2).1).1) Val.posZero
    let s := scales.foldl (fun v k => (Val.mul v k).1) sum
    (roundVal fmt 0 false (Val.add 0 (decodeFloat fmt acc) (decodeFloat fmt (roundVal fmt 0 false s).1)).1).1

def accIsNan (tag : BitVec 2) (x : Nat) : Bool := tag != 1 && (decodeFloat (if tag = 2 then 0 else 1) x).isNan

/-- An element through the groups of a granule: its new value, and the group that first wrote NaN (R307). -/
def runGroups (tag : BitVec 2) (step : Nat → Nat → Nat) : List Nat → Nat → Option Nat → Nat × Option Nat
  | [], acc, nan => (acc, nan)
  | g :: t, acc, nan =>
    let x := step g acc
    runGroups tag step t x (if nan.isNone && accIsNan tag x then some g else nan)

/-- The groups of a granule (R306). -/
def granuleGroups (groups split j : Nat) : List Nat :=
  (List.range (2 ^ split)).filterMap (fun i => if 2 ^ split * j + i < groups then some (2 ^ split * j + i) else none)

/-- After the last granule: the next block of a long MMA, or the retirement (R303, R304). -/
def endPass (s : State) (core : Nat) (c : Cmd) (long : Option LongMma) : State :=
  match long with
  | some l =>
    if l.block + 1 < l.nb then updCmd s core c.id (setLong (fun l => { l with block := l.block + 1, stage := 0 }))
    else retireCmd s core c
  | none => retireCmd s core c

/-- A byte of an A row, by its address and its place: each is read once, so a word that a granule left half used keeps the value it had
(R300), also where the team has been saved and restored in between (R309). -/
def Cmd.aByte (c : Cmd) (s : State) (x : Nat × Target) : Byte := ((c.seen.find? (fun p => p.1 == x.1)).map (·.2)).getD (s.byteAt x.2)

/-- The aligned 4-byte word of a byte. -/
def wordOf (x : Nat × Target) : List (Nat × Target) :=
  (List.range 4).map (fun i => (x.1 / 4 * 4 + i, (x.2.line.plus (x.2.offset % 128 / 4 * 4)).plus i))

/-- The words of each row from byte `n` on: a later granule may use the rest of them. -/
def Cmd.keepWords (c : Cmd) (s : State) (n : Nat) (rows : List (List (Nat × Target))) : List (Nat × Byte) :=
  ((rows.map (fun r => (r.drop n).flatMap wordOf)).flatten.eraseDups).map (fun x => (x.1, c.aByte s x))

/-- One granule: its A data are read, every element is updated, and the whole is committed or the MMA stops (R303, R307). -/
def runGranule (s : State) (core : Nat) (c : Cmd) (ty : BitVec 5) (tile p : Nat) (comb : Bool) (split : Nat)
    (rows : List (Nat × Nat)) (scales : List (Nat × Word)) (long : Option LongMma) : State :=
  let e := (s.core core).eng
  let b := e.b0
  let a := ty.toNat
  let wa := codeWidth a
  let fb := b.fmt.toNat
  let g := groupSize a fb
  let groups := granuleGroups (depthOf fb / g) split c.granule
  let k0 := groups.headD 0 * g
  let k1 := k0 + groups.length * g
  let lo := k0 / 4 * 4
  let hi := (k1 + 3) / 4 * 4
  let adv := (long.map (fun l => l.block * arow a fb)).getD 0
  let space := if comb then 1 else 0
  let runs := rows.map (fun r => (r.1, r.2 + adv + lo * wa / 8, (hi - lo) * wa / 8))
  match engReach s core c .load space runs with
  | .wait s => s
  | .stop t s => stopCmd s core c t
  | .ok places s =>
    let l := (runs.zip places).map (fun x => (spaceRun space x.1.2.1 x.1.2.2).zip x.2)
    let tag : BitVec 2 := (e.tile p).tag
    let wide := tag == 2
    if s.poison.contains (.engineBuffer core 0) || s.poison.contains (.engineTile core p)
        || (wide && s.poison.contains (.engineTile core (p + 1))) then
      stopCmd s core c { code := Trap.poison, mask := rowMask rows, det1 := 5 }
    else
      let cells := ((rows.map (·.1)).zip l).map (fun r =>
        let av := decodeArray a (r.2.map (c.aByte s))
        let sa := ((scales.find? (fun x => x.1 == r.1)).map (fun x => decodeFloat 1 x.2.toNat)).toList
        (List.range 64).map (fun col =>
          let sb := if 16 ≤ fb then [decodeFloat 1 (SMap.get 0x3F800000#32 b.scales col).toNat] else []
          let step (j acc : Nat) : Nat :=
            accUpdate tag acc ((List.range g).map (fun t => (av.getD (j * g + t - lo) Val.posZero, b.elem (j * g + t) col))) (sa ++ sb)
          (r.1, col, runGroups tag step groups (e.elem wide p (r.1 * 64 + col)) none)))
      let all : List (Nat × Nat × Nat × Option Nat) := cells.flatten
      let nans := all.filter (fun x => x.2.2.2.isSome)
      match c.ntm, nans with
      | true, (row, col, _, j) :: _ =>
        let k := (long.map (fun l => l.block * depthOf fb)).getD 0 + j.getD 0 * g
        stopCmd s core c
          { code := Trap.fpNanFirst, mask := laneMask (nans.map (·.1)), det1 := core,
            addr := k % 2 ^ 24 + col * 2 ^ 24 + row * 2 ^ 30 + tile * 2 ^ 37 }
      | _, _ =>
        let s := s.updEng core (fun e => all.foldl (fun e x => e.setElem wide p (x.1 * 64 + x.2.1) x.2.2.1) e)
        if (c.granule + 1) * 2 ^ split < depthOf fb / g then
          updCmd s core c.id (fun x =>
            { x with granule := x.granule + 1, seen := c.keepWords s (((k1 - lo) * wa + 7) / 8 - 1) l })
        else endPass s core c long

def execMmaGranuleCommit (core : Nat) (s : State) : Host.Outcome State Fault Refusal :=
  match s.engHead core with
  | none => .next s
  | some c =>
    match c.kind with
    | .mma ty tile _ comb split rows scales long =>
      if !c.started then .next s
      else
        match tileOf s c.gid c.team tile with
        | none => .next (retireCmd s core c)
        | some p => .next (runGranule s core c ty tile p comb split rows scales long)
    | _ => .next s

/-! ## ACCZ, ACCWR, ACCST -/

/-- R312. -/
def execAcczRun (core : Nat) (s : State) : Host.Outcome State Fault Refusal :=
  match s.engHead core with
  | none => .next s
  | some c =>
    match c.kind with
    | .accz tile tag =>
      match tileOf s c.gid c.team tile with
      | none => .next (retireCmd s core c)
      | some p =>
        let clear (s : State) (q : Nat) : State :=
          clearTilePoison (s.updEng core (fun e => e.updTile q (fun _ => { cells := [], tag := tag }))) core q
        .next (retireCmd (if tag = 2 then clear (clear s p) (p + 1) else clear s p) core c)
    | _ => .next s

/-- R313. -/
def execAccwrRun (core : Nat) (s : State) : Host.Outcome State Fault Refusal :=
  match s.engHead core with
  | none => .next s
  | some c =>
    match c.kind with
    | .accwr tile wide cells =>
      match tileOf s c.gid c.team tile with
      | none => .next (retireCmd s core c)
      | some p =>
        .next (retireCmd (s.updEng core (fun e => cells.foldl (fun e x => e.setElem wide p x.1 x.2) e)) core c)
    | _ => .next s

/-- Rows that leave as stores of the wave, 32 bytes at a time (R315). -/
def accStores (c : Cmd) (id : Nat) (comb : Bool) (l : List (Nat × Nat × List Target × Nat)) : MOp :=
  { id := id, w := c.w, gid := c.gid, team := c.team, ctx := c.ctx, seq := c.seq, iss := 0, pc := c.pc, scope := if comb then 2 else 4,
    order := 0, space := if comb then 1 else 0, kind := .store, checked := true, keys := [], port := none, whole := 0, byElem := false, gtb := 0,
    cyc := 0, table := none,
    elems := (l.map (fun r =>
      (List.range (r.2.2.1.length / 32)).map (fun i =>
        ({ lane := r.1, va := r.2.1 + 32 * i, size := 32, data := r.2.2.2 / 2 ^ (256 * i) % 2 ^ 256, cmp := 0, old := 0,
           target := r.2.2.1[32 * i]?, lease := 7, dst := 0, phase := .sent, removal := .notNeeded } : MElem)))).flatten }

/-- R315. -/
def execAccstRun (core : Nat) (s : State) : Host.Outcome State Fault Refusal :=
  match s.engHead core with
  | none => .next s
  | some c =>
    match c.kind with
    | .accst ty tile comb row0 rows rm scale =>
      match tileOf s c.gid c.team tile with
      | none => .next (retireCmd s core c)
      | some p =>
        if !engineSettled s c.w c.seq then .next s
        else
          let n := 8 * codeWidth ty.toNat
          match engReach s core c .store (if comb then 1 else 0) (rows.map (fun r => (r.1, r.2, n))) with
          | .wait s => .next s
          | .stop t s => .next (stopCmd s core c t)
          | .ok l s =>
            let e := (s.core core).eng
            let tag := (e.tile p).tag
            if s.poison.contains (.engineTile core p) || (tag == 2 && s.poison.contains (.engineTile core (p + 1))) then
              .next (stopCmd s core c { code := Trap.poison, mask := rowMask rows, det1 := 5 })
            else
              let packed := rows.map (fun r =>
                packAcc ty.toNat rm tag scale ((List.range 64).map (fun i => e.elem (tag == 2) p ((row0 + r.1) * 64 + i))))
              let out := (rows.zip (l.zip packed)).map (fun (x : (Nat × Nat) × List Target × FRes) => (x.1.1, x.1.2, x.2.1, x.2.2.1))
              let s1 := { s with nextId := s.nextId + 1, mops := s.mops ++ [accStores c s.nextId comb out] }
              .next (retireCmd (s1.updWave c.w (fun w => w.orFlags (orAll (packed.map (·.2))))) core c)
    | _ => .next s

/-! ## The hold budget -/

/-- R294: the holder is told, the baton passes; its commands run on. -/
def execBatonBudgetExpire (core : Nat) (s : State) : Host.Outcome State Fault Refusal :=
  let e := (s.core core).eng
  match e.baton with
  | none => .next s
  | some k =>
    match s.wave? k with
    | none => .next s
    | some _ =>
      if e.grantedAt + 1000 * e.budget < s.gtb then
        .next (reportAt (passBaton s core none) k 6 true (({ code := Trap.baton, det1 := 2 } : TrapInfo).at_ 0))
      else .next s

end Sys2Proof.Machine
end

