-- ==== Sys2Proof/Machine/Launch.lean ====
section
/-! DEFINITION. LAUNCH, its wait, and TKNEXT (05 R148-R152), with the launch queue (12 R343-R345). -/

namespace Sys2Proof.Machine

/-! ## The launch queue -/

/-- R149. -/
def descOf (x : Nat) : LaunchDesc :=
  { entry := field x 63 0, param := field x 127 64, nx := field x 159 128, ny := field x 191 160, nz := field x 223 192,
    rsvA := field x 255 224, done := field x 319 256, lo := field x 383 320, hi := field x 447 384, chunk := field x 479 448,
    prio := field x 487 480, flags := field x 495 488, rsvB := field x 511 496 }

/-- Stands for the kernel of an ENTRY that names none; GRID_ADMIT rejects such a grid. -/
def noKernel : Kernel :=
  { entry := 0, shipped := true, width := 32, x := 1, y := 1, z := 1, cluster := 1, cls := 0, vregs := 0, scomb := 0,
    tiles := 0, codeLo := 0, codeHi := 0 }

def kernelAt (s : State) (ctx entry : Nat) : Option Kernel :=
  (s.kernels ctx).find? (fun k => k.entry == entry && !k.shipped)

def Partition.ringCap (p : Partition) : Nat :=
  let n := min 20 (field p.lqCfg.toNat 4 0)
  if n = 0 then 0 else 2 ^ n

/-- Overflow entries move into the launch queue in push order (R344). -/
def Partition.refill (p : Partition) : Partition :=
  let n := 1024 - p.lq.length
  { p with lq := p.lq ++ p.ring.take n, ring := p.ring.drop n }

/-- A pending grid enters the launch queue, or the ring; none when both are full (R149). -/
def Partition.push (p : Partition) (e : LqEntry) : Option Partition :=
  if p.lq.length < 1024 then some { p with lq := p.lq ++ [e] }
  else if p.ring.length < p.ringCap then some { p with ring := p.ring ++ [e], ringTail := p.ringTail + 1 }
  else none

/-- Where the next pending grid's overflow entry is written: none while the launch queue has room (R344). -/
def Partition.ringSlot (p : Partition) : Option Nat :=
  if p.lq.length < 1024 ∨ p.ringCap ≤ p.ring.length then none
  else some (field p.lqCfg.toNat 63 12 * 4096 + 128 * (p.ringTail % p.ringCap))

/-- An overflow entry in memory: 128 bytes that the rules do not lay out and software does not read (R344). -/
def State.writeRing (s : State) : Option Nat → State
  | none => s
  | some a =>
    let b := s.freeBytes 128
    { b.2 with mem := b.2.mem.write a b.1 }

/-- A grid in waiting (R345). -/
def newGrid (gid part ctx prio : Nat) (d : LaunchDesc) (k : Kernel) (msix : Option Nat) (done : Target) : Grid :=
  { gid := gid, part := part, ctx := ctx, cls := k.cls, desc := d, kernel := k, prio := prio, msix := msix, doneTarget := done,
    started := false, complete := false, rejected := false, closing := false, nextTeam := 0, nextSeq := 0, endedTeams := 0,
    anyTerminated := false, offered := [] }

/-- A launch lets the context's code lines be read again: the grid sees the code that is in memory now (R97). -/
def State.dropCode (s : State) (part ctx : Nat) : State :=
  { s with
    cores := s.cores.zipIdx.map (fun p =>
      if s.partOf p.2 = part then { p.1 with icache := p.1.icache.filter (fun e => e.ctx != ctx) } else p.1)
    benuris := s.benuris.zipIdx.map (fun p =>
      if s.partOf (256 + p.2) = part then { p.1 with icache := p.1.icache.filter (fun e => e.ctx != ctx) } else p.1) }

/-- The grid identifier, as a handle that is unique over the partitions, the queue entry, and state 0 with the producer record in the
completion object (R150, R345). -/
def submitGrid (s : State) (part ctx prio pgrid seq : Nat) (d : LaunchDesc) (msix : Option Nat) (done : Target) :
    Option State :=
  let p := s.part part
  let gid := gridHandle part p.gidNext
  match p.push { gid := gid, prio := prio } with
  | none => none
  | some q =>
    let k := (kernelAt s ctx d.entry).getD noKernel
    let rec_ := recordBits gid pgrid seq true false false k.cls
    let s := s.updPart part (fun _ => { q with gidNext := (gid % 2 ^ 40 + 1) % 2 ^ 40 })
    let s := (s.dropCode part ctx).writeRing p.ringSlot
    some (({ s with grids := s.grids ++ [newGrid gid part ctx prio d k msix done] }.writeAt done 32 (rec_ * 2 ^ 128)).posted
      (s.partCore part) ctx done 32)

/-! ## LAUNCH -/

def sigLaunch (h : Hdr) (f : FmtA) (c : Ctx) : Sig := sigA c.w16 h f { plainMod f.m with dst := .pred, a := .sca true }

/-- Where DONE goes (R149 step 2). -/
def donePlace (c : Ctx) (done : Nat) (s : State) : OneAccess :=
  let all := laneMask c.lanes
  if done % 32 ≠ 0 then .ends (.trap s { code := Trap.alignment, mask := all, addr := done })
  else
    match translateG s c.core c.w.ctx .store false done with
    | (.fault x, s) => .ends (.trap s { code := Trap.loadFault, mask := all, addr := done, det1 := x })
    | (.ok t _, s) => .at_ t s

/-- R149. -/
def launchBody (h : Hdr) (f : FmtA) (c : Ctx) (s : State) : Exit :=
  if c.lanes.isEmpty then .done s
  else
    releaseFirst s c true 4
      (match oneAccess c .load 0 64 (c.src 0 true f.sa true 0) 64 s with
        | .ends e => e
        | .at_ t s =>
          match readOne c t 64 s with
          | .error e => .trap s e
          | .ok x =>
            let d := descOf x
            match donePlace c d.done s with
            | .ends e => e
            | .at_ done s =>
              let slot := (s.part (s.partOf c.core)).ringSlot
              if walkerBusy s c.w.ctx || !s.writable done 32 || !slot.all s.lineFree then
                .stall (slot.toList.foldl (fun s a => contestAt s (.dev a)) (contestAll s done 32))
              else
                let seq := ((s.waveTeam c.w).map (·.seq)).getD 0
                let r := submitGrid s (s.partOf c.core) c.w.ctx (d.prio % 4) c.w.grid seq d none done
                let s1 := (r.getD s).updWave c.k (fun w =>
                  (w.wrAll (c.predAll h.dst.toNat (fun _ => r.isSome))).progress)
                .done s1)

def execLaunch (h : Hdr) (f : FmtA) (s : State) : Host.Outcome State Fault Refusal :=
  issue h notInSection (sigLaunch h f) (launchBody h f) s

/-- R151: the wait is judged at issue, then lasts until STATE is not 0. -/
def launchWaitBody (h : Hdr) (f : FmtA) (c : Ctx) (s : State) : Exit :=
  if c.lanes.isEmpty then .done s
  else
    let a := c.src 0 true f.sa true 0
    match oneAccess c .load 0 32 a 32 s with
    | .ends e => e
    | .at_ t s =>
      match readOne c t 32 s with
      | .error e => .trap s e
      | .ok x =>
        match judge s c.w h.yld (field x 255 128) with
        | some d => .trap s { code := Trap.illegalWait, mask := laneMask c.live, addr := a, det1 := d }
        | none => if x % 256 = 0 then .block s (.launch t a) else .done s

def sigLaunchWait (h : Hdr) (f : FmtA) (c : Ctx) : Sig :=
  sigA c.w16 h f { plainMod f.m with a := .sca true, sub := f.m.sub == 1 }

def execLaunchWait (h : Hdr) (f : FmtA) (s : State) : Host.Outcome State Fault Refusal :=
  issue h notInSection (sigLaunchWait h f) (launchWaitBody h f) s

/-! ## TKNEXT -/

/-- R152: the lowest unclaimed chunk of the team's own interval. One that was split in this cycle is claimed from in the next: a TKNEXT of
the same cycle would come before the split (R351, log 138). -/
def tknextBody (h : Hdr) (f : FmtA) (c : Ctx) (s : State) : Exit :=
  let p := f.sb.reg.toNat
  match s.waveTeam c.w with
  | none => .alu { writes := c.predAll p (fun _ => false) }
  | some t =>
    if t.hi ≤ t.lo then .alu { writes := c.predAll p (fun _ => false) }
    else if c.lanes.isEmpty then .done s
    else if t.splitAt = some s.cyc then .stall s
    else
      let chunk := ((s.grid? c.w.grid (s.partOf t.core)).map (·.desc.chunk)).getD 1
      let e := min (t.lo + chunk) t.hi
      let s := s.updTeam t.gid t.num (fun t => { t with lo := e })
      let ws := dstWr true h.dst true 0 t.lo ++ dstWr true (h.dst + 2) true 0 e ++ c.predAll p (fun _ => true)
      .done (s.updWave c.k (fun w =>
        { w with pend := w.pend ++
            [{ writes := ws, flags := 0, amax := [], keys := [⟨.pred, p⟩] ++ (List.range 4).map (fun i => ⟨.sca, h.dst.toNat + i⟩),
               push := none }] }))

def sigTknext (h : Hdr) (f : FmtA) (c : Ctx) : Sig :=
  let p := f.sb.reg.toNat
  let g := sigA c.w16 h f { plainMod f.m with dst := .sca 4 4 59, b := .pred, ds := .one, sb := true }
  { g with dst := g.dst ++ (if p = 0 then [] else [.pred p 1]), srcs := guardOpnd h }

def execTknext (h : Hdr) (f : FmtA) (s : State) : Host.Outcome State Fault Refusal :=
  issue h always (sigTknext h f)
    (tknextBody h f) s

end Sys2Proof.Machine
end

