-- ==== Sys2Proof/Machine/Ending.lean ====
section
/-! DEFINITION. How lanes, quads and waves end (01 R16, 02 R45). -/

namespace Sys2Proof.Machine

/-- A released slice leaves its registers' bytes in the comb store (R39, R46). -/
def flushSlice (s : State) (w : Wave) (q : Nat) : State :=
  match w.slices.getD q none with
  | none => s
  | some base =>
    let comb := ((List.range w.nvec).map (fun n => (List.range 4).map (fun i => (n, i)))).flatten.foldl
      (fun m p => m.writeNat (base + 16 * p.1 + 4 * p.2) 4 (SMap.get 0#32 w.vregs (vkey p.1 (4 * q + p.2))).toNat)
      (s.core w.key.core).comb
    s.updCore w.key.core (fun x =>
      { x with comb := comb, slices := x.slices.filter (fun p => p.1 != base) })

/-- A quad's active mask and stack lose the ended lanes; with none left, the quad ends (R16). -/
def Quad.drop (q : Quad) (n : Nat) (ended : Mask) : Quad :=
  let gone : BitVec 4 := ended.extractLsb' (4 * n) 4
  let m := q.mask &&& ~~~gone
  { q with
    mask := m, ended := q.ended || gone == 0xF#4,
    stack := if gone == 0xF#4 then [] else q.stack.map (fun e => (e.1, e.2 &&& ~~~gone)) }

/-- Lanes of the wave end. Ended quads leave their gangs and give back their slices; pending writes to them go (R45). -/
def endLanes (s : State) (k : WaveKey) (lanes : Mask) : State :=
  match s.wave? k with
  | none => s
  | some w =>
    let ended := w.ended ||| lanes
    let quads := w.quads.zipIdx.map (fun p => p.1.drop p.2 ended)
    let newly := (List.range quads.length).filter (fun q =>
      w.quadLive q && (match quads[q]? with | some x => x.ended | none => false))
    let s := newly.foldl (fun s q => flushSlice s w q) s
    let s := s.updWave k (fun w =>
      { w with
        act := w.act &&& ~~~lanes, ended := ended, quads := quads
        slices := w.slices.zipIdx.map (fun (p : Option Nat × Nat) => if newly.contains p.2 then none else p.1)
        starv := if newly.isEmpty then w.starv else 0 }.resplit)
    match s.wave? k with
    | none => s
    | some w => if w.finished then releaseBaton s k else s

end Sys2Proof.Machine
end

