-- ==== Sys2Proof/Machine/Ship.lean ====
section
/-! DEFINITION. Shipped sections (08 R253-R260, 02 R420): SHIP, SHIPT, SRET and the steps of the Benuri cores. -/

namespace Sys2Proof.Machine

/-- A wave at its entry: all lanes active, registers zero, one gang (R13, R15, R255). -/
def blankWave (k : WaveKey) (width nvec : Nat) (pc : Pc) (wcw : Word) : Wave :=
  let n := (width + 3) / 4
  { key := k, grid := 0, team := 0, ctx := 0, wnum := 0, width := width, nvec := nvec, info := none, vregs := [], preds := [],
    sregs := [], act := BitVec.allOnes 96 >>> (96 - width), ended := 0, fstat := 0, amax := [], lc := [], levels := [],
    wcw := wcw, wct := [], ports := [], latch := [], stale := [],
    quads := (List.range n).map (fun q =>
      { pc := pc, mask := if width < 4 * q + 4 then BitVec.allOnes 4 >>> (4 * q + 4 - width) else 0xF#4, ended := false, stack := [] }),
    gangs := [{ quads := List.range n, wait := .none, yielding := false, waitSince := 0, replay := none, owed := none, released := false,
                bound := none, stalledAt := none, hist := [], last := none }],
    rot := 0, consec := 0, offers := false, pend := [], late := [], settling := false, opSeq := 0, batchOpen := [], batchSeq := 1, batches := [],
    shipCtr := 0, cntIss := 0, cntRes := 0, cntBlk := 0, starv := 0, sched := .pending, pooled := [], residentAt := 0, lastIssue := 0,
    slices := [], rejoin := false, trap := none, fetchFault := false, engStop := none, async := [], preempt := .none }

/-! ## Sending -/

/-- R254. -/
def lockHash (a : Nat) : Nat :=
  let x := field a 47 7
  x % 2 ^ 16 ^^^ (x / 2 ^ 16 % 2 ^ 16) ^^^ (x / 2 ^ 32)

/-- Benuri core and device rank of a lock's home. -/
def lockHome (s : State) (fab : Bool) (a : Nat) : Nat × Nat :=
  let y := lockHash a
  if fab then
    let i := y % (48 * s.fabric.clique)
    (i % 48, i / 48)
  else (y % 48, s.fabric.rank)

/-- The shipped section of a loaded code object that holds an address (R253). -/
def sectionAt (s : State) (ctx entry : Nat) : Option Kernel :=
  (s.kernels ctx).find? (fun k => k.shipped && decide (k.codeLo ≤ entry) && decide (entry < k.codeHi))

/-- Fields of R253. -/
def sigShip (h : Hdr) (f : FmtX) (tokens : Bool) (c : Ctx) : Sig :=
  let a := f.m.aux.toNat
  let r := f.m.tile.toNat % 4 + 1
  sigX c.w16 h f
    { dst := if tokens then .reg false else .vec r 1 false, a := .sca true, b := .any true,
      c := if tokens then .win (a + 2) 2 true true else .win a 1 true false, ty := f.m.ty == 0,
      tile := tokens || decide (f.m.tile.toNat < 4), aux := decide (1 ≤ a) && decide (a ≤ 4), sub3 := decide (f.m.sub3.toNat < 2),
      more := if tokens then [.vec (240 + f.m.tile.toNat) 1] else [], sb := !tokens }

/-- The requests of the active lanes, ascending. -/
def shipReqs (f : FmtX) (tokens : Bool) (c : Ctx) (s : State) : List ShipReq :=
  let ofs := if tokens then 2 else 0
  c.lanes.zipIdx.map (fun p =>
    let lock := c.src 1 f.m.sb f.sb true p.1
    let home := lockHome s (f.m.sub3.getLsbD 0) lock
    { lane := p.1, home := home.1, rank := home.2, lock := lock,
      args := (List.range f.m.aux.toNat).map (fun i => c.regAt 2 false f.sc (ofs + i) p.1),
      token := c.w.shipCtr + BitVec.ofNat 16 p.2,
      slotAddr := if tokens then (c.regAt 2 false f.sc 0 p.1).toNat + 2 ^ 32 * (c.regAt 2 false f.sc 1 p.1).toNat else 0,
      arrived := false, result := none, written := false })

def addShip (s : State) (c : Ctx) (o : ShipOp) : State :=
  ({ s with ships := s.ships ++ [o], nextId := s.nextId + 1 }).updWave c.k (fun w => { w with opSeq := w.opSeq + 1 })

/-- The entry's checks, then the requests after a release at the section scope (R253, R255). -/
def shipBody (h : Hdr) (f : FmtX) (tokens : Bool) (sig : Ctx → Sig) (c : Ctx) (s : State) : Exit :=
  let all := laneMask c.lanes
  if c.lanes.isEmpty then .done s
  else if c.w.section? then .trap s { code := Trap.illegalWait, mask := laneMask c.live, det1 := 5 }
  else
    let entry := c.src 0 true f.sa true 0
    match sectionAt s c.w.ctx entry with
    | none => .trap s { code := Trap.shipTarget, mask := all, addr := entry }
    | some kern =>
      match checkTarget s c.core c.w.ctx entry with
      | (.bad, s) => .trap s { code := Trap.branchTarget, mask := laneMask c.live, addr := entry }
      | (.fault x, s) => .trap s { code := Trap.loadFault, mask := laneMask c.live, addr := entry, det1 := x }
      | (.poisoned, s) => .trap s { code := Trap.poison, mask := laneMask c.live, det1 := 1 }
      | (.secure n, s) => .trap s { code := Trap.secureAccess, mask := laneMask c.live, addr := entry, det1 := n }
      | (.ok, s) =>
        let reqs := shipReqs f tokens c s
        let port := 240 + f.m.tile.toNat
        let q := if tokens then c.w.portQueue port else none
        let scopeBad := match q.bind (fun x => (readQueue s x).map (fun y => (x, y))) with
          | some (x, y) => !queueScopeOk s c.w x y.scope
          | none => false
        let odd := reqs.filter (fun r => r.slotAddr % 32 != 0)
        match odd with
        | r :: _ => .trap s { code := Trap.alignment, mask := laneMask (odd.map (·.lane)), addr := r.slotAddr }
        | [] =>
          if scopeBad then .trap s { code := Trap.queueScope, mask := all, addr := c.w.portAddr port }
          else
            releaseFirst s c true (if reqs.all (fun r => r.rank != s.fabric.rank) then 5 else 4)
              (let o : ShipOp :=
                { id := s.nextId, w := c.k, ctx := c.w.ctx, gid := c.w.grid, team := c.w.team, seq := c.w.opSeq, pc := c.pc,
                  fab := f.m.sub3.getLsbD 0, port := if tokens then none else (sig c).port.bind c.w.portQueue, tokens := q,
                  nres := f.m.tile.toNat % 4 + 1, dst := h.dst.toNat, entry := entry, kernel := kern, reqs := reqs }
              let s1 := addShip s c o
              if tokens then
                let n := BitVec.ofNat 16 reqs.length
                .done ((commitAlu s1 c (sig c)
                    { writes := reqs.map (fun r => ⟨.vec, h.dst.toNat, r.lane, r.token.zeroExtend 32⟩) }).updWave c.k (fun w =>
                  { w with shipCtr := w.shipCtr + n }.progress))
              else .block s1 (.ship o.id))

def execShip (h : Hdr) (f : FmtX) (s : State) : Host.Outcome State Fault Refusal :=
  issue h always (sigShip h f false) (shipBody h f false (sigShip h f false)) s

def execShipt (h : Hdr) (f : FmtX) (s : State) : Host.Outcome State Fault Refusal :=
  issue h always (sigShip h f true) (shipBody h f true (sigShip h f true)) s

def sigSret (h : Hdr) (f : FmtA) (c : Ctx) : Sig :=
  let n := f.m.sub.toNat % 4 + 1
  sigA c.w16 h f { plainMod f.m with a := .win n 1 true false, sub := decide (f.m.sub.toNat < 4) }

/-- R257. -/
def execSret (h : Hdr) (f : FmtA) (s : State) : Host.Outcome State Fault Refusal :=
  let n := f.m.sub.toNat % 4 + 1
  issue h inSection (sigSret h f)
    (fun c s =>
      match c.lanes with
      | [] => .done s
      | l :: _ => .jump (endSection s c.k 0 ((List.range n).map (fun i => c.regAt 0 false f.sa i l)))) s

/-! ## At the homes -/

def State.ship? (s : State) (id : Nat) : Option ShipOp := s.ships.find? (fun o => o.id == id)

def State.updReq (s : State) (id lane : Nat) (f : ShipReq → ShipReq) : State :=
  { s with
    ships := s.ships.map (fun o =>
      if o.id = id then { o with reqs := o.reqs.map (fun r => if r.lane = lane then f r else r) } else o) }

/-- Requests of one wave to one home arrive in issue order, in ascending lane order (R255). -/
def mayArrive (s : State) (o : ShipOp) (r : ShipReq) : Bool :=
  s.ships.all (fun p => p.w != o.w || p.reqs.all (fun q =>
    q.arrived || q.home != r.home || q.rank != r.rank || decide (o.id < p.id) || (p.id == o.id && decide (r.lane ≤ q.lane))))

/-- A request arrives at its home. One for another device has arrived when its flit has left; the home's answer then ends it (R409), as
does a home that nothing reaches any more (R408). -/
def execShipRequestArrive (id lane : Nat) (s : State) : Host.Outcome State Fault Refusal :=
  match s.ship? id with
  | none => .next s
  | some o =>
    match o.reqs.find? (fun r => r.lane == lane) with
    | none => .next s
    | some r =>
      if r.rank ≠ s.fabric.rank ∧ r.result.isNone ∧ !s.reachable r.rank then
        .next (s.updReq id lane (fun r => { r with arrived := true, result := some (0x100, []) }))
      else if r.arrived || !mayArrive s o r then .next s
      else if r.rank ≠ s.fabric.rank then
        .next (if s.flitGone o.ctx r.rank r.flit then s.updReq id lane (fun r => { r with arrived := true }) else s)
      else if 512 ≤ (s.benuri r.home).queue.length then .next s
      else
        .next ((s.updReq id lane (fun r => { r with arrived := true })).updBenuri r.home (fun b =>
          { b with queue := b.queue ++ [(id, lane)] }))

def sectionKey (b : Nat) : WaveKey := ⟨256 + b, 0, 0⟩

/-- The requester of a section, as s4 names it (R255): of a wave of this device, the place where it now stands (log 126). -/
def senderOf (s : State) (o : ShipOp) (r : ShipReq) : Nat :=
  o.sender.getD (o.w.core % 256 + r.lane * 2 ^ 8 + o.w.place * 2 ^ 15 + o.w.slot % 4 * 2 ^ 20 + s.fabric.rank % 16 * 2 ^ 22)

/-- The section's wave (R255). s4 names its sender where it stands at the section's start (log 126). -/
def sectionWave (s : State) (b : Nat) (o : ShipOp) (r : ShipReq) : Wave :=
  let w := blankWave (sectionKey b) 1 (max 8 ((o.kernel.vregs + 7) / 8 * 8)) (BitVec.ofNat 48 o.entry) 0x200
  let w := r.args.zipIdx.foldl (fun (w : Wave) p => w.wrV p.2 0 p.1) w
  { ((w.wrS 2 (BitVec.ofNat 32 r.lock)).wrS 3 (BitVec.ofNat 32 (r.lock / 2 ^ 32))).wrS 4 (BitVec.ofNat 32 (senderOf s o r)) with
    ctx := o.ctx, info := some { ship := o.id, lane := r.lane, start := s.gtb, outcome := none }, residentAt := s.cyc }

/-- A home takes its next request, one at a time (R255, R259). -/
def execSectionStart (benuri : Nat) (s : State) : Host.Outcome State Fault Refusal :=
  let b := s.benuri benuri
  if (s.wave? (sectionKey benuri)).isSome || 512 ≤ b.held.length then .next s
  else
    match b.queue with
    | [] => .next s
    | (id, lane) :: rest =>
      let s1 := s.updBenuri benuri (fun x => { x with queue := rest })
      match s.ship? id with
      | none => .next s1
      | some o =>
        match o.reqs.find? (fun r => r.lane == lane) with
        | none => .next s1
        | some r =>
          let part := s.partOf (256 + benuri)
          let s2 := s1.updBenuri benuri (fun x => { x with desc := if o.w.core < 256 then s.desc o.w.core o.ctx else s.ctxDesc part o.ctx })
          .next { s2 with waves := s2.waves ++ [sectionWave s2 benuri o r] }

/-- A section's budget is 50 µs from its entry (R260). -/
def execSectionBudgetExpire (benuri : Nat) (s : State) : Host.Outcome State Fault Refusal :=
  match s.wave? (sectionKey benuri) with
  | none => .next s
  | some w =>
    match w.info with
    | none => .next s
    | some i =>
      if i.outcome.isNone && decide (i.start + 50000 ≤ s.gtb) then .next (endSection s w.key 0x200 []) else .next s

/-! ## Returning -/

/-- The writes of SHIP's results; an aborted lane keeps its registers (R258, R260). -/
def shipWrites (o : ShipOp) : List RegWr :=
  (o.reqs.map (fun r =>
    match r.result with
    | some (0, l) => (List.range o.nres).map (fun i => (⟨.vec, o.dst + i, r.lane, l.getD i 0⟩ : RegWr))
    | _ => [])).flatten

def shipAbort (o : ShipOp) : Option TrapRec :=
  let bad := o.reqs.filter (fun r => match r.result with | some (0, _) => false | _ => true)
  match bad with
  | [] => none
  | r :: _ =>
    let status := (r.result.map (·.1)).getD 0
    some (({ code := Trap.shipAbort, mask := laneMask (bad.map (·.lane)), det1 := if status = 0x200 then 0 else status - 0x100,
             det2 := r.lane } : TrapInfo).at_ o.pc)

/-- The requests of a peer whose sections have ended are answered (R258, R409). -/
def answerShip (s : State) (o : ShipOp) : State :=
  let posts := o.reqs.filterMap (fun r => r.flit.bind (fun n => r.result.map (fun x =>
    { ctx := o.ctx, rank := o.w.slot, payload := Config.connEnded n x.1 x.2 : Post })))
  { s with
    ships := s.ships.filter (fun x => x.id != o.id)
    fabric := { s.fabric with posts := s.fabric.posts ++ posts } }

/-- Every lane's section has ended: SHIP completes (R258), or raises SHIP_ABORT after itself (R260). -/
def execShipResultsReturn (id : Nat) (s : State) : Host.Outcome State Fault Refusal :=
  match s.ship? id with
  | none => .next s
  | some o =>
    if o.tokens.isSome || o.reqs.any (fun r => r.result.isNone) then .next s
    else if o.sender.isSome then .next (answerShip s o)
    else
      let regs := if o.port.isSome then [] else shipWrites o
      let s1 := ({ s with ships := s.ships.filter (fun x => x.id != id) }).updWave o.w (fun w => (w.wrAll regs).progress)
      let s2 : State := match o.port, s1.anyWave? o.w with
        | some q, some w => sendPush s1 w o.pc q ((shipWrites o).map (fun (r : RegWr) => r.x.toNat))
        | _, _ => s1
      match s2.wave? o.w with
      | none => .next ((shipAbort o).elim s2 (reportAt s2 o.w 6 false))
      | some w =>
        if w.finished then .next s2
        else if w.sched = .trapped then .next ((shipAbort o).elim s2 (reportAt s2 o.w 6 false))
        else
          let q := ((w.gangs.find? (fun g => g.wait == .ship id)).map (fun g => g.quads.headD 0))
          let s3 := match q with
            | some q => s2.updWave o.w (fun w => w.completeWait q)
            | none => s2
          .next ((shipAbort o).elim s3 (park s3 o.w))

/-- The result slot's 32 bytes (R258). -/
def slotBytes (r : ShipReq) : Nat :=
  match r.result with
  | some (status, l) =>
    ((List.range 4).map (fun i => (l.getD i 0).toNat * 2 ^ (32 * i))).sum + status * 2 ^ 128 + r.token.toNat * 2 ^ 160
  | none => 0

/-- The slot is written through the sender's page tables, and the first component says that this is done; an address that does not
translate takes no slot. -/
def writeSlot (s : State) (o : ShipOp) (r : ShipReq) : Bool × State :=
  match translateG s o.w.core o.ctx .store false r.slotAddr with
  | (.fault _, s) => (true, s)
  | (.ok t _, s) =>
    if s.writable t 32 && !walkerBusy s o.ctx then (true, (s.writeAt t 32 (slotBytes r)).posted o.w.core o.ctx t 32) else (false, contestAll s t 32)

/-- A request that is over leaves its instruction; the last one ends it. -/
def dropReq (s : State) (id lane : Nat) : State :=
  { s with
    ships := (s.ships.map (fun o => if o.id = id then { o with reqs := o.reqs.filter (fun r => r.lane != lane) } else o)).filter
      (fun o => !o.reqs.isEmpty) }

/-- The first token that the Benuri core of this number on another device holds for waves of this one, or that an unreached home leaves
(R258, R259). -/
def farToken (s : State) (home : Nat) : Option (Nat × Nat) :=
  s.ships.findSome? (fun o =>
    if o.tokens.isNone then none
    else (o.reqs.find? (fun r => r.rank != s.fabric.rank && r.home == home && r.result.isSome)).map (fun r => (o.id, r.lane)))

/-- A token's slot is written, then the token is pushed when its queue has room, and leaves its buffer by `pop` (R259). -/
def pushToken (s : State) (x : Nat × Nat) (pop : State → State) : State :=
  match (s.ship? x.1).bind (fun o => (o.reqs.find? (fun r => r.lane == x.2)).map (fun r => (o, r))) with
  | none => pop s
  | some (o, r) =>
    match if r.written then (true, s) else writeSlot s o r with
    | (false, s1) => s1
    | (true, s1) =>
      let s2 := s1.updReq x.1 x.2 (fun r => { r with written := true })
      match o.tokens.bind (fun q => (readQueue s2 q).map (fun h => (q, h))) with
      | none => dropReq (pop s2) x.1 x.2
      | some (q, h) => if roomOf s2 q h = 0 then s2 else dropReq (pop (unitPush s2 o.w.core q r.token.toNat)) x.1 x.2

/-- The oldest held token of the Benuri core, and of the one of the same number on another device (R259). -/
def execShiptTokenPush (benuri : Nat) (s : State) : Host.Outcome State Fault Refusal :=
  let s1 := match (s.benuri benuri).held with
    | [] => s
    | x :: rest => pushToken s x (fun s => s.updBenuri benuri (fun b => { b with held := rest }))
  .next (match farToken s1 benuri with
    | none => s1
    | some x => pushToken s1 x id)

end Sys2Proof.Machine
end

