-- ==== Sys2Proof/Machine/Place.lean ====
section
/-! DEFINITION. Occupancy: slots, slices, windows and tiles (12 R347, 02 R43, R64, 09 R289), the comb layout of a pair
(12 R338), and the making of teams and waves (01 R10, R13). -/

namespace Sys2Proof.Machine

/-! ## Sizes of a kernel -/

def Kernel.lanes (k : Kernel) : Nat := k.x * k.y * k.z

def Kernel.waves (k : Kernel) : Nat := k.lanes / k.width

/-- R43. -/
def Kernel.nvec (k : Kernel) : Nat := max 8 ((k.vregs + 7) / 8 * 8)

def Kernel.sliceBytes (k : Kernel) : Nat := 16 * k.nvec

/-- R64. -/
def Kernel.window (k : Kernel) : Nat := (k.scomb + 4095) / 4096 * 4096

def Kernel.quadsPerWave (k : Kernel) : Nat := (k.width + 3) / 4

/-- Bytes of comb store that a team needs. -/
def Kernel.combBytes (k : Kernel) : Nat := k.waves * k.quadsPerWave * k.sliceBytes + k.window

/-- R10. -/
def Kernel.span (k : Kernel) : Bool := decide (48 < k.waves) || decide (0x100000 < k.combBytes)

/-- Number of set bits. -/
def popCount (w x : Nat) : Nat := ((List.range w).filter (fun i => x.testBit i)).length

/-- R362. -/
def Kernel.saveSize (k : Kernel) : Nat :=
  let n := popCount 16 k.tiles.toNat
  let sum := 4096 + 1024 * k.waves + (16 * k.nvec + 128) * (k.lanes / 4) + k.window + 24576 * n + (if n = 0 then 0 else 17408)
  (sum + 4095) / 4096 * 4096

/-! ## Wave keys -/

/-- Every operation in flight that is named by a wave goes by a new key. Creators of queues keep theirs. -/
def State.rekey (s : State) (f : WaveKey → WaveKey) : State :=
  let head (h : ChainHead) : ChainHead := { h with w := f h.w }
  let cmd (c : Cmd) : Cmd := if c.isMark then c else { c with w := f c.w }
  let io (r : IoReq) : IoReq := { r with w := f r.w }
  { s with
    mops := s.mops.map (fun o => { o with w := f o.w })
    loads := s.loads.map (fun o => { o with w := f o.w })
    ships := s.ships.map (fun o => { o with w := f o.w })
    io := { s.io with reqs := s.io.reqs.map io, posted := s.io.posted.map io }
    ports := s.ports.map (fun p => { p with reqs := p.reqs.map (fun r => { r with waiters := r.waiters.map (fun x => (f x.1, x.2)) }) })
    poison := s.poison.map (fun p => match p with
      | .waveState k => .waveState (f k)
      | .slice k q => .slice (f k) q
      | p => p)
    teams := s.teams.map (fun t =>
      { t with savedCmds := t.savedCmds.map cmd, events := t.events.map (fun e => { e with w := f e.w }) })
    cores := s.cores.map (fun c =>
      { c with
        chans := c.chans.map (fun ch =>
          { ch with heads := ch.heads.map head, walking := ch.walking.map head, xfers := ch.xfers.map (fun x => { x with w := f x.w }) })
        tableOps := c.tableOps.map (fun o => { o with w := f o.w })
        eng := { c.eng with cmds := c.eng.cmds.map cmd, baton := c.eng.baton.map f, queue := c.eng.queue.map (fun x => (f x.1, x.2)) }
        retry := c.retry.map (fun r => { r with w := f r.w, opInfo := { r.opInfo with w := f r.opInfo.w } }) }) }

/-- A key that no place has: a saved or departed wave's. Slot and place still read as they were. -/
def awayKey (k : WaveKey) (id : Nat) : WaveKey := { k with slot := k.slot % 4 + 4 * (id + 1) }

/-! ## Places, slices, pages, tiles -/

def slotWaves (s : State) (core slot : Nat) : List Wave := s.waves.filter (fun w => w.key.core == core && w.key.slot == slot)

/-- The slot with the most free places, the lower-numbered on a tie, and its first free place (R347). -/
def chooseSlot (s : State) (core width : Nat) : Option (Nat × Nat) :=
  let free (slot : Nat) : Nat :=
    let l := slotWaves s core slot
    if (l.map (·.width)).sum + width ≤ 1536 then 24 - l.length else 0
  let best := [1, 2, 3].foldl (fun b i => if free b < free i then i else b) 0
  if free best = 0 then none
  else
    ((List.range 24).find? (fun p => (slotWaves s core best).all (fun w => w.key.place != p))).map (fun p => (best, p))

/-- Banks of a mode that take allocations. -/
def banksOf (x : Core) (mode : Nat) : List Nat :=
  (List.range 64).filter (fun b => SMap.get 0 x.modes b == mode && !x.changes.any (fun c => c.bank == b))

/-- Room for a slice in a REG bank (R43). -/
def findSlice (x : Core) (size : Nat) : Option Nat :=
  (banksOf x 1).findSome? (fun b =>
    let used := x.slices.filter (fun (p : Nat × Nat) => p.1 / 0x8000 == b)
    (b * 0x8000 :: used.map (fun (p : Nat × Nat) => p.1 + p.2)).find? (fun o =>
      decide (o + size ≤ (b + 1) * 0x8000) && used.all (fun (p : Nat × Nat) => decide (o + size ≤ p.1) || decide (p.1 + p.2 ≤ o))))

/-- A slice for each live quad; none when the core has no room. -/
def takeSlices (size : Nat) : List Bool → Core → Option (List (Option Nat) × Core)
  | [], x => some ([], x)
  | live :: t, x =>
    if live then
      (findSlice x size).bind (fun o =>
        (takeSlices size t { x with slices := x.slices ++ [(o, size)] }).map (fun r => (some o :: r.1, r.2)))
    else (takeSlices size t x).map (fun r => (none :: r.1, r.2))

/-- Pages of SCR banks for a window; eight to a bank (R64). -/
def takePages (x : Core) (n : Nat) : Option (List Nat × Core) :=
  let free := ((banksOf x 2).flatMap (fun b => (List.range 8).map (fun i => 8 * b + i))).filter (fun p => !x.scrPages.contains p)
  if free.length < n then none
  else some (free.take n, { x with scrPages := x.scrPages ++ free.take n })

/-- Physical tiles that teams hold on an engine. -/
def tilesInUse (s : State) (core : Nat) : List Nat :=
  ((s.teams.filter (fun t => t.core == core && t.res == .resident)).map (fun t => t.tiles.map (·.2))).flatten

/-- Logical tiles take physical ones: even-odd pairs first, together (R289). -/
def takeTiles (used : List Nat) (mask : BitVec 16) : Option (List (Nat × Nat)) :=
  let pairs := (List.range 8).filter (fun i => mask.getLsbD (2 * i) && mask.getLsbD (2 * i + 1))
  let singles := (List.range 16).filter (fun n => mask.getLsbD n && !pairs.contains (n / 2))
  let a := pairs.foldl (fun (r : Option (List (Nat × Nat))) i =>
    r.bind (fun l =>
      let busy := used ++ l.map (·.2)
      ((List.range 8).find? (fun p => !busy.contains (2 * p) && !busy.contains (2 * p + 1))).map (fun p =>
        l ++ [(2 * i, 2 * p), (2 * i + 1, 2 * p + 1)]))) (some [])
  singles.foldl (fun (r : Option (List (Nat × Nat))) n =>
    r.bind (fun l =>
      let busy := used ++ l.map (·.2)
      ((List.range 16).find? (fun p => !busy.contains p)).map (fun p => l ++ [(n, p)]))) a

/-! ## The comb layout of a pair -/

/-- COMBLAY of a descriptor, and the mode of a bank in it (R337). -/
def layoutOf (d : Nat) : BitVec 192 := BitVec.ofNat 192 (field d 447 256)

def layoutMode (l : BitVec 192) (bank : Nat) : Nat := field l.toNat (3 * bank + 2) (3 * bank)

/-- A reserved code leaves every bank OFF (R338). -/
def layoutBad (l : BitVec 192) : Bool := (List.range 64).any (fun b => decide (4 < layoutMode l b))

def layoutCount (l : BitVec 192) (mode : Nat) : Nat :=
  if layoutBad l then 0 else ((List.range 64).filter (fun b => layoutMode l b == mode)).length

/-- Teams resident on a pair; one that spans it has its first core there. -/
def pairTeams (s : State) (pair : Nat) : List Team := s.teams.filter (fun t => t.core / 2 == pair && t.res == .resident)

/-- R338: the pair is empty and last ran another context or another layout. -/
def needLayout (s : State) (pair ctx d : Nat) : Bool :=
  let x := s.core (2 * pair)
  (pairTeams s pair).isEmpty && (x.lastCtx != some ctx || x.comblay != layoutOf d)

/-- R338: every bank starts its change to the layout's mode; with a new context the translations go. -/
def startLayout (s : State) (pair ctx d : Nat) : State :=
  let l := layoutOf d
  [2 * pair, 2 * pair + 1].foldl (fun s c =>
    let s1 := (List.range 64).foldl (fun s b =>
      let m := if layoutBad l then 0 else layoutMode l b
      if s.bankMode c b = m then s else beginChange s c b m) s
    s1.updCore c (fun x =>
      { x with
        tlb := if x.lastCtx = some ctx then x.tlb else []
        icache := if x.lastCtx = some ctx then x.icache else unmapLines (fun _ => true) x.icache
        lastCtx := some ctx, comblay := l })) s

/-- The changes of both cores over. -/
def endLayout (s : State) (pair : Nat) : State :=
  [2 * pair, 2 * pair + 1].foldl (fun s c => (s.core c).changes.foldl (fun s b => endChange s c b.bank b.mode) s) s

def layoutPending (s : State) (pair : Nat) : Bool :=
  [2 * pair, 2 * pair + 1].any (fun c => !(s.core c).changes.isEmpty)

/-! ## Seating waves -/

/-- The comb allocator of the core has taken a COMBCFG in this cycle: it takes an admission before it, so none follows (R41). -/
def combTaken (s : State) (core : Nat) : Bool := (s.core core).changes.any (fun x => x.taken == s.cyc)

/-- A wave takes a place and slices on a core; what it has in flight goes by its new key. Poison of the wave that was there before is
not its own. -/
def seatWave (s : State) (core : Nat) (w : Wave) : Option State :=
  (if combTaken s core then none else chooseSlot s core w.width).bind (fun p =>
    (takeSlices (16 * w.nvec) (w.quads.map (fun q => !q.ended)) (s.core core)).map (fun r =>
      let key : WaveKey := ⟨core, p.1, p.2⟩
      let stale (p : PoisonLoc) : Bool :=
        match p with | .waveState k => k == key | .slice k _ => k == key | _ => false
      let s0 := { s with poison := s.poison.filter (fun p => !stale p) }
      let s1 := (s0.updCore core (fun _ => r.2)).rekey (fun k => if k = w.key then key else k)
      { s1 with waves := s1.waves ++ [{ w with key := key, slices := r.1, residentAt := s.cyc }] }))

/-- The core of a wave of a team (R10). -/
def waveCore (k : Kernel) (core wnum : Nat) : Nat :=
  if k.span then (if wnum < (k.waves + 1) / 2 then core / 2 * 2 else core / 2 * 2 + 1) else core

def seatWaves (k : Kernel) (core : Nat) : List Wave → State → Option State
  | [], s => some s
  | w :: t, s =>
    if w.quads.all (·.ended) then seatWaves k core t { s with waves := s.waves ++ [w] }
    else (seatWave s (waveCore k core w.wnum) w).bind (seatWaves k core t)

/-- A new wave's control word: the scoreboard mode of its context (R60, R337). -/
def entryWcw (d : Nat) : Word :=
  let sbm := if field d 503 502 = 3 then 2 else field d 503 502
  BitVec.ofNat 32 (sbm * 2 ^ 8)

/-- R13. -/
def entryWave (g : Grid) (num core wnum d : Nat) : Wave :=
  let k := g.kernel
  let w := blankWave ⟨core, 0, 31⟩ k.width k.nvec (BitVec.ofNat 48 k.entry) (entryWcw d)
  { (w.wrS 0 (BitVec.ofNat 32 g.desc.param)).wrS 1 (BitVec.ofNat 32 (g.desc.param / 2 ^ 32)) with
    grid := g.gid, team := num, ctx := g.ctx, wnum := wnum }

/-- The window and the tiles of a team on its core. -/
def takeHome (s : State) (k : Kernel) (core : Nat) : Option (List Nat × List (Nat × Nat) × State) :=
  (takePages (s.core core) (k.window / 4096)).bind (fun p =>
    (takeTiles (tilesInUse s core) k.tiles).map (fun l => (p.1, l, s.updCore core (fun _ => p.2))))

/-- Windows start zero (R64), tiles with +0 and tag 0 (R289); what poisoned them before goes (R392). -/
def clearHome (s : State) (core : Nat) (pages : List Nat) (tiles : List (Nat × Nat)) : State :=
  let stale (p : PoisonLoc) : Bool :=
    match p with
    | .scratchpad c n => c == core && pages.contains (n / 128)
    | .engineTile c n => c == core && tiles.any (fun t => t.2 == n)
    | _ => false
  { s with poison := s.poison.filter (fun p => !stale p) }.updCore core (fun x =>
    { x with
      comb := x.comb.filter (fun p => !pages.contains (p.1 / 4096))
      eng := tiles.foldl (fun e (p : Nat × Nat) => e.updTile p.2 (fun _ => Tile.reset)) x.eng })

/-- Both cores of the team are in service (R394). -/
def inService (s : State) (k : Kernel) (core : Nat) : Bool :=
  if k.span then !(s.core (core / 2 * 2)).oos && !(s.core (core / 2 * 2 + 1)).oos else !(s.core core).oos

/-- A new team on a core, all of it or nothing (R11, R13, R25, R337, R347). -/
def placeTeam (s : State) (g : Grid) (num seq core lo hi : Nat) : Option State :=
  let k := g.kernel
  let home := if k.span then core / 2 * 2 else core
  let d := s.ctxDesc g.part g.ctx
  if !inService s k core then none
  else
    (takeHome s k home).bind (fun h =>
      let t : Team :=
        { gid := g.gid, num := num, ctx := g.ctx, seq := seq, rank := num % k.cluster, core := home, span := k.span,
          scomb := k.window, pages := h.1, tiles := h.2.1, lo := lo, hi := hi, splitAt := none, res := .resident, saved := [], savedWindow := [],
          savedTiles := [], savedBufs := [], savedCmds := [], savedLocks := [], saveSlot := none, waitAddr := 0, eligibleAt := 0,
          terminated := false, failCode := 0, events := [] }
      let s1 := clearHome h.2.2 home h.1 h.2.1
      let s2 := { s1 with teams := s1.teams ++ [t] }
      let s3 := [home / 2 * 2, home / 2 * 2 + 1].foldl (fun s c =>
        s.updCore c (fun x => { x with descs := SMap.set 0 x.descs g.ctx d })) s2
      seatWaves k core ((List.range k.waves).map (fun i => entryWave g num (waveCore k core i) i d)) s3)

/-- On the named core, or on its partner when it has no room. -/
def onPair (core : Nat) (f : Nat → Option State) : Option State :=
  match f core with
  | some s => some s
  | none => f (if core % 2 = 0 then core + 1 else core - 1)

/-- The teams of a cluster, in rank order (R11, R349). -/
def placeTeams (g : Grid) (core lo hi : Nat) : List Nat → Nat → State → Option State
  | [], _, s => some s
  | n :: t, seq, s => (onPair core (fun c => placeTeam s g n seq c lo hi)).bind (placeTeams g core lo hi t (seq + 1))

end Sys2Proof.Machine
end

