-- ==== Sys2Proof/Machine/Recover.lean ====
section
/-! DEFINITION. The saving and restoring of teams (01 R33, R34, 12 R362-R364, 09 R309) and the termination of teams and
contexts (13 R387, R388, 12 R368). -/

namespace Sys2Proof.Machine

def State.teamWavesOf (s : State) (t : Team) : List Wave :=
  s.waves.filter (fun w => !w.section? && w.grid == t.gid && w.team == t.num)

/-- The kernel of a team's grid, and the grid. -/
def State.gridOf (s : State) (t : Team) : Option Grid := s.grid? t.gid (s.partOf t.core)

/-- Teams of the cluster, the team included. -/
def clusterOf (s : State) (t : Team) : List Team :=
  let c := ((s.gridOf t).map (·.kernel.cluster)).getD 1
  s.teams.filter (fun u => u.gid == t.gid && u.num / c == t.num / c)

/-! ## Saving -/

/-- Physical address of a save slot (R337, R362). -/
def saveAddr (d idx : Nat) : Nat := field d 127 64 + idx * (field d 255 240 * 4096)

/-- A free save slot of the context (R362). -/
def freeSave (s : State) (part ctx d : Nat) : Option Nat :=
  let used := (s.teams.filter (fun t => s.partOf t.core == part && t.ctx == ctx)).filterMap (·.saveSlot)
  (List.range (field d 239 224)).find? (fun i => !used.contains i)

/-- R363. -/
def saveHeader (t : Team) (kind nwave wobj gtb : Nat) (tiles : Nat) : Nat :=
  t.gid % 2 ^ 40 + (t.seq % 2 ^ 32) * 2 ^ 64 + (t.num % 2 ^ 32) * 2 ^ 96 + (nwave % 256) * 2 ^ 128 + (kind % 4) * 2 ^ 136
    + (tiles % 2 ^ 16) * 2 ^ 144 + (gtb % 2 ^ 64) * 2 ^ 192 + (wobj % 2 ^ 64) * 2 ^ 256

/-- What a side-table entry keeps of a wave (R119, R120). Loop levels stay open whatever LLV says, and only their counters go: the rule
speaks of registers, and the spec does not say what an entry with too small an LLV does to a loop (log 116). -/
def Wave.keepLive (w : Wave) (e : SideEntry) : Wave :=
  { w with
    vregs := w.vregs.filter (fun p => decide (p.1 / 96 < e.nv.toNat))
    preds := w.preds.filter (fun p => decide (p.1 / 96 ≤ e.np.toNat))
    sregs := w.sregs.filter (fun p => decide (p.1 < e.ns.toNat))
    lc := w.lc.filter (fun p => decide (p.1 < e.llv.toNat))
    amax := if e.al then w.amax else [], latch := if e.ql then w.latch else [] }

/-- The wave off its core: what it issued has retired, so that nothing is pending or to be counted (R114). -/
def Wave.detached (w : Wave) : Wave :=
  let v := w.retireAll
  { v with gangs := v.gangs.map (fun g => { g with hist := [], last := none, stalledAt := none }) }

/-- The wave leaves its place; a holder will ask for the baton again, and gives it up once all that leave with it have left, so that a
waiter among them keeps its place in the queue (R33, R291, R292, R295). -/
def detachWave (s : State) (w : Wave) : State × Wave :=
  let c := s.engineCore w
  let held := (s.core c).eng.baton == some w.key
  let s1 := (List.range w.quads.length).foldl (fun s q => flushSlice s w q) s
  let f := s1.fresh
  let key := awayKey w.key f.1
  let s2 := { f.2 with waves := f.2.waves.filter (fun x => x.key != w.key) }
  (s2.rekey (fun k => if k = w.key then key else k),
    { w.detached with key := key, slices := w.slices.map (fun _ => none), rejoin := w.rejoin || held, preempt := .none })

/-- A holder that has left with its team gives up the baton (R291). -/
def leaveHolder (s : State) (c : Nat) : State :=
  match (s.core c).eng.baton with
  | some k => if decide (4 ≤ k.slot) && (s.anyWave? k).any (·.rejoin) then passBaton s c none else s
  | none => s

def detachAll (s : State) : List Wave → State × List Wave
  | [] => (s, [])
  | w :: t =>
    let r := detachWave s w
    let u := detachAll r.1 t
    (u.1, r.2 :: u.2)

/-- Bytes of a window, by their offsets. -/
def windowBytes (x : Core) (pages : List Nat) : SMap Byte :=
  (pages.zipIdx.map (fun p =>
    (x.comb.filter (fun b => b.1 / 4096 == p.1)).map (fun b => (p.2 * 4096 + b.1 % 4096, b.2)))).flatten

/-- The engine's share of a team: its tiles, buffers, commands and their locks (R309). `tiles`, `b0` and `b1` say what is live after the
commands; commands that are still to run need both buffers. -/
def saveEngine (s : State) (t : Team) (tiles : BitVec 16) (b0 b1 : Bool) : State × Team :=
  let x := s.core t.core
  let e := x.eng
  let mine (c : Cmd) : Bool := !c.isMark && c.gid == t.gid && c.team == t.num
  let waiting := e.cmds.findSome? (fun c =>
    match c.kind with | .restore l => if c.gid = t.gid ∧ c.team = t.num then some l else none | _ => none)
  let own (b : BBuf) : Bool := b.valid && b.owner == some (t.gid, t.num)
  let needed := e.cmds.any mine
  let bufs : List (Nat × BBuf) :=
    match waiting with
    | some l => l
    | none => (if own e.b0 && (b0 || needed) then [(0, e.b0)] else []) ++ (if own e.b1 && (b1 || needed) then [(1, e.b1)] else [])
  let ids := (e.cmds.filter mine).map (·.id)
  let t1 : Team :=
    { t with
      savedTiles := (t.tiles.filter (fun p => tiles.getLsbD p.1)).map (fun p => (p.1, e.tile p.2))
      savedBufs := bufs, savedCmds := e.cmds.filter mine, savedLocks := x.locks.filter (fun l => ids.contains l.owner)
      tiles := [] }
  let clear (b : BBuf) : BBuf := if own b then { b with valid := false } else b
  (s.updCore t.core (fun x =>
    { x with
      locks := x.locks.filter (fun l => !ids.contains l.owner)
      eng := { x.eng with
        b0 := clear x.eng.b0, b1 := clear x.eng.b1
        cmds := x.eng.cmds.filter (fun c => !mine c &&
          !(match c.kind with | .restore _ => c.gid == t.gid && c.team == t.num | _ => false)) } }), t1)

/-- A team's live state goes to its save slot and its occupancy is free (R33, R362, R363, R367). -/
def saveTeam (s : State) (t : Team) (kind slot wobj : Nat) (live : Wave → Option SideEntry) : State :=
  let waves := s.teamWavesOf t
  let entries := waves.filterMap (fun w => if w.finished then none else live w)
  let whole := entries.length < (waves.filter (fun w => !w.finished)).length
  let tiles : BitVec 16 := if whole then BitVec.allOnes 16 else entries.foldl (fun m e => m ||| e.tiles) 0
  let e := saveEngine s t tiles (whole || entries.any (·.b0l)) (whole || entries.any (·.b1l))
  let bytes := windowBytes (e.1.core t.core) t.pages
  let r := detachAll e.1 waves
  let d := s.desc t.core t.ctx
  let kept := r.2.map (fun w => match waves.find? (fun x => x.wnum == w.wnum) with
    | some x => match live x with | some n => w.keepLive n | none => w
    | none => w)
  let t1 : Team :=
    { e.2 with
      saved := kept, savedWindow := bytes, saveSlot := some slot, waitAddr := wobj, eligibleAt := s.cyc, pages := []
      res := if kind = 1 then .yielded false else .preempted false }
  let s1 := r.1.updCore t.core (fun x => { x with scrPages := x.scrPages.filter (fun p => !t.pages.contains p) })
  let mask := (t1.savedTiles.map (fun p => 2 ^ p.1)).sum
  let nlive := (waves.filter (fun w => !w.finished)).length
  let s2 := { s1 with mem := s1.mem.writeNat (saveAddr d slot) 64 (saveHeader t kind nlive wobj s1.gtb mask) }
  let fix (u : Team) : Team :=
    { t1 with
      savedCmds := t1.savedCmds.map (fun c =>
        match (waves.zip r.2).find? (fun p => p.1.key == c.w) with | some p => { c with w := p.2.key } | none => c)
      events := u.events }
  s2.updTeam t.gid t.num fix

/-! ## Restoring -/

/-- A window's bytes on the team's new pages (R34). -/
def restoreWindow (pages : List Nat) (bytes : SMap Byte) (m : Memory) : Memory :=
  bytes.foldl (fun m p => m.set (pages.getD (p.1 / 4096) 0 * 4096 + p.1 % 4096) p.2) m

/-- Locks enter a table again, under free indices. -/
def relock (x : Core) (l : List Lock) : Core :=
  { x with locks := l.foldl (fun (t : List Lock) k => t ++ [{ k with index := freeIndex t }]) x.locks }

/-- The baton after a wave has come back: it asks again, or the grant that was held for it begins (R292, R295). On another
engine it leaves the old queue and joins the new one. -/
def batonBack (s : State) (old new_ : Nat) (k : WaveKey) : State :=
  let s1 :=
    if old = new_ then
      if (s.core new_).eng.baton = some k then grantBaton s new_ k else s
    else
      let was := (s.core old).eng.baton == some k
      let inQueue := (s.core old).eng.queue.any (fun x => x.1 == k) || was
      let s := s.updEng old (fun e => e.unqueue k)
      let s := if was then passBaton s old none else s
      if inQueue then takeBaton s new_ k else s
  rejoinBaton s1 k

/-- A saved team comes back on a core, all of it or nothing: its read locks find room in the table as well (R34, R223, R309, R364). -/
def restoreTeam (s : State) (g : Grid) (t : Team) (core : Nat) : Option State :=
  let k := g.kernel
  let home := if k.span then core / 2 * 2 else core
  let d := s.ctxDesc g.part g.ctx
  if !inService s k core || decide (64 < (s.core home).locks.length + t.savedLocks.length) then none
  else
    (takeHome s k home).bind (fun h =>
      let s1 := clearHome h.2.2 home h.1 h.2.1
      let s2 := s1.updCore home (fun x =>
        let e := t.savedTiles.foldl (fun (e : Engine) p =>
          match h.2.1.find? (fun q => q.1 == p.1) with
          | some q => e.updTile q.2 (fun _ => p.2)
          | none => e) x.eng
        relock { x with comb := restoreWindow h.1 t.savedWindow x.comb, eng := e } t.savedLocks)
      let s3 := [home / 2 * 2, home / 2 * 2 + 1].foldl (fun s c =>
        s.updCore c (fun x => { x with descs := SMap.set 0 x.descs g.ctx d })) s2
      let s4 := s3.updTeam t.gid t.num (fun u =>
        { u with
          core := home, pages := h.1, tiles := h.2.1, res := .resident, saved := [], savedWindow := [], savedTiles := [],
          savedLocks := [], saveSlot := none, waitAddr := 0 })
      (seatWaves k core t.saved s4).map (fun s5 =>
        let s6 := (s5.teamWavesOf { t with res := .resident }).foldl (fun s w => batonBack s t.core home w.key) s5
        if (s6.core home).eng.baton.isNone then restoreIdle s6 home else s6))

/-! ## Termination -/

/-- A place lies in the team's window. -/
def inWindowOf (t : Team) (p : Target) : Bool :=
  match p with
  | .comb c o => c == t.core && t.pages.contains (o / 4096)
  | _ => false

/-- Stores of others to the window that have issued and not been checked are checked now (R388 step 1). -/
def checkPeers (s : State) (t : Team) : State :=
  (s.mops.filter (fun o => !o.checked && o.space == 1 && !(o.gid == t.gid && o.team == t.num)
    && o.elems.any (fun e => !e.va.testBit 31 && (windowTeam s o.gid o.team e.va).any (fun p => p.1.gid == t.gid && p.1.num == t.num)))).foldl
      checkStore s

/-- Every access of others to the window that has issued completes with what is there now (R388 step 1). -/
def finishPeers (s0 : State) (t : Team) : State :=
  let s := checkPeers s0 t
  let s1 := { s with
    loads := s.loads.map (fun (o : LOp) =>
      { o with elems := o.elems.map (fun (e : LElem) =>
          if !e.done && inWindowOf t e.target then
            { e with done := true, value := bytesToNat (ownView s o.w o.seq e.va e.target (s.bytesAt e.target e.size)) }
          else e) }) }
  let s2 := s1.loads.foldl (fun s (o : LOp) => finishLoad s o.id) s1
  s2.mops.foldl (fun s (o : MOp) =>
    let s := o.elems.zipIdx.foldl (fun (s : State) (p : MElem × Nat) =>
      match p.1.target with
      | some u =>
        if inWindowOf t u && p.1.phase.unapplied then
          let now : Phase := .arrived s.gtb s.nextId
          let s := (s.fresh).2.updElem o.id p.2 (fun e => { e with phase := now })
          match o.kind, s.mop? o.id with
          | .atomic _ _ _, some q => atomicOne s q u p.2
          | .cas, some q => atomicOne s q u p.2
          | _, some q => applied (applyElem s q p.1 u) q p.2 u s.gtb
          | _, none => s
        else s
      | none => s) s
    atomicReturn s o.id) s2

/-- The team's operations stop; their locks go (R387). -/
def killOps (s : State) (t : Team) : State :=
  { s with
    cores := s.cores.map (fun x =>
      let mine (g n : Nat) : Bool := g == t.gid && n == t.num
      let cmds := x.eng.cmds.filter (fun c => !c.isMark && mine c.gid c.team)
      let ids := cmds.map (·.id) ++ (x.tableOps.filter (fun o => mine o.gid o.team)).map (·.id)
        ++ (x.chans.map (fun ch => (ch.xfers.filter (fun o => mine o.gid o.team)).map (·.id))).flatten
      { x with
        locks := x.locks.filter (fun l => !ids.contains l.owner)
        tableOps := x.tableOps.filter (fun o => !mine o.gid o.team)
        retry := x.retry.map (fun r => if mine r.gid r.team then { r with valid := false } else r)
        eng := { x.eng with cmds := x.eng.cmds.filter (fun c => c.isMark || !mine c.gid c.team) }
        chans := x.chans.map (fun ch =>
          { ch with
            err := ch.err && ch.errTeam != some (t.gid, t.num)
            heads := ch.heads.filter (fun h => !mine h.gid h.team)
            recFault := if (ch.walking.map (fun h => mine h.gid h.team)).getD false then none else ch.recFault
            walking := ch.walking.bind (fun h => if mine h.gid h.team then none else some h)
            xfers := ch.xfers.filter (fun o => !mine o.gid o.team) }) }) }

/-- A peer of the saved team's cluster has failed: it is never eligible to resume (R35). -/
def Team.aborted (t : Team) : Bool := t.events.any (fun e => e.code == Trap.clusterAbort)

def Residence.ineligible : Residence → Residence
  | .yielded _ => .yielded false
  | .preempted _ => .preempted false
  | r => r

/-- The other teams of the cluster learn of it: waves at their next issue boundary, saved members through the trap queue of
the core that held the failed team (R35, R388). -/
def clusterAbort (s : State) (t : Team) (code : BitVec 8) : State :=
  let peers := (clusterOf s t).filter (fun u => u.num != t.num && !u.terminated && u.res != .ended)
  peers.foldl (fun s u =>
    let r := ({ code := Trap.clusterAbort, det1 := t.rank, det2 := code.toNat } : TrapInfo).at_ 0
    if u.res = .resident then
      (s.teamWavesOf u).foldl (fun s w =>
        let told := (w.trap.map (·.code)) == some Trap.clusterAbort || w.async.any (fun a => a.record.code == Trap.clusterAbort)
        if w.finished || told then s else report s w.key 1 r) s
    else if u.aborted then s
    else (teamEvent s t.core u.ctx u.gid u.num ⟨t.core, 0, 0⟩ none r).updTeam u.gid u.num (fun u => { u with res := u.res.ineligible })) s

/-- A saved wave that ends leaves the queue, and what is held for it passes on (R291, R292). -/
def leaveBaton (s : State) (c : Nat) (k : WaveKey) : State :=
  if (s.core c).eng.baton = some k then passBaton s c none else s.updEng c (fun e => e.unqueue k)

/-- The team ends: its waves, its saved state, its records and commands (R387). TEAM_END frees the rest. -/
def endTeamWaves (s : State) (t : Team) (code : BitVec 8) : State :=
  let s1 := finishPeers s t
  let waves := s1.teamWavesOf t
  let keys := waves.map (·.key) ++ t.saved.map (·.key)
  let s2 := waves.foldl (fun s w => endLanes s w.key (BitVec.allOnes 96)) s1
  let s3 := waves.foldl (fun s (w : Wave) =>
    s.updWave w.key (fun w => { w with gangs := [], pend := [], async := [], trap := none, sched := .pending, preempt := .none })) s2
  let s4 := { killOps s3 t with
    loads := (killOps s3 t).loads.filter (fun o => !keys.contains o.w)
    mops := ((killOps s3 t).mops.map (fun (o : MOp) =>
      if o.gid = t.gid ∧ o.team = t.num then
        { o with keys := [], port := none
                 elems := o.elems.map (fun (e : MElem) => if e.phase = Phase.faulted then { e with phase := .discarded } else e) }
      else o)).filter (fun o => o.elems.any (fun e => e.phase.outstanding)) }
  let s5 := t.saved.foldl (fun s (w : Wave) => leaveBaton s t.core w.key) s4
  s5.updTeam t.gid t.num (fun t =>
    { t with
      terminated := true, failCode := code, events := [], saved := [], savedWindow := [], savedTiles := [], savedBufs := [],
      savedCmds := [], savedLocks := [], saveSlot := none })

def terminateTeam (s : State) (gid num : Nat) (code : BitVec 8) : State :=
  match s.team? gid num with
  | none => s
  | some t =>
    if t.terminated || t.res == .ended then s
    else
      let s1 := endTeamWaves s t code
      let s2 := s1.updGrid gid (s.partOf t.core) (fun g => { g with anyTerminated := true })
      clusterAbort s2 t code

/-- Every grid and team of a context ends; the grids' completion objects are written once their stores have applied (R368). -/
def terminateContext (s : State) (part ctx : Nat) : State :=
  let grids := s.grids.filter (fun g => g.part == part && g.ctx == ctx && !g.complete && !g.rejected)
  let s1 := grids.foldl (fun s g =>
    s.updGrid g.gid part (fun g => { g with rejected := true, closing := true })) s
  let gone (e : LqEntry) : Bool := grids.any (fun g => g.gid == e.gid)
  let s2 := s1.updPart part (fun p =>
    { p with lq := p.lq.filter (fun e => !gone e), ring := p.ring.filter (fun e => !gone e) }.refill)
  (s2.teams.filter (fun t => t.ctx == ctx && s.partOf t.core == part && !t.terminated && t.res != .ended)).foldl
    (fun s t => match s.team? t.gid t.num with | some u => endTeamWaves s u 0 | none => s) s2

end Sys2Proof.Machine
end

