-- ==== Sys2Proof/Machine/Distributor.lean ====
section
/-! DEFINITION. The work distributor (12 R341-R351, R354-R357, 01 R24-R37): submission queues, the checks of a grid, admission
in the order of R348, range tasks, the end of teams and grids, budgets. -/

namespace Sys2Proof.Machine

/-! ## Submission queues -/

/-- A queue's descriptor (R342). -/
def sqDesc (s : State) (part q : Nat) : Nat := s.mem.readNat ((s.part part).sqBase.toNat + 32 * q) 32

/-- Bits 4 and 5 of byte 12: EN and ERR. -/
def sqFlags (s : State) (part q : Nat) (f : Byte → Byte) : State :=
  let a := (s.part part).sqBase.toNat + 32 * q + 12
  { s with mem := s.mem.set a (f (s.mem.get a)) }

def sqError (s : State) (part q : Nat) : State := sqFlags s part q (fun b => b ||| 0x20#8)

/-- The port through which a partition's vectors are raised (R398). -/
def msixPort (s : State) (part : Nat) : Nat :=
  match s.root.mode with
  | 0 => s.lease.active
  | 1 => part
  | _ => part / 2

def raiseMsix (s : State) (part : Nat) (v : Option Nat) : State :=
  match v with
  | none => s
  | some n => s.updPort (msixPort s part) (fun p => { p with msix := p.msix ++ [n] })

/-- A doorbell (R341): a bad tail sets ERR. -/
def doorbell (s : State) (part queue : Nat) (tail : Word) : State :=
  let p := s.part part
  let cap := field (sqDesc s part queue) 95 64
  let old := SMap.get 0#32 p.sqTail queue
  let head := SMap.get 0#32 p.sqHead queue
  if cap < (tail - old).toNat ∨ cap < (tail - head).toNat then sqError s part queue
  else s.updPart part (fun p => { p with sqTail := SMap.set 0#32 p.sqTail queue tail })

/-- R398: in one-partition mode a doorbell of the standby port is ignored and counted. -/
def portDoorbell (s : State) (port part queue : Nat) (tail : Word) : State :=
  if s.root.mode = 0 ∧ port ≠ s.lease.active then { s with lease := { s.lease with ignored := s.lease.ignored + 1 } }
  else doorbell s part queue tail

/-- A port answers accesses of its host: its link is up, and bring-up is past its host ports and has not failed (R418). -/
def portAnswers (s : State) (port : Nat) : Bool :=
  decide (port < 2) && (s.port port).up && decide (3 ≤ s.root.boot) && s.root.boot != 15

/-- A doorbell from a port that serves the partition and answers its host (R418). -/
def execSqdbWrite (port part queue : Nat) (tail : Word) (s : State) : Host.Outcome State Fault Refusal :=
  if 256 ≤ queue || !(portsOf s part).contains port || !portAnswers s port then .next s else .next (portDoorbell s port part queue tail)

/-- R342. -/
def execSqEnable (part queue : Nat) (s : State) : Host.Outcome State Fault Refusal :=
  if 256 ≤ queue then .next s
  else
    .next ((sqFlags s part queue (fun b => (b &&& 0xDF#8) ||| 0x10#8)).updPart part (fun p =>
      { p with sqHead := SMap.set 0#32 p.sqHead queue (SMap.get 0#32 p.sqTail queue) }))

/-- A walk of a context's tables for a store by the distributor; A and D are set as by any walk (R385). -/
def walkStore (s : State) (part ctx d va : Nat) : Option Target × State :=
  if 2 ^ 57 ≤ va then (none, s)
  else
    match walkFrom s part va 5 (field d 63 0) with
    | .fault _ => (none, s)
    | .leaf e lvl a =>
      if !Need.store.allows e then (none, s)
      else
        let s1 := orEntry s ctx a 0xC0
        match leafPlace s1 part false e lvl va with
        | .ok t _ => (some t, s1)
        | .fault _ => (none, s1)

/-- The completion object of a grid as its context's tables now place it (R229); where they no longer do, its place at the submission. -/
def doneStore (s : State) (g : Grid) : Target × State :=
  match walkStore s g.part g.ctx (s.ctxDesc g.part g.ctx) g.desc.done with
  | (some t, s) => (t, s)
  | (none, s) => (g.doneTarget, s)

/-- The device may write the object now: its line, and after the D bits of its context (R385); else it waits, and moves a SHARED region
(R403). -/
def doneReady (s : State) (ctx : Nat) (t : Target) : Bool := s.writable t 32 && !walkerBusy s ctx

/-- The queue may be fetched from. -/
def sqReady (s : State) (part q : Nat) : Bool :=
  let p := s.part part
  let d := sqDesc s part q
  d.testBit 100 && !d.testBit 101 && SMap.get 0#32 p.sqHead q != SMap.get 0#32 p.sqTail q && field d 95 64 != 0

/-- The queue whose turn it is (R343). -/
def sqTurn (s : State) (part : Nat) : Option Nat :=
  let r := (s.part part).rr
  (List.range 256).find? (fun i => sqReady s part ((r + i) % 256)) |>.map (fun i => (r + i) % 256)

/-- R341, R343, R345. -/
def execSqFetch (part queue : Nat) (s : State) : Host.Outcome State Fault Refusal :=
  let s0 := s.updPart part Partition.refill
  let p := s0.part part
  if 1024 ≤ p.lq.length || sqTurn s0 part != some queue then .next s
  else
    let d := sqDesc s0 part queue
    let head := SMap.get 0#32 p.sqHead queue
    let x := s0.mem.readNat (field d 63 0 + 64 * (head.toNat % field d 95 64)) 64
    let desc := descOf x
    let ctx := field d 111 102
    let msix : Option Nat := if field d 127 112 = 0xFFFF then none else some (field d 127 112)
    let s1 := s0.updPart part (fun p => { p with rr := (queue + 1) % 256 })
    let r := if desc.done % 32 ≠ 0 then (none, s1) else walkStore s1 part ctx (s1.ctxDesc part ctx) desc.done
    match r.1 with
    | none => .next (raiseMsix (sqError r.2 part queue) part msix)
    | some t =>
      if !doneReady r.2 ctx t then .next ((contestAll r.2 t 32).updPart part (fun p => { p with rr := (s.part part).rr }))
      else
        match submitGrid r.2 part ctx (field d 99 98) 0 0 desc msix t with
        | none => .next s
        | some s2 => .next (s2.updPart part (fun p => { p with sqHead := SMap.set 0#32 p.sqHead queue (head + 1) }))

/-! ## The checks of a grid -/

def Grid.range (g : Grid) : Bool := g.desc.flags.testBit 0

def Grid.count (g : Grid) : Nat := g.desc.nx * g.desc.ny * g.desc.nz

/-- R120: the side table of an object is rejected. An entry is judged by the kernel in whose code its PC lies. -/
def sideBad (o : CodeObj) : Bool :=
  let l := o.side.map sideEntry
  let order := (l.zip (l.drop 1)).any (fun p => decide (p.2.pc.toNat ≤ p.1.pc.toNat))
  order || l.any (fun e =>
    e.rsvHi != 0 || e.rsvMid != 0 || e.rsvLo || decide (60 < e.ns.toNat)
      || match o.kernels.find? (fun k => decide (k.codeLo ≤ e.pc.toNat) && decide (e.pc.toNat < k.codeHi)) with
        | none => true
        | some k => decide (k.nvec < e.nv.toNat) || e.tiles &&& ~~~k.tiles != 0)

/-- Cores of a partition that are in service, as pairs. -/
def partPairs (s : State) (part : Nat) : List Nat := (List.range 96).filter (fun p => s.partOf (2 * p) == part)

/-- Teams of a kernel that an empty pair holds under a layout, in whole clusters (R347). -/
def pairCapacity (l : BitVec 192) (k : Kernel) : Nat :=
  let n := if k.span then (k.waves + 1) / 2 else k.waves
  let places := 4 * min 24 (1536 / k.width) / max n 1
  let regs := layoutCount l 1 * (0x8000 / k.sliceBytes) / max (n * k.quadsPerWave) 1
  let scr := if k.window = 0 then places else layoutCount l 2 * 8 / (k.window / 4096)
  let tiles := if k.tiles = 0 then places else
    let pairs := ((List.range 8).filter (fun i => k.tiles.getLsbD (2 * i) && k.tiles.getLsbD (2 * i + 1))).length
    let singles := popCount 16 k.tiles.toNat - 2 * pairs
    ((List.range 17).filter (fun m => decide (m * (2 * pairs + singles) ≤ 16) && decide (m * pairs ≤ 8))).length - 1
  let one := min (min places regs) (min scr tiles)
  let all := if k.span then one else 2 * one
  all / k.cluster * k.cluster

/-- Every reason for which a grid is rejected (R150, R346); where its context is not valid there is but that one (R338). -/
def gridReasons (s : State) (g : Grid) : List Nat :=
  let d := g.desc
  let c := s.ctxDesc g.part g.ctx
  let k := g.kernel
  let on (b : Bool) (n : Nat) : List Nat := if b then [n] else []
  let noKern := k.shipped
  let n := g.count
  let shape := k.lanes = 0 ∨ 2048 < k.lanes ∨ k.lanes % k.width ≠ 0
  let cap := pairCapacity (layoutOf c) k
  if !c.testBit 496 then [11]
  else on (d.rsvA != 0 || d.rsvB != 0 || decide (4 ≤ d.prio) || decide (2 ≤ d.flags)) 5
  ++ (if noKern then [1]
    else
      (if g.range then on (decide (d.hi < d.lo) || d.chunk == 0) 6 ++ on (k.cls == 0) 9 ++ on (k.cluster != 1) 3
        else on (n == 0 || decide (2 ^ 31 < n)) 2 ++ on (n % k.cluster != 0) 3)
      ++ on (decide shape) 12 ++ on (decide (240 < k.vregs)) 13 ++ on (decide (0x100000 < k.scomb)) 14 ++ on ((s.objectOf g).any sideBad) 15
      ++ (if shape ∨ 240 < k.vregs ∨ 0x100000 < k.scomb then []
        else on (cap == 0 || decide (field c 255 240 * 4096 < k.saveSize)) 7
          ++ on (k.cls == 0 && cap != 0 && decide ((partPairs s g.part).length * cap < n)) 4))

/-- The grid is rejected: STATE 2 and a reason; the entry leaves the queue (R150, R343). -/
def rejectGrid (s : State) (g : Grid) (t : Target) (reason : Nat) : State :=
  let s1 := (s.writeAt t 2 (2 + 256 * reason)).posted (s.partCore g.part) g.ctx t 2
  (raiseMsix s1 g.part g.msix).updGrid g.gid g.part (fun g => { g with rejected := true })
    |>.updPart g.part (fun p => { p with lq := p.lq.filter (fun e => e.gid != g.gid) }.refill)

/-! ## Admission -/

/-- A candidate for admission (R348). -/
inductive Cand where
  | back (gid team : Nat)
  | more (gid : Nat)
  | head (gid : Nat)
  deriving DecidableEq, Repr

/-- A pre-emption of the context has timed out: the teams that it saved stay saved until GO is written again (R367). -/
def timedOut (s : State) (part ctx : Nat) : Bool :=
  let p := s.part part
  field p.prctl.toNat 18 16 == 3 && p.prCtx == ctx

/-- A pre-emption of the context is in progress: no further team of it is admitted (R367). -/
def preempting (s : State) (part ctx : Nat) : Bool :=
  let p := s.part part
  field p.prctl.toNat 18 16 == 1 && p.prCtx == ctx

/-- A pair runs the context or is idle, and its teams are not being stopped (R347, R367). -/
def pairOpen (s : State) (part ctx pair : Nat) : Bool :=
  s.partOf (2 * pair) == part && (pairTeams s pair).all (fun t => t.ctx == ctx)
    && !s.waves.any (fun w => w.key.core / 2 == pair && w.preempt != .none)

/-- A team that stands in a save slot. -/
def Team.isSaved (t : Team) : Bool := !t.terminated && match t.res with | .yielded _ => true | .preempted _ => true | _ => false

/-- Teams that a cluster saved together brings back, lowest first. -/
def comingBack (s : State) (t : Team) : List Team :=
  (clusterOf s t).filter Team.isSaved

/-- A wait on an object in a window follows it to the window's new pages (R34). -/
def retarget (s : State) (w : Wave) : Wave :=
  { w with gangs := w.gangs.map (fun g =>
      match g.wait with
      | .tbwait (.comb c o) p a =>
        match placeC s w.key.core false w.grid w.team false a 16 with
        | .ok t _ => { g with wait := .tbwait t p a }
        | _ => { g with wait := .tbwait (.comb c o) p a }
      | .launch (.comb c o) a =>
        match placeC s w.key.core false w.grid w.team false a 1 with
        | .ok t _ => { g with wait := .launch t a }
        | _ => { g with wait := .launch (.comb c o) a }
      | _ => g) }

def restoreTeams (g : Grid) (core : Nat) : List Team → State → Option State
  | [], s => some { s with waves := s.waves.map (fun w => if w.grid = g.gid ∧ !w.section? then retarget s w else w) }
  | t :: l, s => (onPair core (fun c => restoreTeam s g t c)).bind (restoreTeams g core l)

/-- What a candidate comes to on a pair whose layout is in place: the next teams of its grid, or a saved cluster. -/
def placeCand (s : State) (c : Cand) (part core : Nat) : Option State :=
  match c with
  | .back gid team =>
    (s.team? gid team).bind (fun t => (s.grid? gid part).bind (fun g => restoreTeams g core (comingBack s t) s))
  | .more gid => (s.grid? gid part).bind (fun g => next g)
  | .head gid => (s.grid? gid part).bind (fun g => next g)
where
  next (g : Grid) : Option State :=
    if g.range then
      -- a range task begins as team 0; further teams come by RANGE_SPLIT (R350)
      if g.nextTeam = 0 then
        (placeTeams g core g.desc.lo g.desc.hi [0] g.nextSeq s).map (fun s => s.updGrid g.gid g.part (fun g =>
          { g with nextTeam := 1, nextSeq := g.nextSeq + 1 }))
      else none
    else
      (placeTeams g core 0 0 ((List.range g.kernel.cluster).map (g.nextTeam + ·)) g.nextSeq s).map (fun s =>
        s.updGrid g.gid g.part (fun g =>
          { g with nextTeam := g.nextTeam + g.kernel.cluster, nextSeq := g.nextSeq + g.kernel.cluster }))

/-- The grid of a candidate. -/
def candGid (c : Cand) : Nat := match c with | .back g _ => g | .more g => g | .head g => g

def candCtx (s : State) (part : Nat) (c : Cand) : Nat := ((s.grid? (candGid c) part).map (·.ctx)).getD 0

/-- Of the pairs that a grid's team may go to, those that have taken their layout for it, where there are such (R338). -/
def prepared (s : State) (gid : Nat) (l : List Nat) : List Nat :=
  let p := l.filter (fun p => (s.core (2 * p)).starting == some gid && (pairTeams s p).isEmpty)
  if p.isEmpty then l else p

/-- The pair as the candidate would find it. -/
def layoutFor (s : State) (part ctx pair : Nat) : State :=
  let d := s.ctxDesc part ctx
  let s1 := if needLayout s pair ctx d then startLayout s pair ctx d else s
  endLayout s1 pair

/-- A pair on which the candidate can be placed, now or once the pair has its layout. -/
def fitsOn (s : State) (part : Nat) (c : Cand) (pair : Nat) : Bool :=
  let ctx := candCtx s part c
  pairOpen s part ctx pair && (placeCand (layoutFor s part ctx pair) c part (2 * pair)).isSome

/-- The longest interval that a range task can still split, or one that is offered whole (R350, R351). -/
def splitHolder (s : State) (g : Grid) : Option Team :=
  (s.teams.filter (fun t => t.gid == g.gid && s.partOf t.core == g.part && t.res != .ended)).foldl (fun b t =>
    match b with
    | some u => if u.hi - u.lo < t.hi - t.lo ∨ (t.hi - t.lo = u.hi - u.lo ∧ t.num < u.num) then some t else b
    | none => some t) none

def splitMid (lo hi chunk : Nat) : Option Nat :=
  let c := (hi - lo + chunk - 1) / chunk
  if c < 2 then none else some (lo + chunk * ((c + 1) / 2))

/-- The interval that the next team of a range task would receive: offered whole, or split from a holder. -/
def rangeWork (s : State) (g : Grid) : Option (Nat × Nat × Option Nat) :=
  match g.offered with
  | (a, b) :: _ => some (a, b, none)
  | [] => (splitHolder s g).bind (fun t => (splitMid t.lo t.hi g.desc.chunk).map (fun m => (m, t.hi, some t.num)))

/-- A new team of a range task on a core (R350). -/
def splitOn (s : State) (g : Grid) (core : Nat) : Option State :=
  (rangeWork s g).bind (fun w =>
    (placeTeams g core w.1 w.2.1 [g.nextTeam] g.nextSeq s).map (fun s1 =>
      let s2 := match w.2.2 with
        | some n => s1.updTeam g.gid n (fun t => { t with hi := w.1, splitAt := some s.cyc })
        | none => s1
      s2.updGrid g.gid g.part (fun g =>
        { g with
          nextTeam := g.nextTeam + 1, nextSeq := g.nextSeq + 1, offered := if w.2.2.isSome then g.offered else g.offered.drop 1 })))

/-- A pair on which a new team of the range task can be placed, now or once the pair has its layout. -/
def splitFits (s : State) (part : Nat) (g : Grid) (pair : Nat) : Bool :=
  pairOpen s part g.ctx pair && (splitOn (layoutFor s part g.ctx pair) g (2 * pair)).isSome

/-- Teams of a started grid are still to be admitted. -/
def wantsMore (s : State) (g : Grid) : Bool :=
  g.started && !g.complete && !g.rejected && (if g.range then (rangeWork s g).isSome else decide (g.nextTeam < g.count))

/-- Ascending by a key. -/
def insertBy {α : Type} (f : α → Nat) (x : α) : List α → List α
  | [] => [x]
  | y :: t => if f x < f y then x :: y :: t else y :: insertBy f x t

def sortBy {α : Type} (f : α → Nat) (l : List α) : List α := l.foldl (fun a x => insertBy f x a) []

def Residence.eligible : Residence → Bool
  | .yielded b => b
  | .preempted b => b
  | _ => false

/-- Candidates of a level, in order (R348): teams that come back, further teams of started grids, the next grid. -/
def levelCands (s : State) (part prio : Nat) : List Cand :=
  let level (gid : Nat) : Bool := ((s.grid? gid part).map (fun g => g.prio == prio && !preempting s part g.ctx)).getD false
  let backs := sortBy (fun (t : Team) => t.eligibleAt) (s.teams.filter (fun t =>
    s.partOf t.core == part && t.res.eligible && !t.terminated && !(t.res == .preempted true && timedOut s part t.ctx) && (clusterOf s t).all (fun u => !u.aborted) && level t.gid))
  let mores := sortBy (fun (g : Grid) => g.gid) (s.grids.filter (fun g => g.part == part && g.prio == prio && level g.gid && wantsMore s g))
  let heads := ((s.part part).lq.filter (fun e => e.prio == prio)).take 1
  backs.map (fun t => .back t.gid t.num) ++ mores.map (fun g => .more g.gid)
    ++ (if (s.part part).wdctl.getLsbD 1 then []
        else (heads.filter (fun e => level e.gid)).map (fun e => .head e.gid))

/-- Element `n` of a list, counted round; the one element where there is no choice. -/
def pickOf (n : Nat) : List Nat → Nat
  | [x] => x
  | l => l.getD (n % l.length) 0

/-- A concurrent grid wholly resident in one step: each cluster on some pair, chosen freely (R24, R348). -/
def placeAllOf (part : Nat) (c : Cand) : Nat → State → Option State
  | 0, s => some s
  | n + 1, s =>
    let fits := (partPairs s part).filter (fun p =>
      let ctx := candCtx s part c
      pairOpen s part ctx p && !needLayout s p ctx (s.ctxDesc part ctx) && !layoutPending s p
        && (placeCand s c part (2 * p)).isSome)
    if fits.isEmpty then none
    else
      let r := s.freeNat
      (placeCand r.2 c part (2 * pickOf r.1 (prepared s (candGid c) fits))).bind (placeAllOf part c n)

def concurrentOf (s : State) (part : Nat) (c : Cand) : Bool :=
  ((s.grid? (candGid c) part).map (fun g => g.cls == 0)).getD false

/-- Saved clusters of a concurrent grid come back together (R365), each named by the first of its teams that is saved. -/
def savedClusters (s : State) (gid part : Nat) : List Cand :=
  (s.teams.filter (fun t => t.gid == gid && s.partOf t.core == part && t.isSaved
    && (clusterOf s t).all (fun u => !u.isSaved || decide (t.num ≤ u.num)))).map (fun t => .back t.gid t.num)

def placeEach (part : Nat) : List Cand → State → Option State
  | [], s => some s
  | c :: t, s => (placeAllOf part c 1 s).bind (placeEach part t)

/-- All of a concurrent candidate's grid. -/
def placeConcurrent (s : State) (part : Nat) (c : Cand) : Option State :=
  match c with
  | .back gid _ => placeEach part (savedClusters s gid part) s
  | .head gid => (s.grid? gid part).bind (fun g => placeAllOf part c (g.count / g.kernel.cluster) s)
  | .more _ => none

/-- The partition with every pair as the candidate's context would find it. -/
def layoutAll (s : State) (part : Nat) (c : Cand) : State :=
  let ctx := candCtx s part c
  (partPairs s part).foldl (fun s p => if pairOpen s part ctx p then layoutFor s part ctx p else s) s

/-- Where the candidate goes: its next cluster, or the whole of a concurrent grid. -/
def placeStart (s : State) (part : Nat) (c : Cand) : Option State :=
  if concurrentOf s part c then placeConcurrent s part c else placeAllOf part c 1 s

/-- A pair begins to take its layout for a team of this grid, and is kept for that grid meanwhile (R338, log 137). -/
def prepare (s : State) (pair gid ctx : Nat) : State :=
  [2 * pair, 2 * pair + 1].foldl (fun s c => s.updCore c (fun x => { x with starting := some gid }))
    (startLayout s pair ctx (s.ctxDesc (s.partOf (2 * pair)) ctx))

/-- The pairs on which the candidate is to start teams take its context's layout first (R338). -/
def layoutStart (s : State) (part : Nat) (c : Cand) : State :=
  let ctx := candCtx s part c
  let d := s.ctxDesc part ctx
  match placeStart (layoutAll s part c) part c with
  | none => s
  | some t =>
    ((partPairs s part).filter (fun p =>
      decide ((pairTeams s p).length < (pairTeams t p).length) && needLayout s p ctx d && !layoutPending s p)).foldl
        (fun s p => prepare s p (candGid c) ctx) s

/-- The candidate can be admitted now. -/
def candFits (s : State) (part : Nat) (c : Cand) : Bool :=
  if concurrentOf s part c then (placeConcurrent (layoutAll s part c) part c).isSome
  else
    match c with
    | .more gid =>
      match s.grid? gid part with
      | some g =>
        (partPairs s part).any (fun p => if g.range then splitFits s part g p else fitsOn s part c p)
      | none => false
    | _ => (partPairs s part).any (fitsOn s part c)

/-- A concurrent grid at the head, or one that is to come back, cannot be wholly resident: it collects occupancy (R348, R365). -/
def collects (s : State) (part : Nat) (c : Cand) : Bool :=
  (match c with | .more _ => false | _ => true) && concurrentOf s part c && !candFits s part c

/-- The first candidate of a level that fits, and whether a grid of it, or of a higher one, collects occupancy. What is collected is
held against the grids of the level and of lower ones, and not against teams that come back (R348, R365). -/
def firstOf (s : State) (part : Nat) (held : Bool) (l : List Cand) : Option Cand × Bool :=
  let hold := held || l.any (collects s part)
  (l.find? (fun c => (match c with | .back _ _ => true | _ => !hold) && candFits s part c), hold)

/-- The candidate that admission serves next (R348). -/
def nextCand (s : State) (part : Nat) : Option Cand :=
  if !(s.part part).wdctl.getLsbD 0 then none
  else
    let step (r : Option Cand × Bool) (prio : Nat) : Option Cand × Bool :=
      match r.1 with
      | some _ => r
      | none => firstOf s part r.2 (levelCands s part prio)
    ([3, 2, 1, 0].foldl step (none, false)).1

/-- BEGUN in the completion object, at the grid's first admission (R358). -/
def markBegun (s : State) (done : Target) : State :=
  let t := done.plus 16
  s.setByte t (s.byteAt t ||| 0x04#8)

/-- The grid starts: it leaves the launch queue (R343). -/
def startGrid (s : State) (g : Grid) (done : Target) : State :=
  (((markBegun s done).posted (s.partCore g.part) g.ctx (done.plus 16) 1).updGrid g.gid g.part (fun g => { g with started := true })).updPart g.part (fun p =>
    { p with lq := p.lq.filter (fun e => e.gid != g.gid) }.refill)

/-- The first team of a context on an idle pair begins its slice (R357): the pair has admitted its context (R364). -/
def beginSlices (old new_ : State) : State :=
  let fresh := (List.range 96).filter (fun p => (pairTeams old p).isEmpty && !(pairTeams new_ p).isEmpty)
  fresh.foldl (fun s p => [2 * p, 2 * p + 1].foldl (fun s c => s.updCore c (fun x =>
    { x with sliceStart := s.gtb, admittedAt := s.cyc, starting := none })) s) new_

/-- The next grid of the highest level that has one: rejected, or started with its first cluster, or wholly (R348, R150). -/
def execGridAdmit (part : Nat) (s : State) : Host.Outcome State Fault Refusal :=
  let heads := [3, 2, 1, 0].filterMap (fun prio => ((s.part part).lq.find? (fun e => e.prio == prio)).bind (fun e => s.grid? e.gid part))
  match heads.find? (fun g => !(gridReasons s g).isEmpty) with
  | some g =>
    let r := s.freeNat
    let l := gridReasons s g
    let d := doneStore r.2 g
    if doneReady d.2 g.ctx d.1 then .next (rejectGrid d.2 g d.1 (pickOf r.1 l)) else .next (contestAll d.2 d.1 32)
  | none =>
    match nextCand s part with
    | some (.head gid) =>
      match s.grid? gid part with
      | none => .next s
      | some g =>
        let d := doneStore s g
        if !doneReady d.2 g.ctx d.1 then .next (contestAll d.2 d.1 32)
        else
          match placeStart d.2 part (.head gid) with
          | some s1 => .next (beginSlices d.2 (startGrid s1 g d.1))
          | none => .next (layoutStart s part (.head gid))
    | _ => .next s

/-- A further cluster of a started grid on the pair of `core` (R347-R349). -/
def execTeamAdmit (part gid core : Nat) (s : State) : Host.Outcome State Fault Refusal :=
  match s.grid? gid part with
  | none => .next s
  | some g =>
    let pair := core / 2
    if g.range || nextCand s part != some (.more gid) || layoutPending s pair
      || !(prepared s gid ((partPairs s part).filter (fitsOn s part (.more gid)))).contains pair then .next s
    else if needLayout s pair g.ctx (s.ctxDesc part g.ctx) then .next (prepare s pair gid g.ctx)
    else
      match placeCand s (.more gid) part core with
      | some s1 => .next (beginSlices s s1)
      | none => .next s

/-- A core pair with room asks for work of a range task (R350, R351). -/
def execRangeSplit (part gid core : Nat) (s : State) : Host.Outcome State Fault Refusal :=
  match s.grid? gid part with
  | none => .next s
  | some g =>
    let pair := core / 2
    if !g.range || nextCand s part != some (.more gid) || layoutPending s pair
      || !(prepared s gid ((partPairs s part).filter (splitFits s part g))).contains pair then .next s
    else if needLayout s pair g.ctx (s.ctxDesc part g.ctx) then .next (prepare s pair gid g.ctx)
    else
      match splitOn s g core with
      | some s1 => .next (beginSlices s s1)
      | none => .next s

/-! ## The end of a team -/

/-- R37. -/
def teamOver (s : State) (t : Team) : Bool :=
  let mine (g n : Nat) : Bool := g == t.gid && n == t.num
  let waves := s.teamWavesOf t
  waves.all Wave.finished && t.saved.isEmpty && t.events.isEmpty
    && waves.all (fun w => fenceReady s w 0 w.opSeq)
    && s.mops.all (fun o => !mine o.gid o.team)
    && s.ships.all (fun o => !mine o.gid o.team)
    && (s.io.reqs ++ s.io.posted).all (fun r => !mine r.gid r.team)
    && t.savedCmds.isEmpty
    && s.cores.all (fun x =>
      x.eng.cmds.all (fun c => c.isMark || !mine c.gid c.team) && x.tableOps.all (fun o => !mine o.gid o.team)
        && x.chans.all (fun ch => ch.heads.all (fun h => !mine h.gid h.team) && ch.xfers.all (fun o => !mine o.gid o.team)
            && (ch.walking.map (fun h => !mine h.gid h.team)).getD true))

/-- Every team of the grid has ended and no interval is left (R37, R351). -/
def gridOver (g : Grid) : Bool :=
  if g.range then g.endedTeams == g.nextTeam && g.offered.isEmpty else g.endedTeams == g.count

/-- The team's occupancy is free. -/
def freeTeam (s : State) (t : Team) : State :=
  let s1 := { s with waves := s.waves.filter (fun w => w.section? || !(w.grid == t.gid && w.team == t.num)) }
  let s2 := s1.updCore t.core (fun x => { x with scrPages := x.scrPages.filter (fun p => !t.pages.contains p) })
  let s3 := s2.updTeam t.gid t.num (fun t => { t with res := .ended, pages := [], tiles := [], saveSlot := none })
  if (pairTeams s3 (t.core / 2)).isEmpty && t.res == .resident then
    [t.core / 2 * 2, t.core / 2 * 2 + 1].foldl (fun s c => s.updCore c (fun x => { x with retiredAt := s.cyc })) s3
  else s3

/-- The grid completes: STATE 1, with REASON 10 when a team of it was terminated (R37, R387). -/
def completeGrid (s : State) (g : Grid) (t : Target) : State :=
  let s1 := s.updGrid g.gid g.part (fun g => { g with complete := true })
  raiseMsix ((s1.writeAt t 2 (1 + (if g.anyTerminated then 10 * 256 else 0))).posted (s.partCore g.part) g.ctx t 2) g.part g.msix

def execTeamEnd (gid team : Nat) (s : State) : Host.Outcome State Fault Refusal :=
  match s.team? gid team with
  | none => .next s
  | some t =>
    match s.gridOf t with
    | none => .next s
    | some g =>
      if t.res = .ended || !teamOver s t then .next s
      else
        let g1 : Grid :=
          { g with
            endedTeams := g.endedTeams + 1
            offered := if g.range && decide (t.lo < t.hi) then g.offered ++ [(t.lo, t.hi)] else g.offered }
        if gridOver g1 && !g.rejected then
          let d := doneStore s g
          if doneReady d.2 g.ctx d.1 then
            .next (completeGrid ((freeTeam d.2 t).updGrid g.gid g.part (fun _ => g1)) g1 d.1)
          else .next (contestAll d.2 d.1 32)
        else .next ((freeTeam s t).updGrid g.gid g.part (fun _ => g1))

/-! ## Budgets -/

/-- USED and HELD as the device writes them. -/
def setBudget (s : State) (part entry used : Nat) (held : Bool) : State :=
  let x := setField (setField (budEntry s part entry) 127 96 used) 10 10 (if held then 1 else 0)
  { s with mem := s.mem.writeNat (budAddr s part entry) 16 x }

/-- The activity of the entry is this wave's context (R354). -/
def budgetOf (s : State) (part entry : Nat) (w : Wave) : Bool :=
  decide (w.key.core < 192) && s.partOf w.key.core == part && s.waveDesc w 495 488 == entry && s.waveDesc w 496 496 == 1

/-- The GTB at which the present period of `period` ns began. -/
def periodBegin (s : State) (period : Nat) : Nat := s.gtb / period * period

/-- R356: a period begins. What the entry used falls by BUDGET for each start since the last one that was seen; an entry that has seen
none begins with this one. -/
def execPeriodStart (part entry : Nat) (s : State) : Host.Outcome State Fault Refusal :=
  let x := budEntry s part entry
  let period := field x 9 0 * 1000
  let p := s.part part
  let last := SMap.get 0 p.periods entry
  if 256 ≤ entry || period = 0 || periodBegin s period ≤ last then .next s
  else
    let budget := field x 95 64
    let starts := if last = 0 then 1 else s.gtb / period - last / period
    let used := SMap.get 0 p.budUsed entry - starts * budget
    let held := x.testBit 10 && decide (budget ≤ used)
    let s1 := s.updPart part (fun p =>
      { p with budUsed := SMap.set 0 p.budUsed entry used, periods := SMap.set 0 p.periods entry (periodBegin s period) })
    let s2 := setBudget s1 part entry used held
    .next (if held then s2
      else { s2 with waves := s2.waves.map (fun w =>
        if w.sched = .held ∧ budgetOf s2 part entry w then { w with sched := .pending } else w) })

/-- R356: USED has reached BUDGET; a period that begins in the same cycle comes first (R357). -/
def execBudgetExhaust (part entry : Nat) (s : State) : Host.Outcome State Fault Refusal :=
  let x := budEntry s part entry
  let period := field x 9 0 * 1000
  let p := s.part part
  let used := SMap.get 0 p.budUsed entry
  if 256 ≤ entry || period = 0 || decide (SMap.get 0 p.periods entry < periodBegin s period) || decide (used < field x 95 64) then .next s
  else
    let s1 := setBudget s part entry used true
    .next { s1 with waves := s1.waves.map (fun w =>
      if budgetOf s1 part entry w && w.sched != .trapped && w.preempt == .none then { w with sched := .held } else w) }

end Sys2Proof.Machine
end

