-- ==== Sys2Proof/WellFormed.lean ====
section
/-! DEFINITION. Well-formedness of an instruction term. An instruction of the word formats is well formed whatever its
fields hold: an illegal field is a trap of the machine (04 R108), not an ill-formed term; only the
two rows that share opcode 0x011 are told apart by SUB (05 R148). An event is well formed when the places it names exist
(00 R2, R3; 12 R335; 14 R405). -/

namespace Sys2Proof

/-- Compute cores are 0-191; Benuri core n is core 256 + n (00 R2, 02 R420). -/
def WaveKey.wf (w : WaveKey) : Bool :=
  (decide (w.core < 192) && decide (w.slot < 4) && decide (w.place < 24))
    || (decide (256 ≤ w.core) && decide (w.core < 304) && decide (w.slot = 0) && decide (w.place = 0))

def coreOk (c : Nat) : Bool := decide (c < 192)
def chanOk (c : Nat) : Bool := decide (c < 4)
def partOk (p : Nat) : Bool := decide (p < 4)
def portOk (p : Nat) : Bool := decide (p < 2)
def linkOk (p : Nat) : Bool := decide (p < 15)
def benuriOk (b : Nat) : Bool := decide (b < 48)
def quadOk (q : Nat) : Bool := decide (q < 24)
def ctxOk (c : Nat) : Bool := decide (c < 1024)
/-- A context as a port's requests name it: its number plus 1024 times its partition (13 R390). -/
def atsCtxOk (c : Nat) : Bool := decide (c < 4096)
def queueOk (q : Nat) : Bool := decide (q < 256)

def agentOk : RegAgent → Bool
  | .supervisor core => coreOk core
  | .root => true
  | .host port fn => portOk port && partOk fn

/-- The check of every instruction term. -/
def Instr.wf : Instr → Bool
  | .launch _ f => decide (f.m.sub ≠ 1#5)
  | .launchWait _ f => decide (f.m.sub = 1#5)
  | .scoreboardWriteback w _ => WaveKey.wf w
  | .queueWaitWake w q => WaveKey.wf w && quadOk q
  | .sleepWake w q => WaveKey.wf w && quadOk q
  | .fenceComplete w q => WaveKey.wf w && quadOk q
  | .fencetComplete w q => WaveKey.wf w && quadOk q
  | .drainstComplete w q => WaveKey.wf w && quadOk q
  | .combModeChangeDone core bank => coreOk core && decide (bank < 64)
  | .bloadRun core => coreOk core
  | .bswapRun core => coreOk core
  | .mmaRun core => coreOk core
  | .mmaGranuleCommit core => coreOk core
  | .acczRun core => coreOk core
  | .accwrRun core => coreOk core
  | .accstRun core => coreOk core
  | .batonBudgetExpire core => coreOk core
  | .chainRecordRead core ch => coreOk core && chanOk ch
  | .copySectorLand core ch _ _ => coreOk core && chanOk ch
  | .copyRecordComplete core ch _ => coreOk core && chanOk ch
  | .reductionChunkCommit core ch _ _ => coreOk core && chanOk ch
  | .tableOpComplete core _ => coreOk core
  | .sectionStart benuri => benuriOk benuri
  | .sectionBudgetExpire benuri => benuriOk benuri
  | .shiptTokenPush benuri => benuriOk benuri
  | .ioMessageArrive part _ _ => partOk part
  | .ioRecordPush part => partOk part
  | .connectionError part _ => partOk part
  | .sqdbWrite port part queue _ => portOk port && partOk part && queueOk queue
  | .sqEnable part queue => partOk part && queueOk queue
  | .sqFetch part queue => partOk part && queueOk queue
  | .gridAdmit part => partOk part
  | .teamAdmit part _ core => partOk part && coreOk core
  | .rangeSplit part _ core => partOk part && coreOk core
  | .teamResume _ _ core => coreOk core
  | .wavePromote w => WaveKey.wf w
  | .starvation w => WaveKey.wf w
  | .sliceExpire pair => decide (pair < 96)
  | .periodStart part entry => partOk part && queueOk entry
  | .budgetExhaust part entry => partOk part && queueOk entry
  | .prctlPreempt part _ => partOk part
  | .prctlTerminate part _ => partOk part
  | .preemptTimeout part => partOk part
  | .wavePreemptStop w => WaveKey.wf w
  | .preemptFallback w => WaveKey.wf w
  | .trapQueueWrite core => coreOk core
  | .asyncTrapDeliver w => WaveKey.wf w
  | .wcmdResume core => coreOk core
  | .wcmdReplay core => coreOk core
  | .wcmdTerminateWave core => coreOk core
  | .wcmdTerminateTeam core => coreOk core
  | .wcmdTerminateContext core => coreOk core
  | .wcmdEngineRetry core _ => coreOk core
  | .wcmdEngineFail core _ => coreOk core
  | .wcmdEngineResume core _ => coreOk core
  | .wcmdEngineDiscard core _ => coreOk core
  | .wcmdEngineTerminate core _ => coreOk core
  | .tcmdDiscardStores core _ _ => coreOk core
  | .tcmdReplayStores core _ _ => coreOk core
  | .tcmdTerminateTeam core _ _ => coreOk core
  | .tcmdTerminateContext core _ _ => coreOk core
  | .tcmdEngineResume core _ _ _ => coreOk core
  | .tcmdEngineDiscard core _ _ _ => coreOk core
  | .tcmdEngineTerminate core _ _ _ => coreOk core
  | .pwstateWrite core _ _ => coreOk core
  | .tinvGo core ctx => coreOk core && ctxOk ctx
  | .tinvDone core => coreOk core
  | .registerWrite agent _ _ _ => agentOk agent
  | .hlrenew port _ => portOk port
  | .regionStateWrite part n _ => partOk part && decide (n < 1024)
  | .regionChangeDone part n => partOk part && decide (n < 1024)
  | .hostSnoop part _ _ => partOk part
  | .snoopResponse part _ => partOk part
  | .hostAccess port part _ => portOk port && partOk part
  | .atsTranslationCompletion port ctx _ _ => portOk port && atsCtxOk ctx
  | .pageRequestGroupResponse port ctx _ _ => portOk port && atsCtxOk ctx
  | .pageResponseTimeout port ctx _ => portOk port && atsCtxOk ctx
  | .atsInvalidateRequest port _ _ _ => portOk port
  | .invalidateCompletion port => portOk port
  | .errorRecordWrite port _ => portOk port
  | .errorRingWaitTimeout port => portOk port
  | .flitTransmit port _ _ _ _ _ => linkOk port
  | .dataFlitReceive port _ => linkOk port
  | .keyMarkerReceive port _ => linkOk port
  | .acknowledgementReceive port _ => linkOk port
  | .negativeAckReceive port _ => linkOk port
  | .timeFlitSend port => linkOk port
  | .timeFlitReceive port _ => linkOk port
  | .linkDown port => linkOk port
  | .linkUp port => linkOk port
  | .txkeyWrite port slot _ => linkOk port && decide (slot < 2)
  | .rxkeyWrite port slot _ => linkOk port && decide (slot < 2)
  | .eccCorrectedError core => coreOk core
  | .machineCheck core _ => coreOk core
  | .hostPortLinkDown port => portOk port
  | .hostPortLinkUp port _ _ _ => portOk port
  | .lnkctlWrite port _ => linkOk port
  | .coreSelfTestComplete core _ => coreOk core
  | _ => true

end Sys2Proof
end

