-- ==== Sys2Proof/Decode.lean ====
section
/-! DEFINITION. Fields from bits and back (04 R98-R106, R122). `decodeWord` is total: a word whose opcode R122 leaves
unassigned is rejected by name. Every other word is an instruction; illegal fields are traps (Machine/Issue.lean). -/

namespace Sys2Proof

/-- Why a word is no instruction. -/
inductive DecodeError where
  /-- OPC is in an unassigned row of R122; the machine raises ILLEGAL_OPCODE. -/
  | unassignedOpcode (opc : BitVec 9)
  /-- Not a whole instruction of 96 bits (R93). -/
  | badLength (nbits : Nat)
  deriving DecidableEq, Repr

def Src.ofBits (b : BitVec 16) : Src :=
  { reg := b.extractLsb' 8 8, kind := b.extractLsb' 5 3, k := b.extractLsb' 0 5 }

def Src.toBits (s : Src) : BitVec 16 := s.reg ++ s.kind ++ s.k

def Mod.ofBits (b : BitVec 18) : Mod :=
  { ty := b.extractLsb' 13 5, rnd := b.extractLsb' 10 3, sat := b.getLsbD 9, sa := b.getLsbD 8, sb := b.getLsbD 7,
    sc := b.getLsbD 6, ds := b.getLsbD 5, sub := b.extractLsb' 0 5 }

def Mod.toBits (m : Mod) : BitVec 18 :=
  m.ty ++ m.rnd ++ BitVec.ofBool m.sat ++ BitVec.ofBool m.sa ++ BitVec.ofBool m.sb ++ BitVec.ofBool m.sc
    ++ BitVec.ofBool m.ds ++ m.sub

def ModM.ofBits (b : BitVec 18) : ModM :=
  { ty := b.extractLsb' 13 5, scope := b.extractLsb' 10 3, order := b.extractLsb' 8 2, space := b.extractLsb' 6 2,
    sbase := b.getLsbD 5, sub := b.extractLsb' 0 5 }

def ModM.toBits (m : ModM) : BitVec 18 :=
  m.ty ++ m.scope ++ m.order ++ m.space ++ BitVec.ofBool m.sbase ++ m.sub

def ModX.ofBits (b : BitVec 18) : ModX :=
  { ty := b.extractLsb' 13 5, tile := b.extractLsb' 9 4, sa := b.getLsbD 8, sb := b.getLsbD 7, sc := b.getLsbD 6,
    aux := b.extractLsb' 3 3, sub3 := b.extractLsb' 0 3 }

def ModX.toBits (m : ModX) : BitVec 18 :=
  m.ty ++ m.tile ++ BitVec.ofBool m.sa ++ BitVec.ofBool m.sb ++ BitVec.ofBool m.sc ++ m.aux ++ m.sub3

/-- The header without its opcode: bits [86:66]. -/
def Hdr.ofBits (b : BitVec 21) : Hdr :=
  { stall := b.extractLsb' 17 4, yld := b.getLsbD 16, gp := b.extractLsb' 9 7, gn := b.getLsbD 8,
    dst := b.extractLsb' 0 8 }

def Hdr.toBits (h : Hdr) : BitVec 21 :=
  h.stall ++ BitVec.ofBool h.yld ++ h.gp ++ BitVec.ofBool h.gn ++ h.dst

def FmtA.ofBits (b : BitVec 66) : FmtA :=
  { sa := .ofBits (b.extractLsb' 50 16), sb := .ofBits (b.extractLsb' 34 16), sc := .ofBits (b.extractLsb' 18 16),
    m := .ofBits (b.extractLsb' 0 18) }

def FmtA.toBits (f : FmtA) : BitVec 66 := f.sa.toBits ++ f.sb.toBits ++ f.sc.toBits ++ f.m.toBits

def FmtI.ofBits (b : BitVec 66) : FmtI :=
  { sa := .ofBits (b.extractLsb' 50 16), imm := b.extractLsb' 18 32, m := .ofBits (b.extractLsb' 0 18) }

def FmtI.toBits (f : FmtI) : BitVec 66 := f.sa.toBits ++ f.imm ++ f.m.toBits

def FmtM.ofBits (b : BitVec 66) : FmtM :=
  { sa := .ofBits (b.extractLsb' 50 16), sb := .ofBits (b.extractLsb' 34 16), ofs := b.extractLsb' 18 16,
    m := .ofBits (b.extractLsb' 0 18) }

def FmtM.toBits (f : FmtM) : BitVec 66 := f.sa.toBits ++ f.sb.toBits ++ f.ofs ++ f.m.toBits

def FmtB.ofBits (b : BitVec 66) : FmtB :=
  { lofs := b.extractLsb' 42 24, tslot := b.extractLsb' 39 3, jofs := b.extractLsb' 23 16,
    jslot := b.extractLsb' 20 3, rsv := b.extractLsb' 18 2, m := .ofBits (b.extractLsb' 0 18) }

def FmtB.toBits (f : FmtB) : BitVec 66 := f.lofs ++ f.tslot ++ f.jofs ++ f.jslot ++ f.rsv ++ f.m.toBits

def FmtBi.ofBits (b : BitVec 66) : FmtBi :=
  { sa := .ofBits (b.extractLsb' 50 16), rsvHi := b.extractLsb' 42 8, rsvT := b.extractLsb' 39 3,
    jofs := b.extractLsb' 23 16, jslot := b.extractLsb' 20 3, rsv := b.extractLsb' 18 2,
    m := .ofBits (b.extractLsb' 0 18) }

def FmtBi.toBits (f : FmtBi) : BitVec 66 :=
  f.sa.toBits ++ f.rsvHi ++ f.rsvT ++ f.jofs ++ f.jslot ++ f.rsv ++ f.m.toBits

def FmtX.ofBits (b : BitVec 66) : FmtX :=
  { sa := .ofBits (b.extractLsb' 50 16), sb := .ofBits (b.extractLsb' 34 16), sc := .ofBits (b.extractLsb' 18 16),
    m := .ofBits (b.extractLsb' 0 18) }

def FmtX.toBits (f : FmtX) : BitVec 66 := f.sa.toBits ++ f.sb.toBits ++ f.sc.toBits ++ f.m.toBits

/-- The opcode map of R122; opcode 0x011 is LAUNCH, or LAUNCH.wait when SUB is 1 (R148). -/
def decodeBody (opc : BitVec 9) (h : Hdr) (b : BitVec 66) : Except DecodeError Instr :=
  match opc.toNat with
  | 0x000 => .ok (.nop h (.ofBits b))
  | 0x001 => .ok (.exit h (.ofBits b))
  | 0x002 => .ok (.bra h (.ofBits b))
  | 0x003 => .ok (.brx h (.ofBits b))
  | 0x004 => .ok (.call h (.ofBits b))
  | 0x005 => .ok (.callx h (.ofBits b))
  | 0x006 => .ok (.ret h (.ofBits b))
  | 0x007 => .ok (.join h (.ofBits b))
  | 0x008 => .ok (.regang h (.ofBits b))
  | 0x009 => .ok (.loop h (.ofBits b))
  | 0x00A => .ok (.lbrk h (.ofBits b))
  | 0x00B => .ok (.yieldV h (.ofBits b))
  | 0x00C => .ok (.sleep h (.ofBits b))
  | 0x00D => .ok (.trap h (.ofBits b))
  | 0x00E => .ok (.bar h (.ofBits b))
  | 0x00F => .ok (.barc h (.ofBits b))
  | 0x010 => .ok (.barg h (.ofBits b))
  | 0x011 =>
    if (FmtA.ofBits b).m.sub = 1#5 then .ok (.launchWait h (.ofBits b)) else .ok (.launch h (.ofBits b))
  | 0x012 => .ok (.tknext h (.ofBits b))
  | 0x030 => .ok (.mov h (.ofBits b))
  | 0x031 => .ok (.movi h (.ofBits b))
  | 0x032 => .ok (.movsp h (.ofBits b))
  | 0x033 => .ok (.iadd h (.ofBits b))
  | 0x034 => .ok (.isub h (.ofBits b))
  | 0x035 => .ok (.imul h (.ofBits b))
  | 0x036 => .ok (.imulh h (.ofBits b))
  | 0x037 => .ok (.imad h (.ofBits b))
  | 0x038 => .ok (.idiv h (.ofBits b))
  | 0x039 => .ok (.irem h (.ofBits b))
  | 0x03A => .ok (.imin h (.ofBits b))
  | 0x03B => .ok (.imax h (.ofBits b))
  | 0x03C => .ok (.iabs h (.ofBits b))
  | 0x03D => .ok (.and h (.ofBits b))
  | 0x03E => .ok (.or h (.ofBits b))
  | 0x03F => .ok (.xor h (.ofBits b))
  | 0x040 => .ok (.not h (.ofBits b))
  | 0x041 => .ok (.shl h (.ofBits b))
  | 0x042 => .ok (.shr h (.ofBits b))
  | 0x043 => .ok (.sar h (.ofBits b))
  | 0x044 => .ok (.fshl h (.ofBits b))
  | 0x045 => .ok (.clz h (.ofBits b))
  | 0x046 => .ok (.popc h (.ofBits b))
  | 0x047 => .ok (.brev h (.ofBits b))
  | 0x048 => .ok (.bfe h (.ofBits b))
  | 0x049 => .ok (.bfi h (.ofBits b))
  | 0x04A => .ok (.icmp h (.ofBits b))
  | 0x04B => .ok (.isel h (.ofBits b))
  | 0x04C => .ok (.iadd64 h (.ofBits b))
  | 0x04D => .ok (.isub64 h (.ofBits b))
  | 0x04E => .ok (.shl64 h (.ofBits b))
  | 0x04F => .ok (.shr64 h (.ofBits b))
  | 0x050 => .ok (.sar64 h (.ofBits b))
  | 0x051 => .ok (.icmp64 h (.ofBits b))
  | 0x052 => .ok (.imul64 h (.ofBits b))
  | 0x053 => .ok (.imad64 h (.ofBits b))
  | 0x054 => .ok (.lea h (.ofBits b))
  | 0x055 => .ok (.plog h (.ofBits b))
  | 0x056 => .ok (.pmov h (.ofBits b))
  | 0x057 => .ok (.vote h (.ofBits b))
  | 0x058 => .ok (.matchV h (.ofBits b))
  | 0x059 => .ok (.shfl h (.ofBits b))
  | 0x05A => .ok (.ired h (.ofBits b))
  | 0x05B => .ok (.iscan h (.ofBits b))
  | 0x080 => .ok (.fadd h (.ofBits b))
  | 0x081 => .ok (.fsub h (.ofBits b))
  | 0x082 => .ok (.fmul h (.ofBits b))
  | 0x083 => .ok (.ffma h (.ofBits b))
  | 0x084 => .ok (.fmin h (.ofBits b))
  | 0x085 => .ok (.fmax h (.ofBits b))
  | 0x086 => .ok (.fcmp h (.ofBits b))
  | 0x087 => .ok (.fclass h (.ofBits b))
  | 0x088 => .ok (.fdiv h (.ofBits b))
  | 0x089 => .ok (.fsqrt h (.ofBits b))
  | 0x08A => .ok (.frcp h (.ofBits b))
  | 0x08B => .ok (.frsq h (.ofBits b))
  | 0x08C => .ok (.fexp2 h (.ofBits b))
  | 0x08D => .ok (.flog2 h (.ofBits b))
  | 0x08E => .ok (.fsin h (.ofBits b))
  | 0x08F => .ok (.fcos h (.ofBits b))
  | 0x090 => .ok (.ftanh h (.ofBits b))
  | 0x091 => .ok (.frnd h (.ofBits b))
  | 0x092 => .ok (.cvt h (.ofBits b))
  | 0x093 => .ok (.pack h (.ofBits b))
  | 0x094 => .ok (.unpk h (.ofBits b))
  | 0x095 => .ok (.fred h (.ofBits b))
  | 0x096 => .ok (.fscan h (.ofBits b))
  | 0x097 => .ok (.fdot2 h (.ofBits b))
  | 0x098 => .ok (.idot4 h (.ofBits b))
  | 0x099 => .ok (.amaxrd h (.ofBits b))
  | 0x09A => .ok (.amaxclr h (.ofBits b))
  | 0x0D0 => .ok (.mxld h (.ofBits b))
  | 0x0D1 => .ok (.mxst h (.ofBits b))
  | 0x0D2 => .ok (.mxmov h (.ofBits b))
  | 0x0D3 => .ok (.mxtrn h (.ofBits b))
  | 0x0D4 => .ok (.mxmul h (.ofBits b))
  | 0x0D5 => .ok (.mxmad h (.ofBits b))
  | 0x0D6 => .ok (.mxchol h (.ofBits b))
  | 0x0D7 => .ok (.mxlu h (.ofBits b))
  | 0x0D8 => .ok (.mxsolv h (.ofBits b))
  | 0x0D9 => .ok (.mxinv h (.ofBits b))
  | 0x0E0 => .ok (.ld h (.ofBits b))
  | 0x0E1 => .ok (.st h (.ofBits b))
  | 0x0E2 => .ok (.lds h (.ofBits b))
  | 0x0E3 => .ok (.sts h (.ofBits b))
  | 0x0E4 => .ok (.atom h (.ofBits b))
  | 0x0E5 => .ok (.cas h (.ofBits b))
  | 0x0E6 => .ok (.cas128 h (.ofBits b))
  | 0x0E7 => .ok (.red h (.ofBits b))
  | 0x0E8 => .ok (.fence h (.ofBits b))
  | 0x0E9 => .ok (.fencet h (.ofBits b))
  | 0x0EA => .ok (.drainst h (.ofBits b))
  | 0x0EB => .ok (.prf h (.ofBits b))
  | 0x0EC => .ok (.flush h (.ofBits b))
  | 0x0ED => .ok (.qinit h (.ofBits b))
  | 0x0EE => .ok (.qbind h (.ofBits b))
  | 0x0EF => .ok (.qtry h (.ofBits b))
  | 0x0F0 => .ok (.combcfg h (.ofBits b))
  | 0x120 => .ok (.ship h (.ofBits b))
  | 0x121 => .ok (.shipt h (.ofBits b))
  | 0x122 => .ok (.sret h (.ofBits b))
  | 0x123 => .ok (.copy h (.ofBits b))
  | 0x124 => .ok (.batch h (.ofBits b))
  | 0x125 => .ok (.waitb h (.ofBits b))
  | 0x126 => .ok (.chain h (.ofBits b))
  | 0x127 => .ok (.chstat h (.ofBits b))
  | 0x128 => .ok (.tbinit h (.ofBits b))
  | 0x129 => .ok (.tbarr h (.ofBits b))
  | 0x12A => .ok (.tbexp h (.ofBits b))
  | 0x12B => .ok (.tbwait h (.ofBits b))
  | 0x12C => .ok (.gather h (.ofBits b))
  | 0x12D => .ok (.scatter h (.ofBits b))
  | 0x12E => .ok (.tblstat h (.ofBits b))
  | 0x12F => .ok (.iord h (.ofBits b))
  | 0x130 => .ok (.iowr h (.ofBits b))
  | 0x131 => .ok (.iopost h (.ofBits b))
  | 0x140 => .ok (.btake h (.ofBits b))
  | 0x141 => .ok (.bpass h (.ofBits b))
  | 0x142 => .ok (.bload h (.ofBits b))
  | 0x143 => .ok (.bswap h (.ofBits b))
  | 0x144 => .ok (.mma h (.ofBits b))
  | 0x145 => .ok (.accz h (.ofBits b))
  | 0x146 => .ok (.accrd h (.ofBits b))
  | 0x147 => .ok (.accwr h (.ofBits b))
  | 0x148 => .ok (.acccvt h (.ofBits b))
  | 0x149 => .ok (.accst h (.ofBits b))
  | 0x14A => .ok (.accwait h (.ofBits b))
  | 0x14B => .ok (.mmacfg h (.ofBits b))
  | 0x160 => .ok (.ecall h (.ofBits b))
  | 0x161 => .ok (.bkpt h (.ofBits b))
  | 0x162 => .ok (.setwc h (.ofBits b))
  | 0x163 => .ok (.rdcnt h (.ofBits b))
  | _ => .error (.unassignedOpcode opc)

/-- The instruction that a 96-bit word holds (R98, R108 check 2). -/
def decodeWord (w : InstrWord) : Except DecodeError Instr :=
  decodeBody (w.extractLsb' 87 9) (.ofBits (w.extractLsb' 66 21)) (w.extractLsb' 0 66)

def packWord (opc : BitVec 9) (h : Hdr) (b : BitVec 66) : InstrWord := opc ++ h.toBits ++ b

/-- The word of an instruction, from the same tables; an event has none. -/
def encode : Instr → Option InstrWord
  | .nop h f => some (packWord 0x000#9 h f.toBits)
  | .exit h f => some (packWord 0x001#9 h f.toBits)
  | .bra h f => some (packWord 0x002#9 h f.toBits)
  | .brx h f => some (packWord 0x003#9 h f.toBits)
  | .call h f => some (packWord 0x004#9 h f.toBits)
  | .callx h f => some (packWord 0x005#9 h f.toBits)
  | .ret h f => some (packWord 0x006#9 h f.toBits)
  | .join h f => some (packWord 0x007#9 h f.toBits)
  | .regang h f => some (packWord 0x008#9 h f.toBits)
  | .loop h f => some (packWord 0x009#9 h f.toBits)
  | .lbrk h f => some (packWord 0x00A#9 h f.toBits)
  | .yieldV h f => some (packWord 0x00B#9 h f.toBits)
  | .sleep h f => some (packWord 0x00C#9 h f.toBits)
  | .trap h f => some (packWord 0x00D#9 h f.toBits)
  | .bar h f => some (packWord 0x00E#9 h f.toBits)
  | .barc h f => some (packWord 0x00F#9 h f.toBits)
  | .barg h f => some (packWord 0x010#9 h f.toBits)
  | .launch h f => some (packWord 0x011#9 h f.toBits)
  | .launchWait h f => some (packWord 0x011#9 h f.toBits)
  | .tknext h f => some (packWord 0x012#9 h f.toBits)
  | .mov h f => some (packWord 0x030#9 h f.toBits)
  | .movi h f => some (packWord 0x031#9 h f.toBits)
  | .movsp h f => some (packWord 0x032#9 h f.toBits)
  | .iadd h f => some (packWord 0x033#9 h f.toBits)
  | .isub h f => some (packWord 0x034#9 h f.toBits)
  | .imul h f => some (packWord 0x035#9 h f.toBits)
  | .imulh h f => some (packWord 0x036#9 h f.toBits)
  | .imad h f => some (packWord 0x037#9 h f.toBits)
  | .idiv h f => some (packWord 0x038#9 h f.toBits)
  | .irem h f => some (packWord 0x039#9 h f.toBits)
  | .imin h f => some (packWord 0x03A#9 h f.toBits)
  | .imax h f => some (packWord 0x03B#9 h f.toBits)
  | .iabs h f => some (packWord 0x03C#9 h f.toBits)
  | .and h f => some (packWord 0x03D#9 h f.toBits)
  | .or h f => some (packWord 0x03E#9 h f.toBits)
  | .xor h f => some (packWord 0x03F#9 h f.toBits)
  | .not h f => some (packWord 0x040#9 h f.toBits)
  | .shl h f => some (packWord 0x041#9 h f.toBits)
  | .shr h f => some (packWord 0x042#9 h f.toBits)
  | .sar h f => some (packWord 0x043#9 h f.toBits)
  | .fshl h f => some (packWord 0x044#9 h f.toBits)
  | .clz h f => some (packWord 0x045#9 h f.toBits)
  | .popc h f => some (packWord 0x046#9 h f.toBits)
  | .brev h f => some (packWord 0x047#9 h f.toBits)
  | .bfe h f => some (packWord 0x048#9 h f.toBits)
  | .bfi h f => some (packWord 0x049#9 h f.toBits)
  | .icmp h f => some (packWord 0x04A#9 h f.toBits)
  | .isel h f => some (packWord 0x04B#9 h f.toBits)
  | .iadd64 h f => some (packWord 0x04C#9 h f.toBits)
  | .isub64 h f => some (packWord 0x04D#9 h f.toBits)
  | .shl64 h f => some (packWord 0x04E#9 h f.toBits)
  | .shr64 h f => some (packWord 0x04F#9 h f.toBits)
  | .sar64 h f => some (packWord 0x050#9 h f.toBits)
  | .icmp64 h f => some (packWord 0x051#9 h f.toBits)
  | .imul64 h f => some (packWord 0x052#9 h f.toBits)
  | .imad64 h f => some (packWord 0x053#9 h f.toBits)
  | .lea h f => some (packWord 0x054#9 h f.toBits)
  | .plog h f => some (packWord 0x055#9 h f.toBits)
  | .pmov h f => some (packWord 0x056#9 h f.toBits)
  | .vote h f => some (packWord 0x057#9 h f.toBits)
  | .matchV h f => some (packWord 0x058#9 h f.toBits)
  | .shfl h f => some (packWord 0x059#9 h f.toBits)
  | .ired h f => some (packWord 0x05A#9 h f.toBits)
  | .iscan h f => some (packWord 0x05B#9 h f.toBits)
  | .fadd h f => some (packWord 0x080#9 h f.toBits)
  | .fsub h f => some (packWord 0x081#9 h f.toBits)
  | .fmul h f => some (packWord 0x082#9 h f.toBits)
  | .ffma h f => some (packWord 0x083#9 h f.toBits)
  | .fmin h f => some (packWord 0x084#9 h f.toBits)
  | .fmax h f => some (packWord 0x085#9 h f.toBits)
  | .fcmp h f => some (packWord 0x086#9 h f.toBits)
  | .fclass h f => some (packWord 0x087#9 h f.toBits)
  | .fdiv h f => some (packWord 0x088#9 h f.toBits)
  | .fsqrt h f => some (packWord 0x089#9 h f.toBits)
  | .frcp h f => some (packWord 0x08A#9 h f.toBits)
  | .frsq h f => some (packWord 0x08B#9 h f.toBits)
  | .fexp2 h f => some (packWord 0x08C#9 h f.toBits)
  | .flog2 h f => some (packWord 0x08D#9 h f.toBits)
  | .fsin h f => some (packWord 0x08E#9 h f.toBits)
  | .fcos h f => some (packWord 0x08F#9 h f.toBits)
  | .ftanh h f => some (packWord 0x090#9 h f.toBits)
  | .frnd h f => some (packWord 0x091#9 h f.toBits)
  | .cvt h f => some (packWord 0x092#9 h f.toBits)
  | .pack h f => some (packWord 0x093#9 h f.toBits)
  | .unpk h f => some (packWord 0x094#9 h f.toBits)
  | .fred h f => some (packWord 0x095#9 h f.toBits)
  | .fscan h f => some (packWord 0x096#9 h f.toBits)
  | .fdot2 h f => some (packWord 0x097#9 h f.toBits)
  | .idot4 h f => some (packWord 0x098#9 h f.toBits)
  | .amaxrd h f => some (packWord 0x099#9 h f.toBits)
  | .amaxclr h f => some (packWord 0x09A#9 h f.toBits)
  | .mxld h f => some (packWord 0x0D0#9 h f.toBits)
  | .mxst h f => some (packWord 0x0D1#9 h f.toBits)
  | .mxmov h f => some (packWord 0x0D2#9 h f.toBits)
  | .mxtrn h f => some (packWord 0x0D3#9 h f.toBits)
  | .mxmul h f => some (packWord 0x0D4#9 h f.toBits)
  | .mxmad h f => some (packWord 0x0D5#9 h f.toBits)
  | .mxchol h f => some (packWord 0x0D6#9 h f.toBits)
  | .mxlu h f => some (packWord 0x0D7#9 h f.toBits)
  | .mxsolv h f => some (packWord 0x0D8#9 h f.toBits)
  | .mxinv h f => some (packWord 0x0D9#9 h f.toBits)
  | .ld h f => some (packWord 0x0E0#9 h f.toBits)
  | .st h f => some (packWord 0x0E1#9 h f.toBits)
  | .lds h f => some (packWord 0x0E2#9 h f.toBits)
  | .sts h f => some (packWord 0x0E3#9 h f.toBits)
  | .atom h f => some (packWord 0x0E4#9 h f.toBits)
  | .cas h f => some (packWord 0x0E5#9 h f.toBits)
  | .cas128 h f => some (packWord 0x0E6#9 h f.toBits)
  | .red h f => some (packWord 0x0E7#9 h f.toBits)
  | .fence h f => some (packWord 0x0E8#9 h f.toBits)
  | .fencet h f => some (packWord 0x0E9#9 h f.toBits)
  | .drainst h f => some (packWord 0x0EA#9 h f.toBits)
  | .prf h f => some (packWord 0x0EB#9 h f.toBits)
  | .flush h f => some (packWord 0x0EC#9 h f.toBits)
  | .qinit h f => some (packWord 0x0ED#9 h f.toBits)
  | .qbind h f => some (packWord 0x0EE#9 h f.toBits)
  | .qtry h f => some (packWord 0x0EF#9 h f.toBits)
  | .combcfg h f => some (packWord 0x0F0#9 h f.toBits)
  | .ship h f => some (packWord 0x120#9 h f.toBits)
  | .shipt h f => some (packWord 0x121#9 h f.toBits)
  | .sret h f => some (packWord 0x122#9 h f.toBits)
  | .copy h f => some (packWord 0x123#9 h f.toBits)
  | .batch h f => some (packWord 0x124#9 h f.toBits)
  | .waitb h f => some (packWord 0x125#9 h f.toBits)
  | .chain h f => some (packWord 0x126#9 h f.toBits)
  | .chstat h f => some (packWord 0x127#9 h f.toBits)
  | .tbinit h f => some (packWord 0x128#9 h f.toBits)
  | .tbarr h f => some (packWord 0x129#9 h f.toBits)
  | .tbexp h f => some (packWord 0x12A#9 h f.toBits)
  | .tbwait h f => some (packWord 0x12B#9 h f.toBits)
  | .gather h f => some (packWord 0x12C#9 h f.toBits)
  | .scatter h f => some (packWord 0x12D#9 h f.toBits)
  | .tblstat h f => some (packWord 0x12E#9 h f.toBits)
  | .iord h f => some (packWord 0x12F#9 h f.toBits)
  | .iowr h f => some (packWord 0x130#9 h f.toBits)
  | .iopost h f => some (packWord 0x131#9 h f.toBits)
  | .btake h f => some (packWord 0x140#9 h f.toBits)
  | .bpass h f => some (packWord 0x141#9 h f.toBits)
  | .bload h f => some (packWord 0x142#9 h f.toBits)
  | .bswap h f => some (packWord 0x143#9 h f.toBits)
  | .mma h f => some (packWord 0x144#9 h f.toBits)
  | .accz h f => some (packWord 0x145#9 h f.toBits)
  | .accrd h f => some (packWord 0x146#9 h f.toBits)
  | .accwr h f => some (packWord 0x147#9 h f.toBits)
  | .acccvt h f => some (packWord 0x148#9 h f.toBits)
  | .accst h f => some (packWord 0x149#9 h f.toBits)
  | .accwait h f => some (packWord 0x14A#9 h f.toBits)
  | .mmacfg h f => some (packWord 0x14B#9 h f.toBits)
  | .ecall h f => some (packWord 0x160#9 h f.toBits)
  | .bkpt h f => some (packWord 0x161#9 h f.toBits)
  | .setwc h f => some (packWord 0x162#9 h f.toBits)
  | .rdcnt h f => some (packWord 0x163#9 h f.toBits)
  | _ => none

/-- The decoder on a number laid out as spec/opcode_table.json numbers bits: bits above `nbits` are 0, and a word is 96
bits, in memory the 12 bytes of its slot, least significant first (R4, R93). -/
def decodeTableWord (nbits w : Nat) : Option Instr :=
  if 96 < nbits then none
  else
    match decodeWord (BitVec.ofNat 96 (w % 2 ^ nbits)) with
    | .ok i => some i
    | .error _ => none

end Sys2Proof
end

