-- ==== Sys2Proof/Machine/Select.lean ====
section
/-! DEFINITION. What comes before an instruction's meaning: pending reports (13 R374), the fetch of the gang's line and its
checks (04 R95, R96, R108), and the choice of the gang (01 R23, 12 R353). -/

namespace Sys2Proof.Machine

/-! ## Asynchronous reports -/

/-- The report delivered first: the lowest priority number, the oldest among equals (R374). -/
def firstAsync : List Async → Option Async
  | [] => none
  | a :: t =>
    match firstAsync t with
    | none => some a
    | some b => if b.prio < a.prio then some b else some a

/-- PC of the wave's first unissued instruction: its lowest live quad's. -/
def Wave.nextIssuePc (w : Wave) : Pc :=
  match (List.range w.quads.length).find? w.quadLive with
  | some q => w.pcOf q
  | none => 0

/-- The wave's records in its core's retry buffer, oldest first (R379). -/
def waveFaults (s : State) (k : WaveKey) : List StoreFault := (s.core k.core).retry.filter (fun r => r.valid && r.w == k)

/-- The STORE_FAULT report of a wave, from its oldest record (R379). -/
def storeFaultRec (s : State) (w : Wave) (pc : Pc) : TrapRec :=
  let l := waveFaults s w.key
  let b := ((l.head?).map (·.bits)).getD 0
  { code := Trap.storeFault, mask := b.extractLsb' 64 96, addr := b.extractLsb' 0 64, det1 := BitVec.ofNat 32 l.length,
    det2 := 0, pc := pc }

/-- A wave's faulted stores stop being outstanding at their report (R215, R379). -/
def faultsTold (s : State) (k : WaveKey) : State :=
  { s with
    mops := (s.mops.map (fun (o : MOp) =>
      if o.w = k then
        { o with elems := o.elems.map (fun e => if e.phase = .faulted then { e with phase := .discarded } else e) }
      else o)).filter (fun o => o.elems.any (fun e => e.phase.outstanding)) }

/-- One report is delivered at an issue boundary; the rest wait (R374). An engine stop names the command it parked for. There is nothing to
replay for a LOAD_FAULT that comes behind its load (R408). -/
def deliverAsync (s : State) (k : WaveKey) : State :=
  match s.wave? k with
  | none => s
  | some w =>
    match firstAsync w.async with
    | none => s
    | some a =>
      let s := s.updWave k (fun w => { w with async := w.async.erase a })
      if a.record.code = Trap.storeFault ∧ a.cmd.isNone then
        if (waveFaults s k).isEmpty then s else park (faultsTold s k) k (storeFaultRec s w w.nextIssuePc)
      else
        let r := if a.next then { a.record with pc := w.nextIssuePc } else a.record
        let s := park s k r
        if a.cmd.isSome then s.updWave k (fun w => { w with engStop := a.cmd })
        else if r.code = Trap.loadFault then s.updWave k (fun w => { w with fetchFault := true }) else s

/-! ## The issuing gang's instruction -/

/-- The PC at which the wave entered (R95). -/
def entryPc (s : State) (w : Wave) : Option Nat :=
  match w.info with
  | some i => ((s.ships.find? (fun o => o.id == i.ship)).map (·.entry))
  | none => (s.grid? w.grid (s.partOf w.key.core)).map (·.kernel.entry)

/-- The wave may issue at all: not parked, held, stopped, in the pool or without its baton. -/
def Wave.mayIssue (w : Wave) : Bool :=
  w.sched != .trapped && w.sched != .held && w.sched != .pool && w.preempt != .stopped && !w.rejoin

/-- What the choice of a gang comes to. -/
inductive Chosen where
  | run (i : Instr) (s : State)
  | passed (s : State)
  deriving Repr

def fetchTrap (s : State) (k : WaveKey) (w : Wave) (g : Gang) (pc : Pc) (addr cause : Nat) : State :=
  let s := park s k
    (({ code := Trap.loadFault, mask := laneMask (w.liveLanes g), addr := addr, det1 := cause } : TrapInfo).at_ pc)
  s.updWave k (fun w => { w with fetchFault := true })

/-- The wave takes an Active place of its slot; when all 8 are taken, the latest-resident Active wave gives up its own (R352,
R353). -/
def activate (s : State) (k : WaveKey) : State :=
  let l := s.waves.filter (fun w => w.key.core == k.core && w.key.slot == k.slot && w.key != k && w.sched == .active)
  let latest := l.foldl (fun (b : Option Wave) w =>
    match b with | some x => if x.residentAt < w.residentAt then some w else b | none => some w) none
  let out : Option WaveKey := if l.length < 8 then none else latest.map (·.key)
  { s with waves := s.waves.map (fun w =>
      if w.key = k then { w with sched := .active } else if some w.key = out then { w with sched := .pending } else w) }

/-! ## The choice of a wave and a gang -/

/-- The gang whose turn it is: the one that issued last, for up to 32 issues while another was ready and unless it yielded (R142), else
the next that may issue, in ascending order of lowest quads and round (R23). -/
def Wave.readyGang (w : Wave) (cyc : Nat) : Option Nat :=
  if !w.mayIssue then none
  else
    let ready := w.dueGangs cyc
    let next (lo : Nat) : Option Nat :=
      (ready.filter (fun q => decide (lo ≤ q))).foldl (fun b q => match b with | some x => some (min x q) | none => some q) none
    let first := next 0
    if !w.offers && w.consec < 32 && ready.contains w.rot then some w.rot
    else
      match next (w.rot + 1) with
      | some q => some q
      | none => first

/-- A wave that has waited 4096 cycles for its next issue (R353). -/
def Wave.overdue (w : Wave) (cyc : Nat) : Bool := decide (max w.lastIssue w.residentAt + 4096 ≤ cyc)

/-- It issued last in its slot (R353). -/
def Wave.isLast (w : Wave) (last : Nat) : Bool := decide (0 < w.cntIss) && w.lastIssue == last

/-- Whether `a` comes before `b` in a slot's choice: an overdue wave in order of residence; then a wave that has not yielded its next
cycle (R142); then the one that issued last, else the earliest resident (R353). -/
def Wave.ahead (cyc last : Nat) (a b : Wave) : Bool :=
  if a.overdue cyc != b.overdue cyc then a.overdue cyc
  else if !a.overdue cyc && a.offers != b.offers then b.offers
  else if !a.overdue cyc && a.isLast last != b.isLast last then a.isLast last
  else decide (a.residentAt < b.residentAt)

/-- The first of a list in an order. -/
def firstBy {α : Type} (ahead : α → α → Bool) : List α → Option α
  | [] => none
  | a :: t =>
    match firstBy ahead t with
    | none => some a
    | some b => if ahead b a then some b else some a

/-- A beat of the gang's last instruction issues in this cycle (R19). -/
def Gang.issuing (g : Gang) (cyc : Nat) : Bool := g.last.any (fun l => decide (l.cyc ≤ cyc) && decide (cyc < l.cyc + l.beats))

/-- The slot is free for the wave: none of its waves issues a beat in this cycle, or it is this wave's turn to issue the second of a
pair (R116, R353). -/
def slotFree (cyc : Nat) (waves : List Wave) (w : Wave) : Bool :=
  waves.all (fun x => x.gangs.all (fun g => !g.issuing cyc ||
    (x.key == w.key && (w.readyGang cyc).any g.quads.contains)))

/-- The wave that a slot issues from next: an Active wave that is ready, or one that is promoted (R353). -/
def slotChoice (cyc : Nat) (waves : List Wave) : Option Wave :=
  firstBy (Wave.ahead cyc ((waves.map (·.lastIssue)).foldl max 0))
    (waves.filter (fun w => (w.readyGang cyc).isSome && (w.sched == .active || w.overdue cyc) && slotFree cyc waves w))

/-- The waves of the slot of a wave. -/
def slotOf (s : State) (k : WaveKey) : List Wave := s.waves.filter (fun w => w.key.core == k.core && w.key.slot == k.slot)

/-- It is this gang's turn in its wave, and its wave's in its slot (R23, R353). -/
def Wave.turn (s : State) (w : Wave) (g : Gang) : Bool :=
  ((slotChoice s.cyc (slotOf s w.key)).map (·.key)) == some w.key && w.readyGang s.cyc == some (g.quads.headD 0)

/-! ## The issuing gang's line -/

/-- Fetch, line check and decode of a gang at its issue boundary, when its turn has come; the first failing check parks the wave. An
entry's TGT bit is judged before the line's own check, an order that the spec does not give (log 107). -/
def chooseGang (s : State) (k : WaveKey) (q : Nat) : Chosen :=
  match s.wave? k with
  | none => .passed s
  | some w =>
    match w.gangOf q with
    | none => .passed s
    | some g =>
      if !w.turn s g then .passed s
      else if !w.async.isEmpty then .passed (deliverAsync s k)
      else
        let s := if w.sched = .active then s else activate s k
        let pc := w.pcOf q
        let plain (t : TrapInfo) (s : State) : Chosen := .passed (park s k (t.at_ pc))
        if !pcFormed pc.toNat then plain { code := Trap.branchTarget, addr := pc.toNat } s
        else
          let entry := decide (w.cntIss = 0) && entryPc s w == some pc.toNat
          match fetchLine s k.core w.ctx (Pc.line pc) with
          | (.fault c, s) => .passed (fetchTrap s k w g pc (if entry then pc.toNat else Pc.line pc) c)
          | (.poisoned, s) => plain { code := Trap.poison, mask := laneMask (w.liveLanes g), det1 := 1 } s
          | (.secure n, s) => plain { code := Trap.secureAccess, mask := laneMask (w.liveLanes g), addr := Pc.line pc, det1 := n } s
          | (.line l, s) =>
            if entry && !lineTgt l (Pc.slot pc) then plain { code := Trap.branchTarget, addr := pc.toNat } s
            else if lineBad l then
              plain { code := Trap.illegalLine, det1 := lineWord l, det2 := lineSyndrome l } s
            else
              match decodeWord (lineSlot l (Pc.slot pc)) with
              | .error _ => plain { code := Trap.illegalOpcode } s
              | .ok i =>
                .run i { s.updWave k (fun w => { w with offers := false }) with
                  cur := some { w := k, quad := q, pair := linePair l (Pc.slot pc) } }

/-! ## With no chosen move -/

/-- The slots with a resident wave. -/
def usedSlots (s : State) : List (Nat × Nat) := (s.waves.map (fun w => (w.key.core, w.key.slot))).eraseDups

/-- The choice of a slot. -/
def slotNext (s : State) (p : Nat × Nat) : Option Wave := slotChoice s.cyc (slotOf s ⟨p.1, p.2, 0⟩)

/-- The slots take turns: the choice of the slot that has waited longest (log 2). -/
def pickWave (s : State) : Option Wave :=
  firstBy (fun a b => decide (a.lastIssue < b.lastIssue)) ((usedSlots s).filterMap (slotNext s))

/-- A slot whose choice has just been found unable to issue turns to its next one within the same cycle (R23, R353). -/
def nextTry (s : State) : Option Wave :=
  (usedSlots s).findSome? (fun p =>
    let l := slotOf s ⟨p.1, p.2, 0⟩
    if l.any (fun w => w.gangs.any (fun g => g.stalledAt == some s.cyc)) && l.all (fun w => w.cntIss == 0 || w.lastIssue != s.cyc)
    then slotNext s p else none)

end Sys2Proof.Machine
end

