-- ==== Sys2Proof/Machine/Yield.lean ====
section
/-! DEFINITION. Yields and resumptions (01 R32-R35), the scheduling of waves and the starvation timer (12 R352, R353, R361),
time slices (R357), pre-emption and termination by PRCTL (R365-R368). -/

namespace Sys2Proof.Machine

/-! ## Yield -/

/-- The wave has ended, or waits in blocking instructions (R32): the model takes that to mean every gang of it, in a wait of R29, which
REGANG is not, and asks it of the yielding waiter's own wave too (log 108). -/
def Wave.still (w : Wave) : Bool := w.finished || (w.gangs.all (fun g => g.wait.blocks) && w.sched != .trapped && w.async.isEmpty)

/-- Yield threshold of a team's context, in ns (R337). -/
def yieldAfter (s : State) (t : Team) : Nat :=
  let n := field (s.desc t.core t.ctx) 471 448
  if n = 0 then 2000 else n

/-- The yielding waits of a team. -/
def yieldingOf (s : State) (t : Team) : List (Wave × Gang) :=
  ((s.teamWavesOf t).map (fun w => (w.gangs.filter (·.yielding)).map (fun g => (w, g)))).flatten

/-- Members of the cluster that have a live wave on a core. -/
def liveMembers (s : State) (t : Team) : List Team :=
  (clusterOf s t).filter (fun u => u.res == .resident && !u.terminated && (s.teamWavesOf u).any (fun w => !w.finished))

/-- The wait is on an object in a window of the cluster (R33). -/
def waitsInside (l : List Team) (x : Wait) : Bool :=
  match x with
  | .tbwait p _ _ => l.any (fun t => inWindowOf t p)
  | .launch p _ => l.any (fun t => inWindowOf t p)
  | .queue _ (.ring _ (some w) _) _ _ => l.any (fun t => w == (t.gid, t.num))
  | _ => false

/-- No access to the windows of these teams is under way, none of their own among them that is still to be checked, and no copy, table or I/O operation has a range there (R33). -/
def windowsQuiet (s : State) (l : List Team) : Bool :=
  l.all (fun t =>
    s.loads.all (fun o => o.elems.all (fun e => e.done || !inWindowOf t e.target))
    && s.mops.all (fun o => o.elems.all (fun e => !e.phase.unapplied ||
      (e.target.map (fun p => !inWindowOf t p)).getD (o.space != 1 || l.all (fun u => o.gid != u.gid || o.team != u.num)))))

/-- No copy, table or I/O operation has a range, a barrier or a queue in the windows, nor may it have one by a record that is not read
yet; matrix commands may (R33). -/
def enginesQuiet (s : State) (l : List Team) : Bool :=
  let own (gid num : Nat) : Bool := l.any (fun t => t.gid == gid && t.num == num)
  s.cores.all (fun x =>
    let cmds := x.eng.cmds.map (·.id)
    x.locks.all (fun k => k.space != 1 || cmds.contains k.owner || !own k.team.1 k.team.2)
    && x.chans.all (fun ch =>
      (ch.walking.toList ++ ch.heads).all (fun h => !own h.gid h.team)
      && ch.xfers.all (fun y => y.desc.cb == 0 || cbSpace y.desc.cb != 1 || !own y.gid y.team))
    && x.tableOps.all (fun o => o.tb == 0 || cbSpace o.tb != 1 || !own o.gid o.team))
  && ((s.io.reqs ++ s.io.posted).map (·.queue) ++ s.io.held.map (·.queue)).all (fun q =>
    match q with | .ring _ (some w) _ => !own w.1 w.2 | _ => true)

/-- The address a wait names, for WOBJ (R363). -/
def Wait.object : Wait → Nat
  | .queue _ _ _ a => a
  | .tbwait _ _ a => a
  | .launch _ a => a
  | _ => 0

/-- The context has `n` free save slots, and their headers may be written now (R362, R209). -/
def slotsReady (s : State) (part ctx d n : Nat) : Bool :=
  let used := (s.teams.filter (fun t => s.partOf t.core == part && t.ctx == ctx)).filterMap (·.saveSlot)
  let l := ((List.range (field d 239 224)).filter (fun i => !used.contains i)).take n
  l.length == n && l.all (fun i => s.lineFree (saveAddr d i))

/-- Save slots that a SHARED region keeps from being written move it (R403). -/
def slotsContest (s : State) (part ctx d n : Nat) : State :=
  let used := (s.teams.filter (fun t => s.partOf t.core == part && t.ctx == ctx)).filterMap (·.saveSlot)
  (((List.range (field d 239 224)).filter (fun i => !used.contains i)).take n).foldl (fun s i => contestAt s (.dev (saveAddr d i))) s

/-- Teams take save slots and are saved, one after the other (R362); the baton of a holder among them then passes on (R291). -/
def saveEach (s : State) (kind wobj : Nat) (live : Wave → Option SideEntry) : List Team → State
  | [] => (s.teams.map (·.core)).eraseDups.foldl leaveHolder s
  | t :: l =>
    let part := s.partOf t.core
    match freeSave s part t.ctx (s.desc t.core t.ctx) with
    | some i => saveEach (saveTeam s t kind i wobj live) kind wobj live l
    | none => (s.teams.map (·.core)).eraseDups.foldl leaveHolder s

/-- R32, R33: the cluster of a team yields. -/
def execTeamYield (gid team : Nat) (s : State) : Host.Outcome State Fault Refusal :=
  match s.team? gid team with
  | none => .next s
  | some t =>
    let l := liveMembers s t
    let waits := (l.map (yieldingOf s)).flatten
    let long := waits.filter (fun p => decide (p.2.waitSince + yieldAfter s t ≤ s.gtb))
    let cls := ((s.gridOf t).map (·.cls)).getD 0
    if cls = 0 || t.res != .resident || l.all (fun u => u.num != team) then .next s
    else if l.any (fun u => (s.teamWavesOf u).any (fun w => !w.still)) then .next s
    else if waits.any (fun p => waitsInside (clusterOf s t) p.2.wait || waitCouldEnd s p.1 p.2) then .next s
    else if !windowsQuiet s l || !enginesQuiet s l then .next s
    else if !slotsReady s (s.partOf t.core) t.ctx (s.desc t.core t.ctx) l.length then
      .next (slotsContest s (s.partOf t.core) t.ctx (s.desc t.core t.ctx) l.length)
    else
      match long with
      | [] => .next s
      | (_, g) :: _ => .next (saveEach s 1 g.wait.object (fun _ => none) l)

/-! ## Resumption -/

/-- R34, R364, R365: a team that is eligible comes back with its cluster, or with its concurrent grid. -/
def execTeamResume (gid team core : Nat) (s : State) : Host.Outcome State Fault Refusal :=
  match s.team? gid team with
  | none => .next s
  | some t =>
    let part := s.partOf t.core
    let pair := core / 2
    let c := Cand.back gid team
    if nextCand s part != some c then .next s
    else if concurrentOf s part c then
      match placeConcurrent s part c with
      | some s1 => .next (beginSlices s s1)
      | none => .next (layoutStart s part c)
    else if layoutPending s pair || !(prepared s gid ((partPairs s part).filter (fitsOn s part c))).contains pair then .next s
    else if needLayout s pair t.ctx (s.ctxDesc part t.ctx) then .next (prepare s pair gid t.ctx)
    else
      match placeCand s c part core with
      | some s1 => .next (beginSlices s s1)
      | none => .next s

/-! ## Waves in a slot -/

/-- R353: a wave that has been ready for 4096 cycles takes an Active place, the earliest resident of its slot's first. -/
def execWavePromote (w : WaveKey) (s : State) : Host.Outcome State Fault Refusal :=
  match s.wave? w with
  | none => .next s
  | some x =>
    let waits (y : Wave) : Bool := (y.readyGang s.cyc).isSome && y.sched != .active && y.overdue s.cyc
    if waits x && (slotOf s w).all (fun y => !waits y || decide (x.residentAt ≤ y.residentAt)) then .next (activate s w) else .next s

/-- Starvation threshold of a class, in µs; 0 disables (R337). -/
def starvAfter (d cls : Nat) : Nat :=
  match cls with
  | 0 => field d 531 512
  | 1 => field d 551 532
  | _ => field d 571 552

/-- R361. -/
def execStarvation (w : WaveKey) (s : State) : Host.Outcome State Fault Refusal :=
  match s.wave? w with
  | none => .next s
  | some x =>
    let cls := s.waveClass x
    let n := starvAfter (s.desc w.core x.ctx) cls
    if x.section? || x.finished || x.sched == .trapped || n = 0 || decide (x.starv / 3 ≤ n * 1000)
      || x.async.any (fun a => a.record.code == Trap.starvation) then .next s
    else
      .next (report s w 5 (({ code := Trap.starvation, mask := x.act, det1 := n, det2 := cls } : TrapInfo).at_ 0))

/-! ## Pre-emption -/

/-- Resident teams of a context in a partition. -/
def residentOf (s : State) (part ctx : Nat) : List Team :=
  s.teams.filter (fun t => t.res == .resident && t.ctx == ctx && s.partOf t.core == part)

/-- The waves of these teams are asked to stop; a Held wave is released (R357, R367). -/
def askStop (s : State) (l : List Team) : State :=
  { s with waves := s.waves.map (fun w =>
      if !w.section? && w.preempt == .none && !w.finished && l.any (fun t => t.gid == w.grid && t.num == w.team) then
        let side := ((s.grid? w.grid (s.partOf w.key.core)).map s.sideOf).getD []
        { w with
          preempt := if side.isEmpty then .fallback else .running 0 (side.map (·.pc))
          sched := if w.sched = .held then .pending else w.sched }
      else w) }

/-- With the teams of every concurrent grid among them (R365). -/
def withGrids (s : State) (l : List Team) : List Team :=
  s.teams.filter (fun u => u.res == .resident &&
    l.any (fun t => (t.gid == u.gid && t.num == u.num) || (t.gid == u.gid && ((s.gridOf t).map (·.cls)) == some 0)))

/-- PRCTL after a write with GO = 1 (R366). -/
def prctlGo (s : State) (part : Nat) (value : DWord) (st : Nat) : State :=
  let x := value.toNat
  s.updPart part (fun p =>
    { p with
      prctl := BitVec.ofNat 64 (field x 63 32 * 2 ^ 32 + st * 2 ^ 16 + field x 12 11 * 2 ^ 11 + field x 9 0)
      prAct := field x 12 11, prCtx := field x 9 0
      prDeadline := s.gtb + field x 63 32 * 1000 })

/-- A write of PRCTL that starts action `act`, while none is in progress (R366). -/
def prctlStarts (s : State) (part : Nat) (value : DWord) (act : Nat) : Bool :=
  value.getLsbD 10 && field value.toNat 12 11 == act && field (s.part part).prctl.toNat 18 16 != 1

/-- R367 step 1; with nothing of the context resident, ST is 4. -/
def startPreempt (s : State) (part : Nat) (value : DWord) : State :=
  let l := residentOf s part (field value.toNat 9 0)
  if l.isEmpty then prctlGo s part value 4 else askStop (prctlGo s part value 1) l

/-- R368. -/
def startTerminate (s : State) (part : Nat) (value : DWord) : State :=
  let ctx := field value.toNat 9 0
  let st := if (residentOf s part ctx).isEmpty then 4 else 1
  terminateContext (prctlGo s part value st) part ctx

def execPrctlPreempt (part : Nat) (value : DWord) (s : State) : Host.Outcome State Fault Refusal :=
  .next (if prctlStarts s part value 0 then startPreempt s part value else s)

def execPrctlTerminate (part : Nat) (value : DWord) (s : State) : Host.Outcome State Fault Refusal :=
  .next (if prctlStarts s part value 1 then startTerminate s part value else s)

/-- R367: TMO passes before every team is saved; the rest keep running. -/
def execPreemptTimeout (part : Nat) (s : State) : Host.Outcome State Fault Refusal :=
  let x := (s.part part).prctl.toNat
  if field x 18 16 != 1 || (s.part part).prAct != 0 || decide (s.gtb < (s.part part).prDeadline) then .next s
  else
    let ctx := (s.part part).prCtx
    let s1 := s.updPart part (fun p => { p with prctl := BitVec.ofNat 64 (setField x 18 16 3) })
    .next { s1 with waves := s1.waves.map (fun w =>
      if !w.section? && w.ctx == ctx && s.partOf w.key.core == part then { w with preempt := .none } else w) }

/-- A candidate of another context waits for a pair (R357). -/
def otherWaits (s : State) (part ctx : Nat) : Bool :=
  [3, 2, 1, 0].any (fun prio => (levelCands s part prio).any (fun c => candCtx s part c != ctx))
    || s.teams.any (fun t => s.partOf t.core == part && t.ctx != ctx && t.res == .preempted false && !t.terminated)

/-- R357: the slice of a pair's context expires. -/
def execSliceExpire (pair : Nat) (s : State) : Host.Outcome State Fault Refusal :=
  let core := 2 * pair
  let part := s.partOf core
  let l := pairTeams s pair
  match (s.core core).lastCtx with
  | none => .next s
  | some ctx =>
    let d := s.desc core ctx
    let n := field d 487 472 * 1000
    let late := decide ((s.core core).sliceStart + n ≤ s.gtb)
    if n = 0 || !late then .next s
    else if l.isEmpty then
      -- the last team retired in this very cycle: the rest of the budget is forfeited
      let i := field d 495 488
      if (s.core core).retiredAt = s.cyc ∧ d.testBit 496 ∧ field (budEntry s part i) 9 0 ≠ 0 then
        .next (setBudget s part i (SMap.get 0 (s.part part).budUsed i) true)
      else .next s
    else if l.any (fun t => (s.teamWavesOf t).any (fun w => w.preempt != .none)) then .next s
    else if otherWaits s part ctx then .next (askStop s (withGrids s l))
    else .next ([core, core + 1].foldl (fun s c => s.updCore c (fun x => { x with sliceStart := s.gtb })) s)

/-- The side-table entry at a PC. -/
def sideAt (side : List SideEntry) (pc : Pc) : Option SideEntry := side.find? (fun e => e.pc == pc)

/-- What is live for either of two points. -/
def SideEntry.join (a b : SideEntry) : SideEntry :=
  let top {n : Nat} (x y : BitVec n) : BitVec n := if x.toNat < y.toNat then y else x
  { a with
    ql := a.ql || b.ql, al := a.al || b.al, b1l := a.b1l || b.b1l, b0l := a.b0l || b.b0l, llv := top a.llv b.llv
    tiles := a.tiles ||| b.tiles, ns := top a.ns b.ns, np := top a.np b.np, nv := top a.nv b.nv }

/-- The live set of a wave whose gangs all stand at listed points (R119, R120). -/
def liveSet (side : List SideEntry) (w : Wave) : Option SideEntry :=
  let l := w.gangs.map (fun g => sideAt side (w.pcOf (g.quads.headD 0)))
  if l.all Option.isSome then
    match l.filterMap id with
    | [] => none
    | e :: t => some (t.foldl SideEntry.join e)
  else none

/-- The wave may stop now (R121): its gangs stand at listed points, but for those that wait in REGANG for one that does (log 65); or under
the fall-back rule all wait. A change of a bank's mode is waited for. -/
def canStop (w : Wave) : Bool :=
  let fixed (g : Gang) : Bool := match g.wait with | .comb _ _ => true | _ => false
  w.sched != .trapped && w.async.isEmpty && !w.gangs.any fixed &&
    match w.preempt with
    | .running _ _ => w.gangs.all (fun g => w.atPoint g || (g.wait.named.isSome && w.gangs.any w.atPoint))
    | .fallback => w.gangs.all (fun g => g.wait != .none)
    | .stopped => true
    | .none => false

/-- What is stopped together: the cluster, or the whole of a concurrent grid (R365, R367). -/
def stopGroup (s : State) (t : Team) : List Team :=
  if ((s.gridOf t).map (·.cls)) = some 0 then
    s.teams.filter (fun u => u.gid == t.gid && u.res == .resident && !u.terminated && (s.teamWavesOf u).any (fun w => !w.finished))
  else liveMembers s t

/-- No transfer of the teams stands inside a granule, but for one that is abandoned and begins again (R267). -/
def granulesDone (s : State) (l : List Team) : Bool :=
  s.cores.all (fun x => x.chans.all (fun ch => ch.xfers.all (fun y =>
    y.fault.isSome || !l.any (fun t => t.gid == y.gid && t.num == y.team) || y.betweenGranules)))

/-- R121, R367: a wave stops; when its group has stopped, the cluster is saved as soon as there are slots. -/
def execWavePreemptStop (w : WaveKey) (s : State) : Host.Outcome State Fault Refusal :=
  match s.wave? w with
  | none => .next s
  | some x =>
    match s.team? x.grid x.team, s.grid? x.grid (s.partOf w.core) with
    | some t, some g =>
      if x.section? || x.finished || !canStop x then .next s
      else
        let s1 := s.updWave w (fun w => { w with preempt := .stopped })
        let stopped (u : Team) : Bool := (s1.teamWavesOf u).all (fun w => w.finished || w.preempt == .stopped)
        let l := liveMembers s1 t
        let d := s1.desc t.core t.ctx
        if !((stopGroup s1 t).all stopped && windowsQuiet s1 (clusterOf s1 t) && granulesDone s1 l) then .next s1
        else if slotsReady s1 (s1.partOf t.core) t.ctx d l.length then .next (saveEach s1 2 0 (liveSet (s1.sideOf g)) l)
        else .next (slotsContest s1 (s1.partOf t.core) t.ctx d l.length)
    | _, _ => .next s

/-- R121: 2048 cycles of issue without a listed point. -/
def execPreemptFallback (w : WaveKey) (s : State) : Host.Outcome State Fault Refusal :=
  match s.wave? w with
  | none => .next s
  | some x =>
    match x.preempt with
    | .running n _ => if 2048 ≤ n then .next (s.updWave w (fun w => { w with preempt := .fallback })) else .next s
    | _ => .next s

end Sys2Proof.Machine
end

