-- ==== Sys2Proof/Machine/Supervisor.lean ====
section
/-! DEFINITION. The supervisor's side of a trap (13 R369-R383, R386, R419): the trap queue, the actions of WCMD and TCMD, the
parked wave's state, and the dropping of translations by TINV. -/

namespace Sys2Proof.Machine

/-! ## The trap queue -/

/-- R374 step 3: entries that waited for room are written. -/
def execTrapQueueWrite (core : Nat) (s : State) : Host.Outcome State Fault Refusal :=
  .next (drainTrapQueue s core (s.core core).tqWait.length)

/-- R374: the next pending report of a wave that has reached an issue boundary. -/
def execAsyncTrapDeliver (w : WaveKey) (s : State) : Host.Outcome State Fault Refusal :=
  match s.wave? w with
  | none => .next s
  | some x => if x.sched = .trapped ∨ x.finished then .next s else .next (deliverAsync s w)

/-! ## Which actions a trap accepts (R371) -/

/-- RESUME is named in the cell, engine stops apart. -/
def acceptsResume (code : BitVec 8) : Bool :=
  [Trap.illegalOpcode, Trap.illegalField, Trap.illegalLine, Trap.branchTarget, Trap.stallUndersize, Trap.divergenceOverflow,
    Trap.loopBody, Trap.registerRange, Trap.userTrap, Trap.loadFault, Trap.storeFault, Trap.alignment, Trap.rangeConflict,
    Trap.secureAccess, Trap.handleStale, Trap.queueScope, Trap.shipTarget, Trap.shipAbort, Trap.illegalWait, Trap.starvation,
    Trap.fpNanVector, Trap.matrixFormat, Trap.baton, Trap.copyFault, Trap.ioError].contains code

/-- The action is accepted for the trap that parked the wave; `stop` says that it is an engine stop (R371, R383). -/
def accepts (code : BitVec 8) (stop : Bool) (act : Nat) : Bool :=
  match act with
  | 1 => !stop && acceptsResume code
  | 2 => !stop && (code == Trap.loadFault || code == Trap.storeFault)
  | 3 => !stop && acceptsResume code
  | 4 => code != Trap.poison && code != Trap.machineCheck
  | 5 => true
  | 6 => stop && code != Trap.poison
  | 7 => stop && code != Trap.poison
  | 8 => stop && code != Trap.poison
  | _ => false

/-- The wave that PWSEL names. -/
def selected (s : State) (core : Nat) : WaveKey :=
  let x := (s.core core).pwsel.toNat
  ⟨core, field x 1 0, field x 6 2⟩

/-- WSTAT after an action: BUSY 0 and the result. -/
def setResult (s : State) (core result : Nat) : State := s.updCore core (fun x => { x with wstat := BitVec.ofNat 32 (2 * result) })

/-! ## Store-fault records -/

/-- The wave's records are discarded (R380); their stores are no longer outstanding. -/
def dropRecords (s : State) (core : Nat) (k : WaveKey) : State :=
  (faultsTold s k).updCore core (fun x => { x with retry := x.retry.filter (fun r => r.w != k) })

/-- One record is sent again: its kept elements are checked anew (R380). -/
def resend (s : State) (r : StoreFault) : State :=
  let f := s.fresh
  let iss := ((s.anyWave? r.w).map (·.cntIss)).getD 0 - 1
  { f.2 with mops := f.2.mops ++ [{ r.opInfo with id := f.1, iss := iss, checked := false, gtb := s.gtb, elems := r.elems }] }

/-- REPLAY of a STORE_FAULT, oldest record first (R380). -/
def resendAll (s : State) (core : Nat) (k : WaveKey) : State :=
  (recordsOf s core k).foldl resend (dropRecords s core k)

/-! ## The end of a trap -/

/-- RESUME: the records of a STORE_FAULT go, the lanes of a LOAD_FAULT are no longer owed, and the wave continues (R375, R380). -/
def resumeWave (s : State) (k : WaveKey) (r : TrapRec) : State :=
  if r.code = Trap.loadFault then
    (unpark s k).updWave k (fun w =>
      { w with gangs := w.gangs.map (fun g => if w.pcOf (g.quads.headD 0) == r.pc then { g with owed := none } else g) })
  else unpark (if r.code = Trap.storeFault then dropRecords s k.core k else s) k

/-- REPLAY of a LOAD_FAULT: gangs at the recorded PC issue again in the MASK lanes only; a fetch fault just resumes (R95,
R375). -/
def replayLoad (s : State) (k : WaveKey) (w : Wave) (r : TrapRec) : State :=
  let s1 := unpark s k
  if w.fetchFault then s1
  else
    s1.updWave k (fun v =>
      { v with gangs := v.gangs.map (fun g =>
          if v.pcOf (g.quads.headD 0) == r.pc && g.quads.any (fun q => r.mask.extractLsb' (4 * q) 4 != 0) then
            { g with replay := some r.mask }
          else g) })

/-- TERMINATE WAVE: its lanes end by R16 and its records go; reports that wait for it go where those of an ended wave go (R268, R308). -/
def killWave (s : State) (k : WaveKey) : State :=
  (endLanes (dropRecords s k.core k) k (BitVec.allOnes 96)).updWave k (fun w =>
    { w with trap := none, fetchFault := false, engStop := none, sched := .pending, rejoin := false, gangs := [] })

/-- The engine on which the wave's stopped command stands, and the command. -/
def stoppedCmd (s : State) (core id : Nat) : Option Cmd :=
  (s.core core).eng.cmds.find? (fun c => c.id == id && !c.isMark)

/-- RESUME, which reads the inputs as they stand, and DISCARD of an engine stop (R310); a command that has retired already needs neither. -/
def endStop (s : State) (core id : Nat) (discard : Bool) : State :=
  match stoppedCmd s core id with
  | none => s
  | some c => if discard then retireCmd s core c else updCmd s core id (fun x => { x with stop := none, seen := [] })

/-! ## Engine actions on copies and tables -/

/-- The first abandoned record of a channel that the wave issued. -/
def abandonedXfer (s : State) (core ch : Nat) (k : WaveKey) : Option Xfer :=
  (s.chan core ch).xfers.find? (fun x => x.w == k && x.fault.isSome)

/-- The record that a channel could not read, issued by the wave. -/
def abandonedHead (s : State) (core ch : Nat) (k : WaveKey) : Option ChainHead :=
  let c := s.chan core ch
  if c.recFault.isSome then c.walking.bind (fun h => if h.w = k then some h else none) else none

def abandonedTable (s : State) (core : Nat) (k : WaveKey) : Option TableOp :=
  (s.core core).tableOps.find? (fun o => o.w == k && o.fault.isSome)

/-- RETRY (R267, R382): a copy from its start, a reduction under its commit bitmap; after a fault of the write-back of OWN the record
is read again (R266). None when nothing stands abandoned. -/
def retryEngine (s : State) (core : Nat) (k : WaveKey) (eng : Nat) : Option State :=
  let ch := field eng 1 0
  match field eng 3 2 with
  | 0 =>
    match abandonedXfer s core ch k, abandonedHead s core ch k with
    | some x, _ =>
      if x.landedAll && x.fault.any (fun f => f.2.1 == x.recAddr) then
        some (s.updXfer core ch x.id (fun x => { x with fault := none, reread := true }))
      else some (s.updXfer core ch x.id (fun x => { x with fault := none, landed := if x.desc.op = 0 then [] else x.landed }))
    | none, some _ => some (s.updChan core ch (fun c => { c with recFault := none }))
    | none, none => none
  | 1 =>
    (abandonedTable s core k).map (fun o => s.updCore core (fun x =>
      { x with tableOps := x.tableOps.map (fun p => if p.id = o.id then { p with fault := none } else p) }))
  | _ => none

/-- FAIL (R383): the channel named sets ERR with CODE 2, and COPY_FAULT is raised. -/
def failEngine (s : State) (core : Nat) (k : WaveKey) (eng : Nat) : Option State :=
  let ch := field eng 1 0
  match field eng 3 2 with
  | 0 =>
    match abandonedXfer s core ch k, abandonedHead s core ch k with
    | some x, _ => some (failXfer s core ch x 2)
    | none, some h => some (channelStop (s.updChan core ch (fun c => { c with recFault := none })) core ch h 2)
    | none, none => none
  | 1 => (abandonedTable s core k).map (fun o =>
      failTable (s.updChan core ch (fun c => { c with err := true, code := 2, errTeam := some (o.gid, o.team) })) core o 2)
  | _ => none

/-! ## WCMD -/

/-- The effect of an accepted action on a parked wave; none when it is refused. -/
def parkedAction (s : State) (k : WaveKey) (w : Wave) (r : TrapRec) (act eng : Nat) : Option State :=
  let part := s.partOf k.core
  if !accepts r.code w.engStop.isSome act then none
  else
    match act with
    | 1 => some (resumeWave s k r)
    | 2 => some (if r.code = Trap.loadFault then replayLoad s k w r else unpark (resendAll s k.core k) k)
    | 3 => some (killWave s k)
    | 4 => some (terminateTeam s w.grid w.team r.code)
    | 5 => some (terminateContext s part w.ctx)
    | _ =>
      match w.engStop with
      | none => none
      | some id =>
        if eng ≠ 8 then none
        else if act = 8 then some (terminateTeam s w.grid w.team r.code)
        else some (unpark (endStop s (s.engineCore w) id (decide (act = 7))) k)

/-- A write of WCMD (R375, R383): the outcome stands in WSTAT. RETRY and FAIL need no parked wave (R381). -/
def wcmd (s : State) (core act eng : Nat) : State :=
  let k := selected s core
  if (act = 6 ∨ act = 7) ∧ eng / 4 ≠ 2 then
    match if act = 6 then retryEngine s core k eng else failEngine s core k eng with
    | some s1 => setResult s1 core 0
    | none => setResult s core 2
  else
    match s.wave? k with
    | none => setResult s core 1
    | some w =>
      match w.trap with
      | none => setResult s core 1
      | some r =>
        match parkedAction s k w r act eng with
        | some s1 => setResult s1 core 0
        | none => setResult s core 2

def execWcmdResume (core : Nat) (s : State) : Host.Outcome State Fault Refusal := .next (wcmd s core 1 0)

def execWcmdReplay (core : Nat) (s : State) : Host.Outcome State Fault Refusal := .next (wcmd s core 2 0)

def execWcmdTerminateWave (core : Nat) (s : State) : Host.Outcome State Fault Refusal := .next (wcmd s core 3 0)

def execWcmdTerminateTeam (core : Nat) (s : State) : Host.Outcome State Fault Refusal := .next (wcmd s core 4 0)

def execWcmdTerminateContext (core : Nat) (s : State) : Host.Outcome State Fault Refusal := .next (wcmd s core 5 0)

def execWcmdEngineRetry (core : Nat) (eng : BitVec 4) (s : State) : Host.Outcome State Fault Refusal := .next (wcmd s core 6 eng.toNat)

def execWcmdEngineFail (core : Nat) (eng : BitVec 4) (s : State) : Host.Outcome State Fault Refusal := .next (wcmd s core 7 eng.toNat)

def execWcmdEngineResume (core : Nat) (eng : BitVec 4) (s : State) : Host.Outcome State Fault Refusal := .next (wcmd s core 6 eng.toNat)

def execWcmdEngineDiscard (core : Nat) (eng : BitVec 4) (s : State) : Host.Outcome State Fault Refusal := .next (wcmd s core 7 eng.toNat)

def execWcmdEngineTerminate (core : Nat) (eng : BitVec 4) (s : State) : Host.Outcome State Fault Refusal :=
  .next (wcmd s core 8 eng.toNat)

/-! ## TCMD -/

/-- The core accepts TCMD for the team (R419). -/
def ofCore (t : Team) (core : Nat) : Bool :=
  (t.res == .resident && (t.core == core || (t.span && t.core + 1 == core))) || t.events.any (fun e => e.core == core)

def dropEvent (s : State) (gid team : Nat) (e : TeamEvent) : State :=
  s.updTeam gid team (fun t => { t with events := t.events.erase e })

/-- The effect of an action on a team; none when it is refused. -/
def teamAction (s : State) (t : Team) (act eng : Nat) : Option State :=
  let cause := ((t.events.head?).map (·.code)).getD 0
  let store := t.events.find? (fun e => e.code == Trap.storeFault && e.cmd.isNone)
  let engine := t.events.find? (fun e => e.cmd.isSome)
  match act with
  | 1 => store.map (fun e => dropRecords (dropEvent s t.gid t.num e) e.core e.w)
  | 2 => store.map (fun e => resendAll (dropEvent s t.gid t.num e) e.core e.w)
  | 4 => some (terminateTeam s t.gid t.num cause)
  | 5 => some (terminateContext s (s.partOf t.core) t.ctx)
  | n =>
    if n < 6 ∨ 8 < n ∨ eng ≠ 8 then none
    else
      engine.bind (fun e =>
        e.cmd.map (fun id =>
          if n = 8 then terminateTeam s t.gid t.num e.code
          else endStop (dropEvent s t.gid t.num e) t.core id (decide (n = 7))))

/-- A write of TCMD: the team is named as a trap-queue entry names it. -/
def tcmd (s : State) (core gid team act eng : Nat) : State :=
  match s.team? (gridHandle (s.partOf core) gid) team with
  | none => setResult s core 3
  | some t =>
    if t.res = .ended || !ofCore t core then setResult s core 3
    else
      match teamAction s t act eng with
      | some s1 => setResult s1 core 0
      | none => setResult s core 2

def execTcmdDiscardStores (core gid team : Nat) (s : State) : Host.Outcome State Fault Refusal := .next (tcmd s core gid team 1 0)

def execTcmdReplayStores (core gid team : Nat) (s : State) : Host.Outcome State Fault Refusal := .next (tcmd s core gid team 2 0)

def execTcmdTerminateTeam (core gid team : Nat) (s : State) : Host.Outcome State Fault Refusal := .next (tcmd s core gid team 4 0)

def execTcmdTerminateContext (core gid team : Nat) (s : State) : Host.Outcome State Fault Refusal := .next (tcmd s core gid team 5 0)

def execTcmdEngineResume (core gid team : Nat) (eng : BitVec 4) (s : State) : Host.Outcome State Fault Refusal :=
  .next (tcmd s core gid team 6 eng.toNat)

def execTcmdEngineDiscard (core gid team : Nat) (eng : BitVec 4) (s : State) : Host.Outcome State Fault Refusal :=
  .next (tcmd s core gid team 7 eng.toNat)

def execTcmdEngineTerminate (core gid team : Nat) (eng : BitVec 4) (s : State) : Host.Outcome State Fault Refusal :=
  .next (tcmd s core gid team 8 eng.toNat)

/-! ## PWSTATE -/

def noQuad : Quad := { pc := 0, mask := 0, ended := true, stack := [] }

/-- Half of a 64-bit word. -/
def half (x : Nat) (hi : Bool) : Nat := if hi then x / 2 ^ 32 % 2 ^ 32 else x % 2 ^ 32

/-- Start and end of loop level `n`, the outermost 0; a level that is not open reads 0. -/
def levelAt (w : Wave) (n : Nat) : Pc × Pc := (w.levels.reverse[n]?).getD (0, 0)

/-- The aligned 32-bit word of PWSTATE at an offset (R376). Entry 0 of a stack is the first pushed. -/
def pwRead (w : Wave) (off : Nat) : Nat :=
  let hi := off / 4 % 2 = 1
  if 0x1000 ≤ off ∧ off < 0x1100 then (w.rdS ((off - 0x1000) / 4)).toNat
  else if 0x1100 ≤ off ∧ off < 0x11C0 then
    match w.quads[(off - 0x1100) / 8]? with
    | none => 0
    | some q => half (q.pc.toNat + q.mask.toNat * 2 ^ 48 + (if q.ended then 2 ^ 52 else 0) + q.stack.length * 2 ^ 56) hi
  else if 0x1200 ≤ off ∧ off < 0x1800 then
    match ((w.quads.getD ((off - 0x1200) / 64) noQuad).stack.reverse)[(off - 0x1200) / 8 % 8]? with
    | none => 0
    | some e => half (e.1.toNat + e.2.toNat * 2 ^ 48) hi
  else if 0x1800 ≤ off ∧ off < 0x1E00 then
    let lane := (off - 0x1800) / 16
    let j := off % 16 * 8
    if lane < w.width then
      ((List.range 32).map (fun i => if w.rdP (j + i) lane then 2 ^ i else 0)).sum
    else 0
  else if off = 0x1E00 then w.wcw.toNat
  else if 0x1E08 ≤ off ∧ off < 0x1E14 then (SMap.get 0#32 w.lc ((off - 0x1E08) / 4)).toNat
  else if off = 0x1E14 then w.levels.length
  else if 0x1E20 ≤ off ∧ off < 0x1E30 then (SMap.get 0#32 w.amax ((off - 0x1E20) / 4)).toNat
  else if 0x1E40 ≤ off ∧ off < 0x1E78 then half (SMap.get 0#64 w.wct ((off - 0x1E40) / 8)).toNat hi
  else if 0x1E80 ≤ off ∧ off < 0x1EE0 then (w.slices.getD ((off - 0x1E80) / 4) none).getD 0
  else if 0x1F00 ≤ off ∧ off < 0x1F30 then
    let l := levelAt w ((off - 0x1F00) / 16)
    half (if off / 8 % 2 = 1 then l.2 else l.1).toNat hi
  else if 0x1FE0 ≤ off then ((w.trap.map TrapRec.bits).getD 0) / 2 ^ (8 * (off - 0x1FE0)) % 2 ^ 32
  else 0

/-- One half of a 64-bit word replaced. -/
def withHalf (x v : Nat) (hi : Bool) : Nat := if hi then x % 2 ^ 32 + v * 2 ^ 32 else x / 2 ^ 32 * 2 ^ 32 + v

/-- The stack with `n` entries; new ones are zero. -/
def stackTo (l : List (Pc × BitVec 4)) (n : Nat) : List (Pc × BitVec 4) :=
  (l.reverse.take n ++ List.replicate (n - l.length) (0, 0)).reverse

/-- Mask bits that a quad can have. -/
def liveBits (w : Wave) (q : Nat) : BitVec 4 := ~~~(w.ended.extractLsb' (4 * q) 4)

/-- Writes the aligned 32-bit word of PWSTATE at an offset; read-only parts keep their values (R376). -/
def pwWrite (w : Wave) (off v : Nat) : Wave :=
  let hi : Bool := off / 4 % 2 = 1
  if 0x1000 ≤ off ∧ off < 0x1100 then w.wrS ((off - 0x1000) / 4) (BitVec.ofNat 32 v)
  else if 0x1100 ≤ off ∧ off < 0x11C0 then
    let n := (off - 0x1100) / 8
    w.updQuad n (fun q =>
      let x := withHalf (q.pc.toNat + q.mask.toNat * 2 ^ 48 + q.stack.length * 2 ^ 56) v hi
      { q with
        pc := BitVec.ofNat 48 x, mask := BitVec.ofNat 4 (field x 51 48) &&& liveBits w n
        stack := stackTo q.stack (min 8 (field x 59 56)) })
  else if 0x1200 ≤ off ∧ off < 0x1800 then
    let n := (off - 0x1200) / 64
    let i := (off - 0x1200) / 8 % 8
    w.updQuad n (fun q =>
      { q with stack := (q.stack.reverse.modify i (fun e =>
          let x := withHalf (e.1.toNat + e.2.toNat * 2 ^ 48) v hi
          (BitVec.ofNat 48 x, BitVec.ofNat 4 (field x 51 48) &&& liveBits w n))).reverse })
  else if 0x1800 ≤ off ∧ off < 0x1E00 then
    let lane := (off - 0x1800) / 16
    let j := off % 16 * 8
    if lane < w.width then (List.range 32).foldl (fun w i => w.wrP (j + i) lane (v.testBit i)) w else w
  else if off = 0x1E00 then
    let rm := if v % 8 ≤ 4 then v % 8 else w.wcw.toNat % 8
    { w with wcw := BitVec.ofNat 32 (w.wcw.toNat / 256 * 256 + v % 256 / 8 * 8 + rm) }
  else if 0x1E08 ≤ off ∧ off < 0x1E14 then { w with lc := SMap.set 0#32 w.lc ((off - 0x1E08) / 4) (BitVec.ofNat 32 v) }
  else if off = 0x1E14 then
    let n := v % 4
    { w with levels := (w.levels.reverse.take n ++ List.replicate (n - w.levels.length) (0, 0)).reverse }
  else if 0x1E20 ≤ off ∧ off < 0x1E30 then { w with amax := SMap.set 0#32 w.amax ((off - 0x1E20) / 4) (BitVec.ofNat 32 v) }
  else if 0x1E40 ≤ off ∧ off < 0x1E78 then
    let n := (off - 0x1E40) / 8
    { w with wct := SMap.set 0#64 w.wct n (BitVec.ofNat 64 (withHalf (SMap.get 0#64 w.wct n).toNat v hi)) }
  else if 0x1F00 ≤ off ∧ off < 0x1F30 then
    { w with levels := (w.levels.reverse.modify ((off - 0x1F00) / 16) (fun l =>
        let second : Bool := off / 8 % 2 = 1
        let x := BitVec.ofNat 48 (withHalf (if second then l.2 else l.1).toNat v hi)
        if second then (l.1, x) else (x, l.2))).reverse }
  else w

/-- The bytes of an aligned word that a write covers. -/
def mergeWord (old at_ off : Nat) (data : List Byte) : Nat :=
  ((List.range 4).map (fun i =>
    let a := at_ + i
    let b := if off ≤ a then (data[a - off]?).map (·.toNat) else none
    (b.getD (old / 256 ^ i % 256)) * 256 ^ i)).sum

/-- A write into PWSTATE of the wave that PWSEL names, while it is parked. -/
def pwStore (s : State) (core off : Nat) (data : List Byte) : State :=
  let k := selected s core
  match s.wave? k with
  | none => s
  | some w =>
    if w.trap.isNone ∨ off < 0x1000 ∨ 0x2000 < off + data.length then s
    else
      let first := off / 4
      let n := (off + data.length + 3) / 4 - first
      let w1 := (List.range n).foldl (fun w i => pwWrite w (4 * (first + i)) (mergeWord (pwRead w (4 * (first + i))) (4 * (first + i)) off data)) w
      s.updWave k (fun _ => w1)

def execPwstateWrite (core offset : Nat) (data : List Byte) (s : State) : Host.Outcome State Fault Refusal :=
  .next (pwStore s core offset data)

/-! ## TINV -/

/-- R386: the context's translations leave the core; DONE reads 0 until their users have performed. A changed PASID binding
comes into force (R400). -/
def tinvStart (s : State) (core ctx : Nat) : State :=
  if (s.core core).tinv.getLsbD 17 then
    let n := ctx % 1024
    let s1 := s.updPart (s.partOf core) (fun p => { p with pasid := SMap.set 0#32 p.pasid n (SMap.get 0#32 p.pasidReg n) })
    (dropTlbs s1 n [core]).updCore core (fun x => { x with tinv := BitVec.ofNat 32 n, tinvBound := s.nextId })
  else s

def execTinvGo (core ctx : Nat) (s : State) : Host.Outcome State Fault Refusal := .next (tinvStart s core ctx)

def execTinvDone (core : Nat) (s : State) : Host.Outcome State Fault Refusal :=
  let x := s.core core
  if !x.tinv.getLsbD 17 && drained s (field x.tinv.toNat 9 0) x.tinvBound [core] then
    .next (s.updCore core (fun x => { x with tinv := x.tinv ||| 0x00020000#32 }))
  else .next s

end Sys2Proof.Machine
end

