-- ==== Sys2Proof/Machine/Errors.lean ====
section
/-! DEFINITION. Errors, poison and machine checks (13 R392-R395) and the error rings of the host ports (14 R404). -/

namespace Sys2Proof.Machine

/-! ## The error ring -/

def leBytes (n x : Nat) : List Byte := natToBytes n x

/-- GUID of the vendor section (R395), in the byte order of UEFI. -/
def vendorGuid : List Byte :=
  [0xA4, 0xC0, 0x51, 0x7E, 0x19, 0x2B, 0x6E, 0x4D, 0x9A, 0x03, 0x51, 0xF0, 0x8C, 0x2D, 0x3E, 0x71]

/-- Severity of a kind in UEFI's codes: corrected 2, recoverable 0, fatal 1 (R395, log 40). -/
def severityOf (kind : Nat) : Nat :=
  match kind with
  | 1 => 2
  | 4 => 1
  | _ => 0

/-- The 48-byte vendor section (R395). -/
def vendorSection (r : ErrRecord) : List Byte :=
  leBytes 2 0x0100 ++ leBytes 2 r.kind ++ leBytes 2 r.die ++ leBytes 2 r.unit ++ leBytes 4 r.index ++ leBytes 4 r.bank
    ++ leBytes 8 r.paddr ++ leBytes 8 r.synd ++ leBytes 4 r.ctx ++ leBytes 4 r.count ++ leBytes 8 r.egtb

/-- The 256 bytes of an entry (R404). Of UEFI's record header and section descriptor, the fields that R395 speaks of are
written; the spec states no others, and they are free (log 40). -/
def entryBytes (s : State) (r : ErrRecord) : List Byte × State :=
  let a := s.freeBytes 12
  let b := a.2.freeBytes 112
  let c := b.2.freeBytes 16
  let d := c.2.freeBytes 16
  let e := d.2.freeBytes 20
  (a.1 ++ leBytes 4 (severityOf r.kind) ++ b.1 ++ c.1 ++ vendorGuid ++ d.1 ++ leBytes 4 (severityOf r.kind) ++ e.1 ++ vendorSection r
    ++ List.replicate 8 0, e.2)

/-- The port through which a port's error vector is raised (R398). -/
def errVectorPort (s : State) (port : Nat) : Nat := if s.root.mode = 0 then s.lease.active else port

def entryAt (p : HostPort) (i : Nat) : Nat := p.errBase.toNat + 256 * (i % ringCapacity p.errCfg)

def errUsed (p : HostPort) : Nat := (p.errTail - p.errHead).toNat

/-- A record goes into the ring, which has room. -/
def putError (s : State) (port : Nat) (r : ErrRecord) : State :=
  let p := s.port port
  let e := entryBytes s r
  let s1 := { e.2 with hostMem := e.2.hostMem.write (hostKey port (entryAt p p.errTail.toNat)) e.1 }
  let s2 := s1.updPort port (fun p => { p with errTail := p.errTail + 1, errRing := p.errRing ++ [r] })
  if p.errCfg.getLsbD 4 then
    s2.updPort (errVectorPort s port) (fun q => { q with msix := q.msix ++ [field p.errCfg.toNat 31 16] })
  else s2

/-- One more record was lost; the count saturates. -/
def loseError (s : State) (port : Nat) : State :=
  s.updPort port (fun p => { p with errLost := if p.errLost = BitVec.allOnes 32 then p.errLost else p.errLost + 1 })

/-- A corrected record is folded into the newest entry of its place, if there is one. -/
def foldError (s : State) (port : Nat) (r : ErrRecord) : State :=
  let p := s.port port
  match (p.errRing.zipIdx.reverse).find? (fun x => sameSpot x.1 r) with
  | none => loseError s port
  | some (old, i) =>
    let n := (old.count + r.count) % 2 ^ 32
    let at_ := hostKey port (entryAt p (p.errHead.toNat + i) + 200 + 36)
    ({ s with hostMem := s.hostMem.writeNat at_ 4 n }).updPort port (fun p =>
      { p with errRing := p.errRing.modify i (fun e => { e with count := n }) })

/-- R404: written while there is room, and nothing waits before it; else folded, or it waits. -/
def reportError (s : State) (port : Nat) (r : ErrRecord) : State :=
  let p := s.port port
  if errUsed p < ringCapacity p.errCfg ∧ (p.errWait.isEmpty ∨ r.kind = 1) then putError s port r
  else if r.kind = 1 then foldError s port r
  else s.updPort port (fun p => { p with errWait := p.errWait ++ [(r, s.gtb)] })

/-- Waiting records enter as room appears. -/
def drainErrors (s : State) (port : Nat) : Nat → State
  | 0 => s
  | n + 1 =>
    let p := s.port port
    match p.errWait with
    | [] => s
    | (r, _) :: rest =>
      if errUsed p < ringCapacity p.errCfg then drainErrors (putError (s.updPort port (fun p => { p with errWait := rest })) port r) port n
      else s

/-- The ports that a record concerns (R404). -/
def ErrDue.ports (s : State) (d : ErrDue) : List Nat := match d.part with | some p => portsOf s p | none => [0, 1]

/-- The record may be written: the second of a corrected one is over (R395). -/
def ErrDue.ripe (s : State) (d : ErrDue) : Bool := d.record.kind != 1 || decide (d.record.egtb + 1000000000 ≤ s.gtb)

/-- A due record goes into the ring of one of its ports; it is done with when all of them have it. -/
def writeDue (s : State) (port : Nat) (d : ErrDue) : State :=
  if !d.ripe s || !(d.ports s).contains port || d.told.contains port then s
  else
    let told := port :: d.told
    let rest := if (d.ports s).all told.contains then [] else [{ d with told := told }]
    let s1 := reportError s port d.record
    { s1 with root := { s1.root with errs := s1.root.errs.flatMap (fun x => if x = d then rest else [x]) } }

/-- R404: a record is written at a port. One that no event of the model left is that of an error of no partition. -/
def execErrorRecordWrite (port : Nat) (record : ErrRecord) (s : State) : Host.Outcome State Fault Refusal :=
  if 2 ≤ port then .next s
  else
    match s.root.errs.find? (fun d => d.record == record) with
    | some d => .next (writeDue s port d)
    | none =>
      let d : ErrDue := { record := record, part := none, told := [] }
      .next (writeDue { s with root := { s.root with errs := s.root.errs ++ [d] } } port d)

/-- R404: a record that has waited for 1 s is dropped and counted. -/
def execErrorRingWaitTimeout (port : Nat) (s : State) : Host.Outcome State Fault Refusal :=
  match (s.port port).errWait with
  | [] => .next s
  | (_, since) :: rest =>
    if since + 1000000000 ≤ s.gtb then .next (loseError (s.updPort port (fun p => { p with errWait := rest })) port) else .next s

/-! ## ECC and poison -/

/-- R392: corrected in place, counted and reported. -/
def execEccCorrectedError (core : Nat) (s : State) : Host.Outcome State Fault Refusal :=
  .next (s.correctedIn core)

/-- The record of poison that has been created (R395): a memory sector by its address. -/
def poisonRecord (s : State) (loc : PoisonLoc) : State :=
  match loc with
  | .memory k =>
    let u := s.freeNat
    let part := (List.range 4).find? (fun p => s.inWindow p (32 * k))
    u.2.oweRecord
      { kind := 2, die := 0x10 + ((part.bind (fun p => homeDie (s.part p).mwin (32 * k))).getD 0), unit := 7 + u.1 % 3, index := 0, bank := 0
        paddr := 32 * k, synd := 0, ctx := 0xFFFFFFFF, count := 1, egtb := s.gtb } part
  | .slice w _ => s.oweError 2 w.core 0xFFFFFFFF (some (s.partOf w.core))
  | .waveState w => s.oweError 2 w.core 0xFFFFFFFF (some (s.partOf w.core))
  | .scratchpad c _ => s.oweError 2 c 0xFFFFFFFF (some (s.partOf c))
  | .engineTile c _ => s.oweError 2 c 0xFFFFFFFF (some (s.partOf c))
  | .engineBuffer c _ => s.oweError 2 c 0xFFFFFFFF (some (s.partOf c))

/-- R392: the sector, slice, entry, tile or buffer is poisoned, which is reported. -/
def execUncorrectableDataError (loc : PoisonLoc) (s : State) : Host.Outcome State Fault Refusal :=
  .next (if s.poison.contains loc then s else { poisonRecord s loc with poison := loc :: s.poison })

/-- R392: a read that changes nothing a program can see. -/
def execPatrolScrub (_addr : Nat) (s : State) : Host.Outcome State Fault Refusal := .next s

/-! ## Machine checks -/

/-- R394: every wave of the core is to park; the core leaves service. -/
def execMachineCheck (core unit : Nat) (s : State) : Host.Outcome State Fault Refusal :=
  if 192 ≤ core then .next s
  else
    let r := ({ code := Trap.machineCheck, det1 := unit } : TrapInfo).at_ 0
    let s1 := s.waves.foldl (fun s w => if w.key.core = core ∧ !w.finished then report s w.key 0 r else s) s
    let s2 := s1.oweRecord
      { kind := 4, die := dieOf core, unit := unit, index := core, bank := 0, paddr := 0, synd := 0, ctx := 0xFFFFFFFF, count := 1,
        egtb := s.gtb } (some (s.partOf core))
    .next (s2.updCore core (fun x => { x with oos := true, lost := if x.lost.contains unit then x.lost else unit :: x.lost }))

/-- R394: a core that has lost only its pair-carry network returns to service with DIAG set. -/
def execCoreSelfTestComplete (core : Nat) (passed : Bool) (s : State) : Host.Outcome State Fault Refusal :=
  let x := s.core core
  if !x.oos || x.lost.isEmpty || s.waves.any (fun w => w.key.core == core && !w.finished) then .next s
  else if passed && x.lost == [3] then .next (s.updCore core (fun x => { x with oos := false, diag := true, lost := [] }))
  else .next s

end Sys2Proof.Machine
end

