-- ==== Sys2Proof/Machine/Host.lean ====
section
/-! DEFINITION. The host ports (14 R396-R403, 13 R389-R391): the host lease, coherence regions, snoops, the host's accesses,
address translation through PCI Express. -/

namespace Sys2Proof.Machine

/-- The partition behind a function of a port (R396). -/
def functionPart (mode port fn : Nat) : Option Nat :=
  match mode with
  | 0 => if fn = 0 then some 0 else none
  | 1 => if fn = 0 then some port else none
  | _ => if fn < 2 then some (2 * port + fn) else none

/-! ## The host lease -/

/-- R398: a lease write. -/
def renewLease (s : State) (port len : Nat) : State :=
  let l := s.lease
  let expiry := s.gtb + len * 1000
  if s.root.mode ≠ 0 ∨ len = 0 ∨ 2 ≤ port then s
  else if !l.held then { s with lease := { l with active := port, held := true, hlexp := expiry, lastLen := len } }
  else if port = l.active ∧ (s.gtb < l.hlexp ∨ l.expired) then
    { s with lease := { l with hlexp := expiry, lastLen := len, expired := false } }
  else s

/-- By the host of a port that answers (R418). -/
def execHlrenew (port : Nat) (len : BitVec 16) (s : State) : Host.Outcome State Fault Refusal :=
  .next (if portAnswers s port then renewLease s port len.toNat else s)

/-- R398, R399: takeover by the standby port, whose peer loses its cached translations; or EXPIRED. -/
def execHostLeaseExpire (s : State) : Host.Outcome State Fault Refusal :=
  let l := s.lease
  if s.root.mode ≠ 0 ∨ !l.held ∨ l.expired ∨ s.gtb < l.hlexp then .next s
  else
    let other := 1 - l.active
    if (s.port other).up then
      .next ({ s with lease :=
          { l with active := other, hlexp := s.gtb + l.lastLen * 1000, takeovers := l.takeovers + 1 } }.updPort l.active (fun p =>
        { p with atc := [] }))
    else .next { s with lease := { l with expired := true } }

/-! ## Regions -/

def regionEntry (s : State) (part n : Nat) : BitVec 128 := SMap.get 0 (s.part part).rgn n

/-- The write of a region's STATE on a port: DEVICE, SHARED and CONTESTED need CXL.cache there, for host memory (R402, R403). -/
def writeRegionState (s : State) (port part n st : Nat) : State :=
  let e := regionEntry s part n
  let needs := !e.getLsbD 67 && st != 1
  if 1024 ≤ n ∨ e.getLsbD 66 ∨ (needs && !(s.port port).cxlCache) then s
  else if !e.getLsbD 64 then
    s.updPart part (fun p => { p with rgn := SMap.set 0 p.rgn n (BitVec.ofNat 128 (setField e.toNat 1 0 st)) })
  else beginMove s part n (if st = 3 ∧ e.toNat % 4 ≠ 3 ∧ 256 ≤ contestedCount s part then 1 else st)

/-- On the port that serves the partition, the active one where two do (log 76), once it answers (R418). -/
def execRegionStateWrite (part n : Nat) (state : BitVec 2) (s : State) : Host.Outcome State Fault Refusal :=
  .next (if portAnswers s (msixPort s part) then writeRegionState s (msixPort s part) part n state.toNat else s)

/-- The place lies in region `n` of the partition. -/
def inRegion (s : State) (part n : Nat) (t : Target) : Bool := ((regionAt s part t).map (·.1)) == some n

/-- Lines of the region as lease keys: device lines, or lines of each port's host memory. -/
def regionKeys (s : State) (part n : Nat) (key : Nat) : Bool :=
  let e := regionEntry s part n
  let sz := field e.toNat 6 2
  let base := field e.toNat 63 12 * 4096
  let inside (a : Nat) : Bool := decide (a / 2 ^ sz = base / 2 ^ sz)
  if e.getLsbD 67 then decide (key < 2 ^ 80) && inside (key * 128)
  else [0, 1].any (fun p => decide (2 ^ 80 + hostKey p 0 ≤ key) && decide (key < 2 ^ 80 + hostKey p (2 ^ 57))
    && inside ((key - 2 ^ 80 - hostKey p 0) * 128))

/-- R403: leases granted under the old state have expired and dirty sectors are home; the new state stands. A store that waits at a
SHARED region for this very change has left its way. -/
def execRegionChangeDone (part n : Nat) (s : State) : Host.Outcome State Fault Refusal :=
  match movingTo s part n with
  | none => .next s
  | some st =>
    let leased := s.eDev.any (fun (p : Nat × Nat) => regionKeys s part n p.1 && decide (s.gtb < p.2))
      || s.eFab.any (fun (p : Nat × Nat) => regionKeys s part n p.1 && decide (s.gtb < p.2))
    let dirty := s.mops.any (fun o => o.elems.any (fun e =>
      (match e.phase with | .dirty _ => true | .sent => (regionEntry s part n).toNat % 4 != 2 | _ => false)
        && (e.target.map (inRegion s part n)).getD false && s.partOf o.w.core == part))
    if leased || dirty then .next s
    else
      let e := setField (setField (regionEntry s part n).toNat 66 66 0) 1 0 st
      .next (s.updPart part (fun p =>
        { p with rgn := SMap.set 0 p.rgn n (BitVec.ofNat 128 e), rgnNew := SMap.set 0 p.rgnNew n 0 }))

/-- R403: a snoop waits for its answer; one for ownership moves a SHARED region. -/
def execHostSnoop (part addr : Nat) (own : Bool) (s : State) : Host.Outcome State Fault Refusal :=
  let line := addr / 128 * 128
  let s1 :=
    match sharedRegion s part (.host 0 line) with
    | some n => if own then autoContest s part n else s
    | none => s
  .next { s1 with snoops := s1.snoops ++ [{ part := part, addr := line, own := own }] }

/-- R403: the answer, once every device lease on the line has expired and no move is in progress. -/
def execSnoopResponse (part addr : Nat) (s : State) : Host.Outcome State Fault Refusal :=
  let line := addr / 128 * 128
  match s.snoops.find? (fun x => x.part == part && x.addr == line) with
  | none => .next s
  | some x =>
    let moving := ((regionAt s part (.host 0 line)).map (fun p => (movingTo s part p.1).isSome)).getD false
    let free := (portsOf s part).all (fun p => decide (SMap.get 0 s.eDev (Target.host p line).leaseKey ≤ s.gtb))
    if free && !moving then .next { s with snoops := s.snoops.erase x } else .next s

/-! ## The host's accesses -/

/-- The world of a host function (R415, log 41). -/
def secureFunction (s : State) (port fn : Nat) : Bool := s.root.sbio.getLsbD (3 * port + fn)

/-- R416: a byte of a secure region, for a non-secure function. -/
def hostRefused (s : State) (port fn addr len : Nat) : Bool :=
  !secureFunction s port fn && (List.range len).any (fun i => (secureRegion s.root.srgn (addr + i)).isSome)

/-- The error record of a turned-away access (R416): KIND 5, on every port that serves the partition. -/
def recordRefusal (s : State) (part addr : Nat) : State :=
  let r : ErrRecord :=
    { kind := 5, die := 0, unit := 6, index := 0, bank := 0, paddr := addr, synd := 0, ctx := 0xFFFFFFFF, count := 1, egtb := s.gtb }
  (portsOf s part).foldl (fun s p => reportError s p r) s

/-- Sectors that a write fills lose their poison (R392). -/
def clearWritten (s : State) (addr len : Nat) : State :=
  { s with poison := s.poison.filter (fun p =>
      match p with
      | .memory k => !(decide (addr ≤ 32 * k) && decide (32 * k + 32 ≤ addr + len))
      | _ => true) }

/-- What an atomic of a host leaves: FetchAdd or Swap. -/
def hostAtomicNew (add : Bool) (len old operand : Nat) : Nat :=
  if add then (old + operand) % 2 ^ (8 * len) else operand % 2 ^ (8 * len)

/-- A write of device memory by a host (R402): at the home, when no lease stands; a SHARED region moves first. -/
def hostStore (s : State) (part addr len : Nat) (apply : State → State) : State :=
  if !(List.range len).all (fun i => s.inWindow part (addr + i)) then s
  else
    match sharedRegion s part (.dev addr) with
    | some n => autoContest s part n
    | none => if s.writable (.dev addr) len then clearWritten (apply s) addr len else s

/-- What the port answers to a host's read or atomic: bytes of device memory, as poison when some of their sectors are (R392). -/
def hostReply (s : State) (port addr len : Nat) : State :=
  let poisoned := (List.range (len / 32 + 2)).any (fun i => decide (32 * (addr / 32 + i) < addr + len) && s.poison.contains (.memory (addr / 32 + i)))
  s.updPort port (fun p => { p with replies := p.replies ++ [{ data := s.mem.read addr len, poisoned := poisoned }] })

/-- A turned-away read or atomic of a host completes with zero data, and is recorded (R416). -/
def refuseRead (s : State) (port part addr len : Nat) : State :=
  (recordRefusal s part addr).updPort port (fun p => { p with replies := p.replies ++ [{ data := List.replicate len 0, poisoned := false }] })

/-! ## Atomics that cross -/

/-- A device atomic on its way to some of the same bytes of host memory in another width, with all of it that goes to its place (R233). -/
def crossing (s : State) (port addr len : Nat) : Option (MOp × Target × List Nat) :=
  s.mops.findSome? (fun o =>
    if o.kind.rmw then
      o.elems.zipIdx.findSome? (fun p =>
        match p.1.phase, p.1.target with
        | .sent, some (.host q a) =>
          if q = port ∧ a < addr + len ∧ addr < a + p.1.size ∧ p.1.size ≠ len ∧ arriveMay s o p.2 p.1 (.host q a) then
            some (o, .host q a, arriveGroup o p.2 p.1)
          else none
        | _, _ => none)
    else none)

/-- The bytes of one number where `pick` says so, else those of the other; `base` is the address of the first. -/
def mixBytes (pick : Nat → Bool) (base n a b : Nat) : Nat :=
  bytesToNat ((List.range n).map (fun i => BitVec.ofNat 8 ((if pick (base + i) then b else a) / 256 ^ i)))

/-- A host's atomic on its own memory, through a completer that does not serialise mixed widths: each aligned word of it and of a device
atomic that crosses it is decided by either order, and so is what they return (R233). -/
def crossAtomics (s : State) (port addr len : Nat) (host : State → State) : State :=
  match crossing s port addr len with
  | none => host s
  | some (o, t, group) =>
    if Config.hostSerialises then host s
    else
      let f := s.freeBytes 8
      let pick (a : Nat) : Bool := (f.1.getD (a / 4 % 8) 0).getLsbD 0
      let s0 := arriveAll f.2 o t group
      match s0.mop? o.id with
      | none => host s
      | some x =>
        let dev (s : State) : State := group.foldl (fun s i => atomicOne s x t i) s
        let a := dev (host s0)
        let b := host (dev s0)
        let lo := min addr t.offset
        let n := max (addr + len) (t.offset + 16) - lo
        let m := mixBytes pick lo n (a.hostMem.readNat (hostKey port lo) n) (b.hostMem.readNat (hostKey port lo) n)
        let oldOf (s : State) (i : Nat) : Nat := (((s.mop? o.id).bind (fun o => o.elems[i]?)).map (·.old)).getD 0
        let c := group.foldl (fun (s : State) i =>
          s.updElem o.id i (fun e => { e with old := mixBytes pick t.offset e.size (oldOf a i) (oldOf b i) }))
            { a with hostMem := a.hostMem.writeNat (hostKey port lo) n m }
        (atomicReturn c o.id).updWave o.w Wave.progress

/-- An access of the host to its own memory (R402): in a region that the device holds, each byte becomes unspecified; a
write where the device may hold copies waits for their leases. -/
def ownAccess (s : State) (part port addr len : Nat) (write : Bool) (apply : State → State) : State :=
  match regionAt s part (.host port addr) with
  | some (n, st) =>
    if st = 0 then
      let b := s.freeBytes len
      { b.2 with hostMem := b.2.hostMem.write (hostKey port addr) b.1 }
    else if !write then s
    else if st = 2 then autoContest s part n
    else if s.unleased (.host port addr) len then apply s else s
  | none => if write then apply s else s

def execHostAccess (port fn : Nat) (op : HostOp) (s : State) : Host.Outcome State Fault Refusal :=
  match functionPart s.root.mode port fn with
  | none => .next s
  | some part =>
    if !portAnswers s port then .next s
    else
      match op with
      | .read addr len => .next (if hostRefused s port fn addr len then refuseRead s port part addr len else hostReply s port addr len)
      | .write addr data =>
        if hostRefused s port fn addr data.length then .next (recordRefusal s part addr)
        else .next (hostStore s part addr data.length (fun s => { s with mem := s.mem.write addr data }))
      | .atomic addr len add x =>
        if hostRefused s port fn addr len then .next (refuseRead s port part addr len)
        else .next (hostStore s part addr len (fun s =>
          { hostReply s port addr len with mem := s.mem.writeNat addr len (hostAtomicNew add len (s.mem.readNat addr len) x) }))
      | .ownRead addr len => .next (ownAccess s part port addr len false id)
      | .ownWrite addr data => .next (ownAccess s part port addr data.length true (fun s =>
          { s with hostMem := s.hostMem.write (hostKey port addr) data }))
      | .ownAtomic addr len add x =>
        let k := hostKey port addr
        let write (s : State) : State := { s with hostMem := s.hostMem.writeNat k len (hostAtomicNew add len (s.hostMem.readNat k len) x) }
        .next (ownAccess s part port addr len true (fun s =>
          if hostCacheable s part (.host port addr) then write s else crossAtomics s port addr len write))

/-! ## Address translation -/

def atsReq? (s : State) (port ctx page : Nat) (pri : Bool) : Option AtsReq :=
  (s.port port).reqs.find? (fun r => r.ctx == ctx && r.page == page && r.pageRequest == pri && !r.refused)

def updReq' (s : State) (port ctx page : Nat) (f : AtsReq → AtsReq) : State :=
  s.updPort port (fun p => { p with reqs := p.reqs.map (fun r => if r.ctx = ctx ∧ r.page = page then f r else r) })

def dropAts (s : State) (port ctx page : Nat) : State :=
  s.updPort port (fun p => { p with reqs := p.reqs.filter (fun r => !(r.ctx == ctx && r.page == page)) })

/-- The entry's range shares a page with `n` pages from `page`. -/
def AtcEntry.meets (x : AtcEntry) (page n : Nat) : Bool :=
  let lo := x.page / 2 ^ x.bits * 2 ^ x.bits
  decide (lo < page + n) && decide (page < lo + 2 ^ x.bits)

/-- A translation enters the cache of 4096 entries, its range whole (R389). -/
def cacheEntry (s : State) (port : Nat) (e : AtcEntry) : State :=
  s.updPort port (fun p =>
    { p with atc := (e :: p.atc.filter (fun x => !(x.pasid == e.pasid && x.meets e.page (2 ^ e.bits)))).take 4096 })

/-- One Page Request, of at most 512 outstanding (R389, R390). -/
def askPage (s : State) (port ctx page : Nat) : State :=
  if 512 ≤ ((s.port port).reqs.filter (·.pageRequest)).length then s
  else updReq' s port ctx page (fun r => { r with pageRequest := true, since := s.gtb })

/-- R390. A request names its context together with the partition. -/
def execAtsTranslationCompletion (port ctx page : Nat) (res : AtsResult) (s : State) : Host.Outcome State Fault Refusal :=
  match atsReq? s port ctx page false with
  | none => .next s
  | some r =>
    if !(s.port port).up then .next s
    else
      match res with
      | .granted frame bits w =>
        if w || !r.write then
          let b := SMap.get 0#32 (s.part (ctx / 1024)).pasid (ctx % 1024)
          let s1 := dropAts s port ctx page
          .next (if b.getLsbD 31 then
            cacheEntry s1 port
              { pasid := b.toNat % 2 ^ 20, page := page / 2 ^ bits * 2 ^ bits, frame := frame / 2 ^ bits * 2 ^ bits, writable := w, bits := bits }
          else s1)
        else .next (askPage s port ctx page)
      | .notPresent => .next (askPage s port ctx page)
      | .unsupported => .next (updReq' s port ctx page (fun r => { r with refused := true }))
      | .abort => .next (updReq' s port ctx page (fun r => { r with refused := true }))

/-- The trap-queue entry of a Page Request Group Response (R390). -/
def pageNotice (s : State) (r : AtsReq) (det : Nat) : State :=
  postEvent s r.core 2 (r.ctx % 1024) 0 0 0 0
    (({ code := Trap.loadFault, addr := r.page * 4096, det1 := det } : TrapInfo).at_ 0)

/-- An access that waits for the request is still to fault with cause 6, which the completion has raised: its wave is resident and not
parked (R390). -/
def waiterDue (s : State) (r : AtsReq) : Bool :=
  r.waiters.any (fun x => (s.wave? x.1).any (fun w => w.sched != .trapped && !w.finished))

def execPageRequestGroupResponse (port ctx page : Nat) (ok : Bool) (s : State) : Host.Outcome State Fault Refusal :=
  match atsReq? s port ctx page true with
  | none => .next s
  | some r => .next (if waiterDue s r then s else pageNotice (dropAts s port ctx page) r (if ok then 6 else 1))

/-- R390: 100 ms without a response; a request that a port whose link is down cannot send is a Response Failure (R399). -/
def execPageResponseTimeout (port ctx page : Nat) (s : State) : Host.Outcome State Fault Refusal :=
  match (s.port port).reqs.find? (fun r => r.ctx == ctx && r.page == page && !r.refused) with
  | none => .next s
  | some r =>
    if (r.pageRequest && decide (r.since + 100000000 ≤ s.gtb) && !waiterDue s r) || (!r.pageRequest && !(s.port port).up) then
      .next (pageNotice (dropAts s port ctx page) r 1)
    else .next s

/-- An in-flight element whose place a translation gave. -/
def usesEntry (port : Nat) (l : List AtcEntry) (t : Target) : Bool :=
  match t with
  | .host p a => p == port && l.any (fun e => e.frame / 2 ^ e.bits == a / 4096 / 2 ^ e.bits)
  | _ => false

/-- A place in the host memory of a port. -/
def Target.onPort (t : Target) (port : Nat) : Bool := match t with | .host p _ => p == port | _ => false

/-- R391: the matching translations go at once. Their users are remembered: accesses of the range under way, whether or not the entry that
served them is still cached, and those that another page of a dropped entry serves. -/
def execAtsInvalidateRequest (port pasid page pages : Nat) (s : State) : Host.Outcome State Fault Refusal :=
  let p := s.port port
  let gone := p.atc.filter (fun e => e.pasid == pasid && e.meets page pages)
  if !p.up || decide (32 ≤ p.invals.length) then .next s
  else
    let uses (core ctx va : Nat) (t : Target) : Bool :=
      usesEntry port gone t
        || (t.onPort port && pasidOf s core ctx == some pasid && decide (page ≤ va / 4096) && decide (va / 4096 < page + pages))
    let loads := (s.loads.map (fun o =>
      (o.elems.zipIdx.filter (fun (x : LElem × Nat) => !x.1.done && uses o.w.core o.ctx x.1.va x.1.target)).map (fun x => (o.id, x.2)))).flatten
    let stores := (s.mops.map (fun o =>
      (o.elems.zipIdx.filter (fun (x : MElem × Nat) =>
        x.1.phase.unapplied && (x.1.target.map (uses o.w.core o.ctx x.1.va)).getD false)).map (fun x => (o.id, x.2)))).flatten
    .next (s.updPort port (fun p =>
      { p with atc := p.atc.filter (fun e => !gone.contains e), invals := p.invals ++ [{ loads := loads, stores := stores }] }))

/-- Every access that used the old translations has performed. -/
def invalOver (s : State) (v : Inval) : Bool :=
  v.loads.all (fun (x : Nat × Nat) => s.loads.all (fun o => o.id != x.1 || (o.elems[x.2]?).all (fun e => e.done)))
  && v.stores.all (fun (x : Nat × Nat) => s.mops.all (fun o => o.id != x.1 || (o.elems[x.2]?).all (fun e => !e.phase.unapplied)))

def execInvalidateCompletion (port : Nat) (s : State) : Host.Outcome State Fault Refusal :=
  match (s.port port).invals.find? (invalOver s) with
  | none => .next s
  | some v => .next (s.updPort port (fun p => { p with invals := p.invals.erase v }))

/-! ## Links -/

/-- R399. -/
def execHostPortLinkDown (port : Nat) (s : State) : Host.Outcome State Fault Refusal :=
  .next (s.updPort port (fun p => { p with up := false, cxlCache := false, cxlMem := false, width := 0 }))

/-- R396, R398; port 1 trains in bring-up state 3 (R418). -/
def execHostPortLinkUp (port : Nat) (cxlCache cxlMem : Bool) (width : BitVec 5) (s : State) : Host.Outcome State Fault Refusal :=
  if port = 1 ∧ (s.root.boot < 3 ∨ s.root.boot = 15) then .next s
  else .next (s.updPort port (fun p => { p with up := true, cxlCache := cxlCache, cxlMem := cxlMem, width := width }))

end Sys2Proof.Machine
end

