-- ==== Sys2Proof/Machine/Fabric.lean ====
section
/-! DEFINITION. The Glaox fabric (14 R405-R412): links, flits and their protection, replay, detours, connections, time, and link
keys. How a data flit's payload lays out what it carries is not stated by the spec: `Config` reads and writes it (log 82). -/

namespace Sys2Proof.Machine

def State.link (s : State) (p : Nat) : Link := s.fabric.links.getD p Link.reset

def State.updLink (s : State) (p : Nat) (f : Link → Link) : State :=
  { s with fabric := { s.fabric with links := s.fabric.links.modify p f } }

/-- The rank at the far end of a port (R405). -/
def peerOf (s : State) (p : Nat) : Nat := (s.fabric.rank + p + 1) % 16

/-- The peer is a member of the clique. -/
def portWired (s : State) (p : Nat) : Bool := decide (p < 15) && decide (peerOf s p < s.fabric.clique)

/-! ## Flits -/

/-- The 128 header bits (R406). -/
def headerBits (rsvA : BitVec 48) (lseq : BitVec 16) (ty dst src : BitVec 4) (rsvB : BitVec 3) (ks : Bool) (ic : BitVec 48) :
    BitVec 128 :=
  rsvA ++ lseq ++ ty ++ dst ++ src ++ rsvB ++ (BitVec.ofBool ks) ++ ic

def Link.tx (l : Link) (slot : Bool) : KeySlot := if slot then l.tx1 else l.tx0

def Link.rx (l : Link) (slot : Bool) : KeySlot := if slot then l.rx1 else l.rx0

def Link.setTx (l : Link) (slot : Bool) (k : KeySlot) : Link := if slot then { l with tx1 := k } else { l with tx0 := k }

def Link.setRx (l : Link) (slot : Bool) (k : KeySlot) : Link := if slot then { l with rx1 := k } else { l with rx0 := k }

/-- The GCM nonce (R406). -/
def nonceOf (k : KeySlot) (ic : BitVec 48) : BitVec 96 := k.salt ++ ic

/-- A flit of 224 payload bytes, sealed in the active slot (R406); a relay leaves the source as it is (R408). -/
def sealFrom (l : Link) (src ty dst : BitVec 4) (payload : List Byte) : Flit :=
  let k := l.tx l.txSlot
  let ic := BitVec.ofNat 48 k.ic
  let plain := (payload ++ List.replicate 224 0).take 224
  let h := headerBits 0 l.txSeq ty dst src 0 l.txSlot ic
  let body := Config.gcmEncrypt k.key (nonceOf k ic) h plain
  { tag := Config.gcmTag k.key (nonceOf k ic) h body, payload := body, rsvA := 0, lseq := l.txSeq, ty := ty, dst := dst,
    src := src, rsvB := 0, ks := l.txSlot, ic := ic }

def ownRank (s : State) : BitVec 4 := BitVec.ofNat 4 s.fabric.rank

def sealFlit (s : State) (l : Link) (ty dst : BitVec 4) (payload : List Byte) : Flit := sealFrom l (ownRank s) ty dst payload

/-- The IC that a key marker takes (R411). -/
def markerIc : Nat := 2 ^ 48 - 2 ^ 16

/-- Detours of the links that are down: the lowest rank whose own link is up and which reaches the peer. Whether it does is
known to the peers alone, so it is a free choice (R408, log 42). -/
def pickRelay (s : State) (p : Nat) : List Nat → Option Nat × State
  | [] => (none, s)
  | r :: rest =>
    if (s.link (portTo s r)).up && r != peerOf s p then
      let b := s.freeBool
      if b.1 then (some r, b.2) else pickRelay b.2 p rest
    else pickRelay s p rest

def reroute (s : State) : State :=
  (List.range 15).foldl (fun s p =>
    if !portWired s p || (s.link p).up then s.updLink p (fun l => { l with detour := false, relay := 0 })
    else
      let r := pickRelay s p ((List.range s.fabric.clique).filter (· != s.fabric.rank))
      match r.1 with
      | some n => r.2.updLink p (fun l => { l with detour := true, relay := BitVec.ofNat 4 n })
      | none => r.2.updLink p (fun l => { l with detour := false, relay := 0 })) s

/-- The unacknowledged flits of a port are to be resent over the new path (R409). -/
def unsend (p : Nat) (c : Conn) : Conn :=
  { c with window := c.window.map (fun u => if u.sent.any (fun x => x.1 == p) then { u with sent := none } else u) }

/-- A link goes down: traffic to its peer takes a detour, or the peer is unreachable (R408). -/
def dropLink (s : State) (p : Nat) : State :=
  let s1 := reroute (s.updLink p (fun l => { l with up := false, fails := 0, discarding := false }))
  { s1 with fabric := { s1.fabric with conns := s1.fabric.conns.map (unsend p) } }

/-- One flit leaves: the IC advances, the notice of R411 is given, a data or marker flit is kept for replay. At the last IC
nothing further is sent and the link goes down. -/
def sendFrom (s : State) (p : Nat) (src ty dst : BitVec 4) (payload : List Byte) : State :=
  let l := s.link p
  let k := l.tx l.txSlot
  let f := sealFrom l src ty dst payload
  let kept := ty == 1 || ty == 2
  let s1 := s.updLink p (fun l =>
    { l.setTx l.txSlot { k with ic := k.ic + 1 } with
      wire := l.wire ++ [f]
      replay := if kept then l.replay ++ [f] else l.replay
      txSeq := if kept then l.txSeq + 1 else l.txSeq
      keyNotice := l.keyNotice || decide (2 ^ 47 ≤ k.ic)
      exhausted := l.exhausted || decide (2 ^ 48 ≤ k.ic + 1) })
  if 2 ^ 48 ≤ k.ic + 1 then dropLink s1 p else s1

def sendRaw (s : State) (p : Nat) (ty dst : BitVec 4) (payload : List Byte) : State := sendFrom s p (ownRank s) ty dst payload

/-- The link can send a flit of this kind now. -/
def canSend (s : State) (p : Nat) (kept : Bool) : Bool :=
  let l := s.link p
  decide (p < 15) && l.up && (l.tx l.txSlot).valid && !l.exhausted && (!kept || decide (l.replay.length < 512))

/-- The marker is due, its key is there, and the replay buffer has no room for it: nothing leaves in the old slot meanwhile (R411). -/
def markerHeld (s : State) (p : Nat) : Bool :=
  let l := s.link p
  (l.tx l.txSlot).ic == markerIc && (l.tx (!l.txSlot)).valid && decide (512 ≤ l.replay.length)

/-- R411: the marker in the old slot at its IC, then the new slot from IC 0. Without a valid key at that IC there is no marker, and the old
slot goes on to its last IC. -/
def sendMarker (s : State) (p : Nat) : State :=
  let l := s.link p
  let new_ := !l.txSlot
  if !canSend s p true || (l.tx l.txSlot).ic != markerIc || !(l.tx new_).valid then s
  else
    (sendRaw s p 2 (BitVec.ofNat 4 (peerOf s p)) [if new_ then 1 else 0]).updLink p (fun l =>
      let old := l.txSlot
      { (l.setTx old { l.tx old with valid := false }).setTx new_ { l.tx new_ with ic := 0 } with txSlot := new_, keyNotice := false })

/-- A flit that is not kept leaves for a rank, once a marker that is due has (R411). -/
def sendLoose (s : State) (p : Nat) (src ty dst : BitVec 4) (payload : List Byte) : State :=
  let s1 := sendMarker s p
  if canSend s1 p false && !markerHeld s1 p then sendMarker (sendFrom s1 p src ty dst payload) p else s

def sendControl (s : State) (p : Nat) (ty : BitVec 4) (payload : List Byte) : State :=
  sendLoose s p (ownRank s) ty (BitVec.ofNat 4 (peerOf s p)) payload

/-- The payload of an acknowledgement, which names a link sequence number (log 43). -/
def seqBytes (n : BitVec 16) : List Byte := [n.extractLsb' 0 8, n.extractLsb' 8 8]

def seqOf (l : List Byte) : BitVec 16 := l.getD 1 0 ++ l.getD 0 0

/-! ## Connections -/

def Conn.is (c : Conn) (ctx : Nat) (peer : BitVec 4) (cls : BitVec 2) : Bool := c.ctx == ctx && c.peer == peer && c.cls == cls

/-- A connection's state, which begins with sequence number 0 in each direction (log 82). -/
def State.conn (s : State) (ctx : Nat) (peer : BitVec 4) (cls : BitVec 2) : Conn :=
  (s.fabric.conns.find? (fun c => c.is ctx peer cls)).getD
    { ctx := ctx, peer := peer, cls := cls, txSeq := 0, rxSeq := 0, window := [], early := [], delivered := [] }

/-- A use brings a connection back into port SRAM (R409). -/
def State.setConn (s : State) (c : Conn) : State :=
  { s with fabric := { s.fabric with conns := c :: s.fabric.conns.filter (fun x => !x.is c.ctx c.peer c.cls) } }

/-- The port over which a rank is reached: its own link, or that of the relay (R408). -/
def routePort (s : State) (dst : BitVec 4) : Option Nat :=
  let p := portTo s dst.toNat
  let l := s.link p
  if dst == ownRank s then none
  else if l.up then some p
  else if l.detour then some (portTo s l.relay.toNat)
  else none

/-- What waits to leave over a port: a relayed flit, else a flit of a connection that is to be resent. -/
inductive Waiting where
  | relayed (x : Transit)
  | again (c : Conn) (u : Unacked)
  deriving DecidableEq, Repr

def waitingAt (s : State) (port : Nat) : Option Waiting :=
  match s.fabric.transit.find? (fun x => routePort s x.dst == some port) with
  | some x => some (.relayed x)
  | none => s.fabric.conns.findSome? (fun c =>
      if routePort s c.peer == some port then (c.window.find? (fun u => u.sent.isNone)).map (Waiting.again c) else none)

/-- The flit of the window with this number leaves over the port as LSEQ `n`. -/
def Conn.resent (c : Conn) (seq : BitVec 32) (port : Nat) (n : BitVec 16) : Conn :=
  { c with window := c.window.map (fun u => if u.seq == seq then { u with sent := some (port, n) } else u) }

def sendWaiting (s : State) (port : Nat) : Waiting → State
  | .relayed x => sendFrom { s with fabric := { s.fabric with transit := s.fabric.transit.erase x } } port x.src x.ty x.dst x.payload
  | .again c u => sendRaw (s.setConn (c.resent u.seq port (s.link port).txSeq)) port 1 c.peer u.payload

/-- The connection has its place in port SRAM or in the spill area, or finds one there (R409). -/
def connRoom (s : State) (ctx : Nat) (peer : BitVec 4) (cls : BitVec 2) : Bool :=
  s.fabric.conns.any (fun c => c.is ctx peer cls) || decide (s.fabric.conns.length < 1024 + s.fabric.spill)

/-- A new flit of a connection may leave: the connection has a place, its window has room, and its traffic class is not held (R409,
R356). -/
def classMay (s : State) (dst : BitVec 4) (ctx : Nat) (cls : BitVec 2) : Bool :=
  connRoom s ctx dst cls && decide ((s.conn ctx dst cls).window.length < 256) && !s.actHeld 2 cls.toNat 0

/-- A new flit of a connection leaves, and is outstanding until it is acknowledged (R409). -/
def sendData (s : State) (port : Nat) (dst : BitVec 4) (ctx : Nat) (cls : BitVec 2) (payload : List Byte) : State :=
  let c := s.conn ctx dst cls
  let body := Config.connFrame ctx cls c.txSeq payload
  let u : Unacked := { seq := c.txSeq, payload := body, sent := some (port, (s.link port).txSeq) }
  sendRaw ((s.setConn { c with txSeq := c.txSeq + 1, window := c.window ++ [u] }).chargeAct 2 cls.toNat 0 4) port 1 dst body

/-- A negative acknowledgement names the LSEQ that is expected (R407, log 43). -/
def sendNack (s : State) (p : Nat) : State := sendControl s p 4 (seqBytes (s.link p).rxSeq)

/-- A kept flit may leave: replay has room for it, and, as the marker comes near, for the marker too (R407, R411). -/
def dataMay (s : State) (p : Nat) : Bool :=
  let l := s.link p
  canSend s p true && (decide ((l.tx l.txSlot).ic + 1 < markerIc) || decide (l.replay.length < 511))

/-- R406, R407, R411. A flit that waits to be relayed or resent leaves before the one that is asked for (R408, R409). An acknowledgement
names the flit received last in order. Markers and time flits have events of their own. -/
def execFlitTransmit (port : Nat) (ty dst : BitVec 4) (ctx : Nat) (cls : BitVec 2) (payload : List Byte) (s : State) :
    Host.Outcome State Fault Refusal :=
  match ty.toNat with
  | 0 => .next (sendControl s port 0 payload)
  | 1 =>
    let s1 := sendMarker s port
    if !dataMay s1 port then .next s
    else
      match waitingAt s1 port with
      | some x => .next (sendMarker (sendWaiting s1 port x) port)
      | none => if classMay s1 dst ctx cls then .next (sendMarker (sendData s1 port dst ctx cls payload) port) else .next s
  | 3 => .next (sendControl s port 3 (seqBytes ((s.link port).rxSeq - 1)))
  | 4 => .next (sendNack s port)
  | _ => .next s

/-! ## The waves' own traffic -/

/-- What goes to a peer and has no flit yet: an element of a store or other operation, a load's element, a shipped request, a sector
that a unit reads, contents that wait. -/
inductive Traffic where
  | elem (id i ctx rank : Nat) (payload : List Byte)
  | load (id i ctx rank : Nat) (payload : List Byte)
  | ship (id lane ctx rank : Nat) (payload : List Byte)
  | fetch (f : Fetch) (payload : List Byte)
  | post (x : Post)
  deriving DecidableEq, Repr

/-- The contents that carry an element of an operation to a peer. -/
def elemMessage (secure : Bool) (k : MKind) (pa : Nat) (e : MElem) : List Byte :=
  let up (op : PeerOp) : List Byte := Config.connUpdate secure op pa e.size e.data e.cmp
  match k with
  | .store => Config.connStore secure pa (natToBytes e.size e.data)
  | .atomic op ty _ => up (.atomic op ty)
  | .cas => up .cas
  | .push _ => up .push
  | .barrier op => up (.barrier op)

/-- In the order of the operations, lanes ascending (R212, R255). An element leaves when it may arrive, a load when it may perform and no
leased copy serves it, for the sector of its bytes; it keeps a copy where a lease could be used (R211). -/
def ownTraffic (s : State) : List Traffic :=
  s.mops.flatMap (fun o => o.elems.zipIdx.filterMap (fun p =>
    match p.1.phase, p.1.target, p.1.flit with
    | .sent, some (.peer r pa), none =>
      if arriveMay s o p.2 p.1 (.peer r pa) then some (.elem o.id p.2 o.ctx r (elemMessage (s.secureCore o.w.core) o.kind pa p.1)) else none
    | _, _, _ => none))
  ++ s.loads.flatMap (fun o => o.elems.zipIdx.filterMap (fun p =>
    match p.1.target, p.1.flit with
    | .peer r pa, none =>
      if loadMay s o p.1 ∧ !answerMay s o p.1 then
        some (.load o.id p.2 o.ctx r (Config.connLoad (s.secureCore o.w.core) (mayLease s o p.1) (pa / 32 * 32) 32 p.1.lease))
      else none
    | _, _ => none))
  ++ s.ships.flatMap (fun o => o.reqs.filterMap (fun r =>
    if r.rank ≠ s.fabric.rank ∧ !r.arrived ∧ r.flit.isNone then
      some (.ship o.id r.lane o.ctx r.rank (Config.connShip (s.secureCore o.w.core) r.home o.entry r.lock (senderOf s o r) r.args))
    else none))
  ++ (s.fabric.fetches.filter (fun f => f.flit.isNone)).map (fun f =>
    .fetch f (Config.connLoad (s.secureCore f.core) false (32 * f.sector) 32 7))
  ++ s.fabric.posts.map .post

/-- It leaves on its connection if it may; it then has the number of its flit. -/
def sendTraffic (s : State) (x : Traffic) : State :=
  let go (ctx rank : Nat) (payload : List Byte) (mark : BitVec 32 → State → State) : State :=
    let dst := BitVec.ofNat 4 rank
    match routePort s dst with
    | none => s
    | some port =>
      let s1 := sendMarker s port
      if dataMay s1 port && classMay s1 dst ctx Config.connClass then
        mark (s1.conn ctx dst Config.connClass).txSeq (sendMarker (sendData s1 port dst ctx Config.connClass payload) port)
      else s
  match x with
  | .elem id i ctx rank payload =>
    go ctx rank payload (fun n s => s.updElem id i (fun e => { e with flit := some n }))
  | .load id i ctx rank payload =>
    go ctx rank payload (fun n s => { s with loads := s.loads.map (fun o =>
      if o.id = id then { o with elems := o.elems.modify i (fun e => { e with flit := some n }) } else o) })
  | .ship id lane ctx rank payload => go ctx rank payload (fun n s => s.updReq id lane (fun r => { r with flit := some n }))
  | .fetch f payload =>
    go f.ctx f.rank payload (fun n s => { s with fabric := { s.fabric with
      fetches := s.fabric.fetches.map (fun g => if g = f then { g with flit := some n } else g) } })
  | .post x => go x.ctx x.rank x.payload (fun _ s => { s with fabric := { s.fabric with posts := s.fabric.posts.erase x } })

/-- What waits at a port to be relayed or resent leaves, up to `n` flits. -/
def sendAllWaiting (port : Nat) : Nat → State → State
  | 0, s => s
  | n + 1, s =>
    let s1 := sendMarker s port
    match waitingAt s1 port with
    | some x => if dataMay s1 port then sendAllWaiting port n (sendMarker (sendWaiting s1 port x) port) else s
    | none => s

/-- After a step: what waits leaves first, then the waves' new traffic (R408, R409). -/
def pump (s : State) : State :=
  let n := s.fabric.transit.length + (s.fabric.conns.map (fun c => (c.window.filter (fun u => u.sent.isNone)).length)).sum
  let s1 := if n = 0 then s else (List.range 15).foldl (fun s p => sendAllWaiting p n s) s
  (ownTraffic s1).foldl sendTraffic s1

/-! ## Receiving -/

/-- Reserved values zero, a valid slot that is in use, and the tag right (R406, R411). -/
def authentic (l : Link) (f : Flit) : Bool :=
  let k := l.rx f.ks
  f.rsvA == 0 && f.rsvB == 0 && decide (f.ty.toNat ≤ 5) && f.ks == l.rxSlot && k.valid
    && Config.gcmTag k.key (nonceOf k f.ic) (headerBits f.rsvA f.lseq f.ty f.dst f.src f.rsvB f.ks f.ic) f.payload == f.tag

/-- The flit with its payload in the clear. -/
def openFlit (l : Link) (f : Flit) : Flit :=
  let k := l.rx f.ks
  { f with payload := Config.gcmDecrypt k.key (nonceOf k f.ic) (headerBits f.rsvA f.lseq f.ty f.dst f.src f.rsvB f.ks f.ic) f.payload }

/-- A link that goes down by itself is an error to be recorded (R395). -/
def linkError (s : State) (p : Nat) : State :=
  s.oweRecord
    { kind := 5, die := 0x10, unit := 6, index := p, bank := 0, paddr := 0, synd := 0, ctx := 0xFFFFFFFF, count := 1, egtb := s.gtb } none

/-- An authentication failure or a gap (R407): a third failure in a row takes the link down. -/
def refuseFlit (s : State) (p : Nat) (failed : Bool) : State :=
  let s1 := s.updLink p (fun l =>
    { l with
      discarding := true, fails := if failed then l.fails + 1 else l.fails
      failTotal := if failed && l.failTotal != 0xFFFF#16 then l.failTotal + 1 else l.failTotal })
  if failed && (s1.link p).fails == 3#2 then linkError (dropLink s1 p) p else sendNack s1 p

/-- What receiving a flit in LSEQ order comes to; `accept` says what the flit then does. -/
def receiveFlit (s : State) (p : Nat) (f : Flit) (accept : Flit → Link → Link) : State :=
  let l := s.link p
  if !l.up ∨ 15 ≤ p then s
  else if l.discarding && f.lseq != l.rxSeq then s
  else if !authentic l f then refuseFlit s p true
  else if f.lseq = l.rxSeq then
    s.updLink p (fun l => accept (openFlit l f) { l with rxSeq := l.rxSeq + 1, fails := 0, discarding := false })
  else if (l.rxSeq - f.lseq).toNat < 2 ^ 15 then s
  else refuseFlit s p false

/-- What has arrived ahead and is now in sequence is delivered (R409). -/
def Conn.catchUp (c : Conn) : Nat → Conn
  | 0 => c
  | n + 1 =>
    match c.early.find? (fun x => x.1 == c.rxSeq) with
    | none => c
    | some x =>
      { c with rxSeq := c.rxSeq + 1, early := c.early.erase x, delivered := c.delivered ++ [x.2] }.catchUp n

/-- A connection's flit arrives: in sequence it is delivered, ahead of it it is kept, behind it it has been delivered before (R409). -/
def Conn.arrive (c : Conn) (seq : BitVec 32) (body : List Byte) : Conn :=
  if seq = c.rxSeq then
    { c with rxSeq := c.rxSeq + 1, delivered := c.delivered ++ [body] }.catchUp c.early.length
  else if (seq - c.rxSeq).toNat < 256 ∧ !c.early.any (fun x => x.1 == seq) then { c with early := c.early ++ [(seq, body)] }
  else c

/-- The key under which a peer's stores stand among the operations. -/
def peerWave (rank : Nat) : WaveKey := ⟨513, rank, 0⟩

/-- Contents that wait to leave for a peer (R409). -/
def State.post (s : State) (ctx rank : Nat) (payload : List Byte) : State :=
  { s with fabric := { s.fabric with posts := s.fabric.posts ++ [{ ctx := ctx, rank := rank, payload := payload }] } }

/-- The home grants a peer's load a lease: of a copy that the peer keeps, under the code that it sends, while no store to the line is
pending and the time base is known (R202, R208, R211, R213). -/
def peerLease (s : State) (keep : Bool) (pa code : Nat) : Bool :=
  keep && decide (code < 7) && s.fabricLive && !linePending s (.dev pa)

/-- A peer's load of bytes of a line of this device is answered; its lease stands in E_fab (R202, R210). Poisoned bytes are free (R392). -/
def peerLoad (s : State) (ctx rank : Nat) (seq : BitVec 32) (keep : Bool) (pa n code : Nat) : State :=
  let k := pa / 128
  let s1 : State :=
    if peerLease s keep pa code then { s with eFab := SMap.set 0 s.eFab k (max (SMap.get 0 s.eFab k) (s.gtb + 64 * 2 ^ code)) } else s
  if s1.poisonedIn (.dev pa) n then s1.freeBytes n |>.2.post ctx rank (Config.connAnswer seq (s1.freeBytes n).1)
  else s1.post ctx rank (Config.connAnswer seq (s1.mem.read pa n))

/-- The operation that a message names; a push is to the queue at the address. -/
def peerKind (op : PeerOp) (ctx pa : Nat) : MKind :=
  match op with
  | .atomic op ty => .atomic op ty true
  | .cas => .cas
  | .push => .push (.ring ctx none pa)
  | .barrier op => .barrier op

/-- A peer's store or other operation comes to its line, within which it lies, behind its rank's earlier ones; it arrives there when a
SHARED region has moved (R212, R403). -/
def peerUpdate (s : State) (ctx rank : Nat) (seq : BitVec 32) (kind : MKind) (pa n data cmp : Nat) : State :=
  let t : Target := .dev pa
  let e : MElem :=
    { lane := 0, va := pa, size := n, data := data, cmp := cmp, old := 0, target := some t, lease := 0, dst := 0,
      phase := .sent, flit := some seq, removal := .notNeeded }
  let f := s.fresh
  let o : MOp :=
    { id := f.1, w := peerWave rank, gid := 0, team := 0, ctx := ctx, seq := f.1, iss := 0, pc := 0, scope := 5, order := 0, space := 0,
      kind := kind, checked := true, keys := [], port := none, whole := 0, byElem := true, gtb := s.gtb, cyc := s.cyc, table := none,
      elems := [e] }
  let s1 := { f.2 with mops := f.2.mops ++ [o] }
  if !arriveMay s1 o 0 e t then s1
  else
    match sharedAny s1 t with
    | some (p, n) => autoContest s1 p n
    | none => arriveAll s1 o t [0]

/-- A peer's access, by the world of its source block, does not reach a secure region (R416). -/
def peerRefused (s : State) (secure : Bool) (pa : Nat) : Bool := !secure && (secureRegion s.root.srgn pa).isSome

/-- A peer's shipped request comes to its home here; one whose entry lies in no shipped section of the context ends with SHIP_TARGET
(R253, R255, R260). -/
def peerShip (s : State) (ctx rank : Nat) (seq : BitVec 32) (home entry lock sender : Nat) (args : List Word) : State :=
  match sectionAt s ctx entry with
  | none => s.post ctx rank (Config.connEnded seq (0x100 + Trap.shipTarget.toNat) [])
  | some kern =>
    let r : ShipReq :=
      { lane := field sender 14 8, home := home % 48, rank := s.fabric.rank, lock := lock, args := args, token := 0, slotAddr := 0,
        flit := some seq, arrived := false, result := none, written := false }
    let f := s.fresh
    { f.2 with ships := f.2.ships ++
        [{ id := f.1, w := peerWave rank, ctx := ctx, gid := 0, team := 0, seq := f.1, pc := 0, fab := true, port := none, tokens := none,
           nres := 4, dst := 0, entry := entry, kernel := kern, sender := some (sender % 2 ^ 26), reqs := [r] }] }

/-- The answer to the flit of a number reaches the load, the atomic or the unit's read that it carried. -/
def takeAnswer (s : State) (ctx rank : Nat) (seq : BitVec 32) (data : List Byte) : State :=
  let far (t : Target) : Bool := match t with | .peer r _ => r == rank | _ => false
  { s with
    loads := s.loads.map (fun o =>
      if o.ctx = ctx then
        { o with elems := o.elems.map (fun e => if far e.target ∧ e.flit = some seq then { e with reply := some data } else e) }
      else o)
    mops := s.mops.map (fun o =>
      if o.ctx = ctx ∧ o.kind.rmw then
        { o with elems := o.elems.map (fun e =>
            if e.target.any far ∧ e.flit = some seq then { e with reply := some (bytesToNat data) } else e) }
      else o)
    fabric := { s.fabric with fetches := s.fabric.fetches.map (fun f =>
      if f.ctx = ctx ∧ f.rank = rank ∧ f.flit = some seq then { f with reply := some data } else f) } }

/-- The result of a section on another device reaches its request (R258, R260). -/
def takeEnded (s : State) (ctx rank : Nat) (seq : BitVec 32) (status : Nat) (results : List Word) : State :=
  { s with ships := s.ships.map (fun o =>
      if o.ctx = ctx ∧ o.sender = none then
        { o with reqs := o.reqs.map (fun r =>
            if r.rank = rank ∧ r.flit = some seq ∧ r.result = none then { r with arrived := true, result := some (status, results) } else r) }
      else o) }

/-- What a peer asks of this device, or tells it, by the contents of the flit of a number that a connection delivers (R409, log 82). Its
access is secure when its block and the fabric port here are (R415, R416, log 127). Bytes of a secure region that a load may not
reach are answered as zero, and what would change them is discarded. -/
def peerAct (s : State) (port ctx rank : Nat) (seq : BitVec 32) (body : List Byte) : State :=
  let open_ (secure : Bool) (pa : Nat) : Bool := !peerRefused s (secure && s.root.sbio.getLsbD (8 + port)) pa
  match Config.connMessage body with
  | .load secure keep pa n code =>
    if pa % 128 + n ≤ 128 ∧ open_ secure pa then peerLoad s ctx rank seq keep pa n code
    else s.post ctx rank (Config.connAnswer seq (List.replicate n 0))
  | .store secure pa data =>
    if pa % 128 + data.length ≤ 128 ∧ open_ secure pa then peerUpdate s ctx rank seq .store pa data.length (bytesToNat data) 0 else s
  | .update secure op pa n data cmp =>
    if pa % 128 + n ≤ 128 ∧ open_ secure pa then peerUpdate s ctx rank seq (peerKind op ctx pa) pa n data cmp
    else s.post ctx rank (Config.connAnswer seq (List.replicate n 0))
  | .ship _ home entry lock sender args => peerShip s ctx rank seq home entry lock sender args
  | .answer n data => takeAnswer s ctx rank n data
  | .ended n status results => takeEnded s ctx rank n status results
  | .other => s

/-- A flit for another device waits to be forwarded (R408). -/
def relay (s : State) (f : Flit) : State :=
  { s with fabric := { s.fabric with transit := s.fabric.transit ++ [{ src := f.src, dst := f.dst, ty := f.ty, payload := f.payload }] } }

/-- A data flit that a link delivers: for this device it goes to its connection, which delivers in sequence what has its effect here;
for another it is relayed (R408, R409). -/
def takeData (s : State) (port : Nat) (f : Flit) : State :=
  if f.dst == ownRank s then
    let x := Config.connParse f.payload
    let c := s.conn x.1 f.src x.2.1
    let d := c.arrive x.2.2.1 x.2.2.2
    (d.delivered.drop c.delivered.length).zipIdx.foldl
      (fun s p => peerAct s port x.1 f.src.toNat (c.rxSeq + BitVec.ofNat 32 p.2) p.1) (s.setConn d)
  else relay s f

/-- The device has no place for the connection of a flit that is for it: the flit is not taken (R409). -/
def connFull (s : State) (l : Link) (f : Flit) : Bool :=
  let x := Config.connParse (openFlit l f).payload
  f.dst == ownRank s && !connRoom s x.1 f.src x.2.1

/-- A flit that is not numbered among the kept ones, an acknowledgement or a time flit, is judged like any other: behind a gap it is
discarded, and one that is accepted resets the count of failures and acts (R406, R407). -/
def receiveControl (s : State) (p : Nat) (f : Flit) (act : Flit → State → State) : State :=
  let l := s.link p
  if !l.up ∨ 15 ≤ p then s
  else if l.discarding && f.lseq != l.rxSeq then s
  else if authentic l f then act (openFlit l f) (s.updLink p (fun l => { l with fails := 0 }))
  else refuseFlit s p true

/-- R407: delivered in order. A reserved type fails authentication, an idle flit carries nothing; the other types have events of their
own. -/
def execDataFlitReceive (port : Nat) (flit : Flit) (s : State) : Host.Outcome State Fault Refusal :=
  if flit.ty.toNat = 0 then .next (receiveControl s port flit (fun _ s => s))
  else if flit.ty.toNat = 1 ∨ 5 < flit.ty.toNat then
    let l := s.link port
    let inOrder := l.up && decide (port < 15) && authentic l flit && flit.lseq == l.rxSeq
    if inOrder && connFull s l flit then .next s
    else
      let s1 := receiveFlit s port flit (fun f l => { l with delivered := l.delivered ++ [f] })
      .next (if inOrder then takeData s1 port (openFlit l flit) else s1)
  else .next s

/-- R411: the marker ends the old slot. -/
def execKeyMarkerReceive (port : Nat) (flit : Flit) (s : State) : Host.Outcome State Fault Refusal :=
  if flit.ty.toNat = 2 then
    .next (receiveFlit s port flit (fun f l =>
      let old := l.rxSlot
      { l.setRx old { l.rx old with valid := false } with rxSlot := (f.payload.headD 0).getLsbD 0 }))
  else .next s

/-- Sequence number `a` is not after `b`. -/
def seqLe (a b : BitVec 16) : Bool := decide ((b - a).toNat < 2 ^ 15)

/-- A flit that left over the port with an LSEQ up to the named one is acknowledged. -/
def Conn.acked (c : Conn) (port : Nat) (lseq : BitVec 16) : Conn :=
  { c with window := c.window.filter (fun u => !u.sent.any (fun x => x.1 == port && seqLe x.2 lseq)) }

/-- The flits up to the named one leave the replay buffer and their connections' windows (log 43). -/
def acknowledged (s : State) (port : Nat) (lseq : BitVec 16) : State :=
  let s1 := s.updLink port (fun l => { l with replay := l.replay.filter (fun f => !seqLe f.lseq lseq) })
  sendMarker { s1 with fabric := { s1.fabric with conns := s1.fabric.conns.map (fun c => c.acked port lseq) } } port

/-- The flits from the named one on go out again, bit for bit. -/
def sentAgain (s : State) (port : Nat) (lseq : BitVec 16) : State :=
  s.updLink port (fun l => { l with wire := l.wire ++ l.replay.filter (fun f => seqLe lseq f.lseq) })

/-- R407, R409. -/
def execAcknowledgementReceive (port : Nat) (flit : Flit) (s : State) : Host.Outcome State Fault Refusal :=
  .next (if flit.ty = 3 then receiveControl s port flit (fun f s => acknowledged s port (seqOf f.payload)) else s)

/-- R407. -/
def execNegativeAckReceive (port : Nat) (flit : Flit) (s : State) : Host.Outcome State Fault Refusal :=
  .next (if flit.ty = 4 then receiveControl s port flit (fun f s => sentAgain s port (seqOf f.payload)) else s)

/-! ## Time -/

/-- R410: over the port's own link, or while that is down over the path of R408. -/
def execTimeFlitSend (port : Nat) (s : State) : Host.Outcome State Fault Refusal :=
  let dst := BitVec.ofNat 4 (peerOf s port)
  if canSend s port false then
    let b := s.freeBytes 224
    .next (sendControl b.2 port 5 b.1)
  else if portWired s port ∧ !(s.link port).up then
    match routePort s dst with
    | some p =>
      let b := s.freeBytes 224
      .next (sendLoose b.2 p (ownRank s) 5 dst b.1)
    | none => .next s
  else .next s

/-- The GTB slews by at most 1 ns, and never decreases: where it is ahead, cycles pass while it stands (R208). -/
def slew (s : State) (offset : Int) : State :=
  if 0 < offset then { s with gtbAdj := s.gtbAdj + 1 }
  else if offset < 0 then
    let s1 := s.advance 3
    { s1 with gtbAdj := s1.gtbAdj - 1 }
  else s

/-- The port over which the reference is heard: its own link, or that of the relay (R408). -/
def referencePort (s : State) : Nat :=
  let p := portTo s (referenceRank s)
  let l := s.link p
  if l.up then p else portTo s l.relay.toNat

/-- The offset to the reference is measured, and the GTB slews, once in a microsecond (R410). -/
def measured (s : State) (port : Nat) (offset : Int) : State :=
  let f := s.fabric
  if referenceRank s = f.rank ∨ port ≠ referencePort s then s
  else
    let good := offset.natAbs ≤ 16
    let kept := decide (f.offset.natAbs ≤ 16) && decide (s.gtb ≤ f.lastTime + 10000)
    let s1 := { s with fabric :=
      { f with
        offset := offset, lastTime := s.gtb, synced := f.synced && decide good
        goodSince := if good ∧ kept then f.goodSince else s.gtb } }
    if f.lastTime + 1000 ≤ s.gtb then slew s1 offset else s1

/-- R410: the reference's own time flits are measured, those for another device are forwarded (R408). -/
def execTimeFlitReceive (port : Nat) (flit : TimeFlit) (s : State) : Host.Outcome State Fault Refusal :=
  .next (if flit.flit.ty = 5 then
    receiveControl s port flit.flit (fun f s =>
      if f.dst != ownRank s then relay s f
      else if f.src.toNat = referenceRank s then measured s port flit.offset
      else s)
  else s)

def execTimeSyncLoss (s : State) : Host.Outcome State Fault Refusal :=
  if timeLost s then .next { s with fabric := { s.fabric with synced := false } } else .next s

def execTimeResync (s : State) : Host.Outcome State Fault Refusal :=
  if !timeLost s && (referenceRank s == s.fabric.rank || decide (s.fabric.goodSince + 10000 ≤ s.gtb)) then
    .next { s with fabric := { s.fabric with synced := true } }
  else .next s

/-! ## Links and keys -/

/-- R408. For a link that is down already, the event is news of the relay's other link: a relay is chosen anew. -/
def execLinkDown (port : Nat) (s : State) : Host.Outcome State Fault Refusal :=
  .next (if (s.link port).up then linkError (dropLink s port) port else if portWired s port then reroute s else s)

/-- Links come up in bring-up state 3 and after it (R418). -/
def linksTrain (s : State) : Bool := decide (3 ≤ s.root.boot) && s.root.boot != 15

/-- R405, R412: a wired port that is enabled and not forced down. -/
def execLinkUp (port : Nat) (s : State) : Host.Outcome State Fault Refusal :=
  let l := s.link port
  if linksTrain s && portWired s port && l.ctl.getLsbD 0 && !l.ctl.getLsbD 1 && !l.exhausted && !l.up then
    .next (reroute (s.updLink port (fun l => { l with up := true, fails := 0, discarding := false })))
  else .next s

/-- A slot's key, salt and valid mark; its counter starts at 0 (R411, R412). -/
def keyOf (value : BitVec 512) : KeySlot :=
  { key := value.extractLsb' 0 256, salt := value.extractLsb' 256 48, valid := value.getLsbD 511, ic := 0 }

/-- R411: a slot in use cannot be written. A marker whose IC is the next one is sent with the key that has come. -/
def writeTxKey (s : State) (port : Nat) (n : Bool) (value : BitVec 512) : State :=
  let l := s.link port
  if l.txSlot == n && (l.tx n).valid then s else sendMarker (s.updLink port (fun l => l.setTx n (keyOf value))) port

def writeRxKey (s : State) (port : Nat) (n : Bool) (value : BitVec 512) : State :=
  let l := s.link port
  if l.rxSlot == n && (l.rx n).valid then s else s.updLink port (fun l => l.setRx n (keyOf value))

def execTxkeyWrite (port slot : Nat) (value : BitVec 512) (s : State) : Host.Outcome State Fault Refusal :=
  .next (if slot < 2 ∧ port < 15 then writeTxKey s port (slot == 1) value else s)

def execRxkeyWrite (port slot : Nat) (value : BitVec 512) (s : State) : Host.Outcome State Fault Refusal :=
  .next (if slot < 2 ∧ port < 15 then writeRxKey s port (slot == 1) value else s)

/-- R412: ENABLE cleared or force down takes the link down. -/
def setLinkCtl (s : State) (port value : Nat) : State :=
  let s1 := s.updLink port (fun l => { l with ctl := BitVec.ofNat 32 (value % 4) })
  if (s1.link port).up && value % 4 != 1 then dropLink s1 port else s1

def execLnkctlWrite (port : Nat) (value : Word) (s : State) : Host.Outcome State Fault Refusal := .next (setLinkCtl s port value.toNat)

end Sys2Proof.Machine
end

