-- ==== Sys2Proof/Machine/Boot.lean ====
section
/-! DEFINITION. Reset and bring-up (14 R417, R418, 12 R421): the root core's verification of images, the bring-up states, the
default windows, attestation. -/

namespace Sys2Proof.Machine

/-- R418: state 0, every register at its reset value. What lies outside the device stays: the hosts' and peers' memories, the
moves to come, and the numbers of the free choices made so far. -/
def resetDevice (s : State) : State :=
  { State.reset with hostMem := s.hostMem, peerMem := s.peerMem, agenda := s.agenda, freeCtr := s.freeCtr }

def execDeviceReset (s : State) : Host.Outcome State Fault Refusal := .next (resetDevice s)

/-! ## Images -/

/-- R417: both signatures verify, and the security version is not below the fused minimum. -/
def imageGood (i : BootImage) : Bool :=
  Config.ecdsaValid i.body i.ecdsa && Config.lmsValid i.body i.lms && decide (Config.minVersion ≤ i.version)

def bytesOf384 (x : BitVec 384) : List Byte := natToBytes 48 x.toNat

/-- The measurement register takes in more bytes (R417). -/
def extend (s : State) (l : List Byte) : State :=
  { s with root := { s.root with measure := Config.sha384 (bytesOf384 s.root.measure ++ l) } }

def bootFail (s : State) (code : Nat) : State := { s with root := { s.root with boot := 15, failCode := code } }

/-- R417: an accepted image is measured; a refused one stops bring-up in state 15 with code 1. -/
def execImageVerify (image : BootImage) (s : State) : Host.Outcome State Fault Refusal :=
  if 6 ≤ s.root.boot then .next s
  else if imageGood image then
    let s1 := extend s image.body
    .next { s1 with root := { s1.root with verified := true } }
  else .next (bootFail s 1)

/-- R418: in state 15 the recovery mailbox takes a new signed image; the state stays until reset. -/
def execRecoveryImage (image : BootImage) (s : State) : Host.Outcome State Fault Refusal :=
  if s.root.boot = 15 && imageGood image then .next { s with root := { s.root with recovery := some image } } else .next s

/-! ## Bring-up -/

/-- The world and partition configuration, as measured (R417). -/
def worldBytes (s : State) (mode : Nat) : List Byte :=
  natToBytes 24 s.root.sbcore.toNat ++ natToBytes 8 s.root.sblat.toNat ++ natToBytes 4 s.root.sbio.toNat
    ++ ((List.range 64).map (fun n => natToBytes 16 (SMap.get 0#128 s.root.srgn n).toNat)).flatten ++ natToBytes 1 mode

/-- A memory window's value (R340). -/
def windowValue (base size dies tier : Nat) : BitVec 128 :=
  BitVec.ofNat 128 (base + size * 2 ^ 46 + tier * 2 ^ 64 + dies * 2 ^ 68)

/-- R421: `ddr` is the DDR-5 of each base die, in GiB; a die's window holds at most 1 TiB, so that the device has at most 4 TiB (R3). -/
def defaultWindows (dies ddr : List Nat) : SMap (BitVec 128) :=
  let mask := (dies.map (fun d => 2 ^ d)).sum
  let hbm := windowValue (192 * dies.headD 0) (192 * dies.length) mask 0
  (dies.zipIdx.foldl (fun (m : SMap (BitVec 128)) p =>
    SMap.set 0 m (1 + p.2) (windowValue (4096 + 1024 * p.1) (min 1024 (ddr.getD p.1 0)) (2 ^ p.1) 1)) (SMap.set 0 [] 0 hbm))

/-- The partitions of a mode. -/
def partCount (mode : Nat) : Nat := match mode with | 0 => 1 | 1 => 2 | _ => 4

/-- Every partition keeps a core pair with neither core failed (R418). -/
def pairsKept (s : State) (failed : List Nat) : Bool :=
  (List.range (partCount s.root.mode)).all (fun p =>
    (partPairs s p).any (fun k => !failed.contains (2 * k) && !failed.contains (2 * k + 1)))

def toBoot (s : State) (n : Nat) : State := { s with root := { s.root with boot := n } }

/-- The device's rank in its clique of 2 to 16 devices, or a device alone (R405, log 119). -/
def joinClique (f : Fabric) (x : FabricSetup) : Fabric :=
  if x.clique ≤ 16 ∧ x.rank < x.clique then { f with rank := x.rank, clique := x.clique } else f

/-- The links of the configuration are up, and the GTB is within bounds (R418, R208). -/
def linksReady (s : State) (x : FabricSetup) : Bool :=
  x.links.all (fun p => (s.link p).up) && x.hosts.all (fun p => (s.port p).up) && s.fabricLive

/-- A bring-up state's work has completed (R418, R421). -/
def bootNext (s : State) (mode : Nat) (ddr failed : List Nat) (fab : FabricSetup) : State :=
  match s.root.boot with
  | 0 => if s.root.verified then toBoot s 1 else s
  | 1 =>
    if 3 ≤ mode then s
    else
      let s1 := extend s (worldBytes s mode)
      toBoot { s1 with root := { s1.root with mode := mode } } 2
  | 2 =>
    toBoot { s with
      mem := [], poison := s.poison.filter (fun p => match p with | .memory _ => false | _ => true)
      fabric := joinClique s.fabric fab } 3
  | 3 =>
    if !linksReady s fab then s
    else toBoot ((List.range (partCount s.root.mode)).foldl (fun s p =>
      let w := defaultWindows (s.diesOf p) ddr
      s.updPart p (fun x => { x with mwin := w, mwinReg := w })) s) 4
  | 4 => toBoot { s with cores := s.cores.map (fun x => { x with diag := true }) } 5
  | 5 =>
    if pairsKept s failed then
      toBoot { s with
        cores := s.cores.zipIdx.map (fun p => { p.1 with diag := false, oos := p.1.oos || failed.contains p.2 })
        fabric := { s.fabric with spill := fab.spill } } 6
    else bootFail s 4
  | _ => s

/-- R418: a failure code is one of 1 to 5. -/
def execBootStateAdvance (outcome : BootOutcome) (s : State) : Host.Outcome State Fault Refusal :=
  match outcome with
  | .ok mode ddr failed fab => .next (bootNext s mode ddr failed fab)
  | .fail code => if s.root.boot < 6 ∧ 1 ≤ code ∧ code ≤ 5 then .next (bootFail s code) else .next s

/-! ## Attestation -/

/-- R417: measurements, identity, fuse state and the challenge, signed in both algorithms, through the root mailbox. -/
def execAttestationRequest (challenge : BitVec 256) (s : State) : Host.Outcome State Fault Refusal :=
  if s.root.boot = 0 ∨ s.root.boot = 15 then .next s
  else
    let body := bytesOf384 s.root.measure ++ Config.deviceIdentity ++ Config.fuseState ++ natToBytes 32 challenge.toNat
    .next { s with root := { s.root with reports := s.root.reports ++ [body ++ Config.ecdsaSign body ++ Config.lmsSign body] } }

end Sys2Proof.Machine
end

