-- ==== Sys2Proof/Machine/Control.lean ====
section
/-! DEFINITION. The control range (05 R131-R147): branches, divergence (01 R20, R21), hardware loops, waits and barriers. -/

namespace Sys2Proof.Machine

/-! ## NOP, EXIT, YIELD -/

def sigPlain (h : Hdr) (f : FmtA) (c : Ctx) : Sig := sigA c.w16 h f (plainMod f.m)

def execNop (h : Hdr) (f : FmtA) (s : State) : Host.Outcome State Fault Refusal :=
  issue h always (sigPlain h f) (fun _ s => .done s) s

/-- In a section EXIT acts as SRET with no results (R257). -/
def exitBody (c : Ctx) (s : State) : Exit :=
  if c.w.section? then (if c.lanes.isEmpty then .done s else .jump (endSection s c.k 0 []))
  else .done (endLanes s c.k (laneMask c.lanes))

def sigExit (h : Hdr) (f : FmtA) (c : Ctx) : Sig := { sigPlain h f c with control := true }

/-- R135. -/
def execExit (h : Hdr) (f : FmtA) (s : State) : Host.Outcome State Fault Refusal :=
  issue h always (sigExit h f) exitBody s

/-- R142: the next issue of the wave goes to its next ready gang, and another wave of the slot comes first. -/
def execYieldV (h : Hdr) (f : FmtA) (s : State) : Host.Outcome State Fault Refusal :=
  issue h always (sigPlain h f) (fun c s =>
    .done (s.updWave c.k (fun w => { w with rot := c.g.quads.headD 0, consec := 32, offers := true }))) s

/-! ## Branches -/

/-- Fields of format B (R99, R100). -/
def sigB (h : Hdr) (f : FmtB) (link : Bool) : Sig :=
  let m := f.m
  let jv := m.sub.getLsbD 0
  let d : DstUse := if link then .reg true else .none
  { legal :=
      [(73, d.ok m.ds h.dst && (!link || m.ds || decide (h.dst.toNat < 240))), (41, decide (f.tslot.toNat < 5)),
       (38, jv || f.jofs == 0), (22, decide (f.jslot.toNat < 5) && (jv || f.jslot == 0)), (19, f.rsv == 0), (17, m.ty == 0),
       (12, m.rnd == 0), (9, !m.sat), (8, !m.sa && !m.sb && !m.sc), (5, link || !m.ds), (4, decide (m.sub.toNat < 2))]
    dst := if link then d.opnd m.ds h.dst else []
    srcs := guardOpnd h, pops := [], lat := 0, sb := false, pipe := false, control := true, branch := true, native64 := false }

/-- The indirect variant. -/
def sigBi (w16 : Bool) (h : Hdr) (f : FmtBi) (link : Bool) : Sig :=
  let m := f.m
  let jv := m.sub.getLsbD 0
  let d : DstUse := if link then .reg true else .none
  let u : SrcUse := .reg true
  { legal :=
      [(73, d.ok m.ds h.dst && (!link || m.ds || decide (h.dst.toNat < 240))), (65, (u.ok w16 m.ds m.sa f.sa).1),
       (49, f.rsvHi == 0), (41, f.rsvT == 0), (38, jv || f.jofs == 0),
       (22, decide (f.jslot.toNat < 5) && (jv || f.jslot == 0)), (19, f.rsv == 0), (17, m.ty == 0), (12, m.rnd == 0),
       (9, !m.sat), (8, !m.sb && !m.sc), (5, link || !m.ds), (4, decide (m.sub.toNat < 2))]
    dst := if link then d.opnd m.ds h.dst else []
    srcs := u.opnd m.sa f.sa ++ guardOpnd h
    pops := [], lat := 0, sb := false, pipe := false, control := true, branch := true, native64 := false }

/-- Own line + 64 × the signed offset, with a slot (R100); outside 48 bits it fails the check of R95. -/
def relTarget (pc : Pc) (w ofs slot : Nat) : Nat := (((Pc.line pc : Int) + 64 * sext w ofs) % (2 ^ 64 : Int)).toNat + slot

/-- How one quad leaves a branch (R20). -/
structure QuadMove where
  q : Nat
  taken : BitVec 4
  push : List (Pc × BitVec 4)
  pc : Pc
  mask : BitVec 4
  deriving DecidableEq, Repr

/-- Outcome of the branch in one quad, or the detail of DIVERGENCE_OVERFLOW. -/
inductive QuadBranch where
  | move (m : QuadMove)
  | overflow (detail : Nat)
  deriving DecidableEq, Repr

def nibble (l : List Nat) (q : Nat) : BitVec 4 := (laneMask l).extractLsb' (4 * q) 4

/-- R20 for quad `q`: `tgt` gives each taken lane's target. Taken lanes with another target than the lowest one's wait in
an entry at the branch itself, so that they branch again (log 10). -/
def branchQuad (w : Wave) (pc : Pc) (live lanes : List Nat) (tgt : Nat → Nat) (join : Option Nat) (q : Nat) : QuadBranch :=
  let quad := w.quads.getD q { pc := 0, mask := 0, ended := true, stack := [] }
  let a := quad.mask
  let m := nibble live q
  let d := a &&& ~~~m
  let mine := lanes.filter (fun l => l / 4 == q)
  let f := nextPc pc
  match mine with
  | [] =>
    match join with
    | none => .move ⟨q, 0, [], f, a⟩
    | some j =>
      if 8 < quad.stack.length + 1 then .overflow 0 else .move ⟨q, 0, [(BitVec.ofNat 48 j, a)], f, a⟩
  | l0 :: _ =>
    let t := nibble (mine.filter (fun l => tgt l == tgt l0)) q
    let goal : Pc := BitVec.ofNat 48 (tgt l0)
    match join with
    | none => if t = m then .move ⟨q, t, [], goal, a⟩ else .overflow 1
    | some j =>
      if t = m then
        if 8 < quad.stack.length + 1 then .overflow 0 else .move ⟨q, t, [(BitVec.ofNat 48 j, a)], goal, a⟩
      else if 8 < quad.stack.length + 2 then .overflow 0
      else
        let back : Pc := if mine.any (fun l => tgt l != tgt l0) then pc else f
        .move ⟨q, t, [(back, m &&& ~~~t), (BitVec.ofNat 48 j, a)], goal, t ||| d⟩

/-- Every quad's move, or the first quad's overflow. -/
def branchAll (w : Wave) (pc : Pc) (live lanes : List Nat) (tgt : Nat → Nat) (join : Option Nat) :
    List Nat → Except Nat (List QuadMove)
  | [] => .ok []
  | q :: t =>
    match branchQuad w pc live lanes tgt join q with
    | .overflow d => .error d
    | .move m =>
      match branchAll w pc live lanes tgt join t with
      | .error d => .error d
      | .ok l => .ok (m :: l)

/-- A taken target outside a body closes that level and every level inside it (R134): levels are innermost first. -/
def closeOutside (goal : Pc) : List (Pc × Pc) → List (Pc × Pc)
  | [] => []
  | (st, e) :: t =>
    let outer := closeOutside goal t
    if pcOrder st ≤ pcOrder goal && pcOrder goal ≤ pcOrder e && outer.length == t.length then (st, e) :: outer else outer

/-- Checks of R95 on the destinations, in order; the first failing one traps. -/
def checkTargets (s : State) (c : Ctx) : List Nat → Option TrapInfo × State
  | [] => (none, s)
  | a :: t =>
    match checkTarget s c.core c.w.ctx a with
    | (.ok, s) => checkTargets s c t
    | (.bad, s) => (some { code := Trap.branchTarget, mask := laneMask c.live, addr := a }, s)
    | (.fault x, s) => (some { code := Trap.loadFault, mask := laneMask c.live, addr := a, det1 := x }, s)
    | (.poisoned, s) => (some { code := Trap.poison, mask := laneMask c.live, det1 := 1 }, s)
    | (.secure n, s) => (some { code := Trap.secureAccess, mask := laneMask c.live, addr := a, det1 := n }, s)

/-- Moves the quads of the gang; when no lane takes the branch the gang goes on in sequence (R139). -/
def moveQuads (c : Ctx) (link : State → List QuadMove → State) (s : State) (l : List QuadMove) : Exit :=
  let s := link s l
  let s := s.updWave c.k (fun w =>
    l.foldl (fun w m => w.updQuad m.q (fun x => { x with pc := m.pc, mask := m.mask, stack := m.push ++ x.stack })) w)
  if l.all (fun m => m.taken == 0) then
    .done (s.updWave c.k (fun w => w.setPcs c.g.quads c.pc))
  else
    .jump (s.updWave c.k (fun w =>
      ({ w with levels := (l.filter (fun (m : QuadMove) => m.taken != 0)).foldl (fun v (m : QuadMove) => closeOutside m.pc v) w.levels }).resplit))

/-- THE branch (R20, R132): destinations checked, then every quad resolved, then links and moves. -/
def branchBody (c : Ctx) (s : State) (check : List Nat) (tgt : Nat → Nat) (join : Option Nat)
    (link : State → List QuadMove → State) : Exit :=
  match checkTargets s c check with
  | (some t, s) => .trap s t
  | (none, s) =>
    match branchAll c.w c.pc c.live c.lanes tgt join (c.g.quads.filter c.w.quadLive) with
    | .error d => .trap s { code := Trap.divergenceOverflow, mask := laneMask c.live, det1 := d }
    | .ok l => moveQuads c link s l

def noLink (s : State) (_ : List QuadMove) : State := s

def lanesOf (m : QuadMove) : List Nat := ((List.range 4).filter (fun i => m.taken.getLsbD i)).map (fun i => 4 * m.q + i)

/-- The link: the PC of the slot after the call, in the lanes of T, or once (R132). -/
def writeLink (h : Hdr) (ds : Bool) (c : Ctx) (s : State) (l : List QuadMove) : State :=
  let x := (nextPc c.pc).toNat
  let ws :=
    if ds then (if l.any (fun m => m.taken != 0) then dstWr true h.dst true 0 x else [])
    else ((l.map lanesOf).flatten.map (fun i => dstWr false h.dst true i x)).flatten
  s.updWave c.k (fun w => w.wrAll ws)

def directBody (f : FmtB) (link : Ctx → State → List QuadMove → State) (c : Ctx) (s : State) : Exit :=
  let goal := relTarget c.pc 24 f.lofs.toNat f.tslot.toNat
  let j := if f.m.sub.getLsbD 0 then some (relTarget c.pc 16 f.jofs.toNat f.jslot.toNat) else none
  branchBody c s (goal :: j.toList) (fun _ => goal) j (link c)

def indirectBody (f : FmtBi) (link : Ctx → State → List QuadMove → State) (c : Ctx) (s : State) : Exit :=
  let goal := c.src 0 f.m.sa f.sa true
  let j := if f.m.sub.getLsbD 0 then some (relTarget c.pc 16 f.jofs.toNat f.jslot.toNat) else none
  branchBody c s (c.lanes.map goal ++ j.toList) goal j (link c)

def sigBra (h : Hdr) (f : FmtB) (_ : Ctx) : Sig := sigB h f false

def execBra (h : Hdr) (f : FmtB) (s : State) : Host.Outcome State Fault Refusal :=
  issue h always (sigBra h f) (directBody f (fun _ => noLink)) s

def sigBrx (h : Hdr) (f : FmtBi) (c : Ctx) : Sig := sigBi c.w16 h f false

def execBrx (h : Hdr) (f : FmtBi) (s : State) : Host.Outcome State Fault Refusal :=
  issue h always (sigBrx h f) (indirectBody f (fun _ => noLink)) s

def sigCall (h : Hdr) (f : FmtB) (_ : Ctx) : Sig := sigB h f true

def execCall (h : Hdr) (f : FmtB) (s : State) : Host.Outcome State Fault Refusal :=
  issue h always (sigCall h f) (directBody f (writeLink h f.m.ds)) s

def sigCallx (h : Hdr) (f : FmtBi) (c : Ctx) : Sig := sigBi c.w16 h f true

def execCallx (h : Hdr) (f : FmtBi) (s : State) : Host.Outcome State Fault Refusal :=
  issue h always (sigCallx h f) (indirectBody f (writeLink h f.m.ds)) s

/-- RET checks the form of its targets only (R133). -/
def retBody (f : FmtA) (c : Ctx) (s : State) : Exit :=
  let goal := c.src 0 f.m.sa f.sa true
  match c.lanes.find? (fun l => !pcFormed (goal l)) with
  | some l => .trap s { code := Trap.branchTarget, mask := laneMask c.live, addr := goal l }
  | none => branchBody c s [] goal none noLink

def sigRet (h : Hdr) (f : FmtA) (c : Ctx) : Sig :=
  { sigA c.w16 h f { plainMod f.m with a := .reg true } with control := true, branch := true }

def execRet (h : Hdr) (f : FmtA) (s : State) : Host.Outcome State Fault Refusal :=
  issue h always (sigRet h f)
    (retBody f) s

/-! ## JOIN -/

/-- Pops to the first entry with a lane left (R21). -/
def popStack : List (Pc × BitVec 4) → Option ((Pc × BitVec 4) × List (Pc × BitVec 4))
  | [] => none
  | e :: t => if e.2 = 0 then popStack t else some (e, t)

def joinQuad (w : Wave) (q : Nat) : Wave :=
  match popStack (w.quads.getD q { pc := 0, mask := 0, ended := true, stack := [] }).stack with
  | some (e, t) => w.updQuad q (fun x => { x with pc := e.1, mask := e.2, stack := t })
  | none => w.updQuad q (fun x => { x with stack := [] })

/-- Quads of the gang whose stack holds no entry with a lane left: their lanes end (R21). -/
def joinEnds (c : Ctx) : List Nat :=
  (c.g.quads.filter c.w.quadLive).filter (fun q =>
    (popStack (c.w.quads.getD q { pc := 0, mask := 0, ended := true, stack := [] }).stack).isNone)

/-- R21. A section that ends so ends as by EXIT, with no results (R257). -/
def joinBody (c : Ctx) (s : State) : Exit :=
  let ends := joinEnds c
  let lanes := laneMask ((ends.map (fun q => (List.range 4).map (fun i => 4 * q + i))).flatten)
  if c.w.section? && ends.length == (c.g.quads.filter c.w.quadLive).length then .jump (endSection s c.k 0 [])
  else
    let s := s.updWave c.k (fun w => ((c.g.quads.filter w.quadLive).foldl joinQuad w).resplit)
    .jump (if ends.isEmpty then s else endLanes s c.k lanes)

def sigJoin (h : Hdr) (f : FmtA) (c : Ctx) : Sig :=
  { sigA c.w16 h f { plainMod f.m with guarded := false } with control := true }

def execJoin (h : Hdr) (f : FmtA) (s : State) : Host.Outcome State Fault Refusal :=
  issue h always (sigJoin h f) joinBody s

/-! ## REGANG -/

/-- R22, R137: quads of the gang that the mask names wait; the others go on. -/
def regangBody (f : FmtA) (c : Ctx) (s : State) : Exit :=
  let x : Nat := if f.m.sub.getLsbD 0 then (c.w.rdS f.sa.reg.toNat).toNat else 2 ^ 24 - 1
  if 2 ^ 24 ≤ x then .trap s { code := Trap.illegalField, det1 := 0x80000000 + Nat.log2 x }
  else
    let n : BitVec 24 := BitVec.ofNat 24 x
    let mine := c.g.quads.filter c.w.quadLive
    let named := mine.filter (fun q => n.getLsbD q)
    if named.isEmpty then .done s
    else if named.length = mine.length then .block s (.regang n)
    else
      let others := mine.filter (fun q => !n.getLsbD q)
      let s := s.updWave c.k (fun w =>
        { w with
          gangs := (w.gangs.map (fun g =>
            if g.quads.contains c.q then
              [{ g with quads := named, wait := .regang n, waitSince := s.gtb }, { g with quads := others }]
            else [g])).flatten })
      .done (s.updWave c.k (fun w => w.setPcs others c.pc))

/-- The quads that pass go on alone: those that wait keep their PC. -/
def regangExit (f : FmtA) (c : Ctx) (s : State) : Exit :=
  match regangBody f c s with
  | .done s =>
    match s.wave? c.k with
    | none => .done s
    | some w =>
      let go := c.g.quads.filter (fun q =>
        match w.gangOf q with | some g => g.wait.named.isNone | none => false)
      let r := w.flow go c.pc
      let s := s.updWave c.k (fun _ => r.1)
      if r.2 then
        .jump (report s c.k 6 (({ code := Trap.loopBody, mask := laneMask c.live, det1 := 3 } : TrapInfo).at_ (nextPc c.pc)))
      else .jump s
  | e => e

def sigRegang (h : Hdr) (f : FmtA) (c : Ctx) : Sig :=
  { sigA c.w16 h f
      { plainMod f.m with
        guarded := false, sub := decide (f.m.sub.toNat < 2), a := if f.m.sub.getLsbD 0 then .sca false else .unused }
    with control := true, regang := true }

def execRegang (h : Hdr) (f : FmtA) (s : State) : Host.Outcome State Fault Refusal :=
  issue h always (sigRegang h f)
    (regangExit f) s

/-! ## Hardware loops -/

/-- R138. -/
def loopBody (f : FmtI) (c : Ctx) (s : State) : Exit :=
  let len := f.imm.toNat % 512
  let e := pcAfter c.pc len
  let bad (d : Nat) : Exit := .trap s { code := Trap.loopBody, mask := laneMask c.live, det1 := d }
  if c.lanes.isEmpty then .done s
  else if c.lanes != c.live || c.w.gangs.length != 1 then bad 3
  else if len = 0 || 256 < len then bad 0
  else if c.w.levels.length = 3 then bad 1
  else
    let late := match c.w.levels with
      | [] => false
      | (_, x) :: _ => decide (pcOrder x < pcOrder e)
    if late then bad 2
    else
      let n : Word := if f.m.sa then c.w.rdS f.sa.reg.toNat else f.imm >>> 16
      if n = 0 then .jump (s.updWave c.k (fun w => w.setPcs c.g.quads (nextPc e)))
      else
        .jump (s.updWave c.k (fun w =>
          { w with
            lc := SMap.set 0#32 w.lc w.levels.length n, levels := (nextPc c.pc, e) :: w.levels }.setPcs c.g.quads (nextPc c.pc)))

def sigLoop (h : Hdr) (f : FmtI) (c : Ctx) : Sig :=
  { sigI c.w16 h f { plainMod f.m with a := if f.m.sa then .sca false else .unused }
      [(49, !f.m.sa || decide (f.imm.toNat < 65536)), (33, f.imm.toNat / 512 % 128 == 0)]
    with control := true }

def execLoop (h : Hdr) (f : FmtI) (s : State) : Host.Outcome State Fault Refusal :=
  issue h always (sigLoop h f)
    (loopBody f) s

/-- R140. -/
def lbrkBody (c : Ctx) (s : State) : Exit :=
  let bad (d : Nat) : Exit := .trap s { code := Trap.loopBody, mask := laneMask c.live, det1 := d }
  if c.lanes.isEmpty then .done s
  else
    match c.w.levels with
    | [] => bad 4
    | (_, e) :: rest =>
      if c.lanes != c.live || c.w.gangs.length != 1 then bad 3
      else
        .jump (s.updWave c.k (fun w =>
          { w with levels := rest, lc := SMap.set 0#32 w.lc rest.length 0 }.setPcs c.g.quads (nextPc e)))

def execLbrk (h : Hdr) (f : FmtA) (s : State) : Host.Outcome State Fault Refusal :=
  issue h always (sigPlain h f) lbrkBody s

/-! ## SLEEP, TRAP -/

def sigSleep (h : Hdr) (f : FmtI) (c : Ctx) : Sig := sigI c.w16 h f (plainMod f.m) []

def execSleep (h : Hdr) (f : FmtI) (s : State) : Host.Outcome State Fault Refusal :=
  issue h always (sigSleep h f)
    (fun c s => if c.lanes.isEmpty then .done s else .block s (.sleep (s.gtb + f.imm.toNat))) s

/-- USER_TRAP after the instruction, by TRAP, ECALL or BKPT (R144, R168). -/
def userTrapBody (f : FmtI) (kind : Nat) (c : Ctx) (s : State) : Exit :=
  if c.lanes.isEmpty then .done s
  else .trapAfter s { code := Trap.userTrap, mask := laneMask c.lanes, det1 := f.imm.toNat, det2 := kind }

def sigTrap (h : Hdr) (f : FmtI) (c : Ctx) : Sig := sigI c.w16 h f (plainMod f.m) []

def execTrap (h : Hdr) (f : FmtI) (s : State) : Host.Outcome State Fault Refusal :=
  issue h always (sigTrap h f) (userTrapBody f 0) s

/-! ## Barriers -/

def sigBar (h : Hdr) (f : FmtA) (c : Ctx) : Sig :=
  { sigA c.w16 h f { plainMod f.m with guarded := false, sub := decide (f.m.sub.toNat < 16) } with control := true }

/-- Arrival: a release at the barrier's scope, then the wait; the last arrival completes it in the same step (R146). -/
def barrierBody (kind scope : Nat) (f : FmtA) (c : Ctx) (s : State) : Exit :=
  if c.w.section? then .trap s { code := Trap.illegalWait, mask := laneMask c.live, det1 := 5 }
  else if kind = 2 && s.waveClass c.w != 0 then
    -- the object is the grid's completion object (10 R327)
    .trap s
      { code := Trap.illegalWait, mask := laneMask c.live, det1 := 2,
        addr := ((s.grid? c.w.grid (s.partOf c.core)).map (·.desc.done)).getD 0 }
  else if c.g.released || fenceReady s c.w scope c.w.opSeq then
    .block (s.updWave c.k (fun w => { w with starv := 0 })) (.barrier kind (f.m.sub.toNat % 16))
  else .wait s (.release scope c.w.opSeq)

def execBar (h : Hdr) (f : FmtA) (s : State) : Host.Outcome State Fault Refusal :=
  issue h always (sigBar h f) (barrierBody 0 1 f) s

def execBarc (h : Hdr) (f : FmtA) (s : State) : Host.Outcome State Fault Refusal :=
  issue h always (sigBar h f) (barrierBody 1 2 f) s

def execBarg (h : Hdr) (f : FmtA) (s : State) : Host.Outcome State Fault Refusal :=
  issue h always (sigBar h f) (barrierBody 2 4 f) s

end Sys2Proof.Machine
end

