-- ==== Sys2Proof/Machine/Io.lean ====
section
/-! DEFINITION. Device-thread I/O: IORD, IOWR, IOPOST (08 R279-R282), the connection table (14 R414) and the I/O unit's own
steps. What the remote side does comes in with the events. -/

namespace Sys2Proof.Machine

/-! ## Descriptors and connections -/

/-- The connection's entry (R414). -/
def connEntry (s : State) (part conn : Nat) : Nat := s.mem.readNat ((s.part part).conBase.toNat + 64 * conn) 64

def kindOf (d : Nat) : Nat := field d 163 160

/-- IO_ERROR's detail for a descriptor (R279, R280, R414). -/
def ioCause (s : State) (c : Ctx) (kinds : List Nat) (d : Nat) : Option Nat :=
  let conn := field d 143 128
  let e := connEntry s (s.partOf c.core) conn
  if 4096 ≤ conn ∨ !e.testBit 0 ∨ field e 143 134 ≠ c.w.ctx then some 1
  else if !kinds.contains (kindOf d) || (if e.testBit 124 then decide (1 < kindOf d) else decide (kindOf d < 2)) then some 2
  else none

/-- The queue of 16-byte elements bound to the completion port. -/
def ioQueue (s : State) (c : Ctx) (port : Nat) : Option QueueRef :=
  (c.w.portQueue port).bind (fun q => (readQueue s q).bind (fun h => if h.esz = 2 then some q else none))

def ioReq (s : State) (c : Ctx) (q : QueueRef) (d : Nat) (id : Nat) : IoReq :=
  { id := id, w := c.k, gid := c.w.grid, team := c.w.team, seq := c.w.opSeq, part := s.partOf c.core, ctx := c.w.ctx,
    kind := kindOf d, conn := field d 143 128, token := field d 127 96, len := field d 95 64, buf := field d 63 0,
    raddr := field d 255 192, rkey := field d 319 256, queue := q, core := c.core, absent := none, tries := 0, data := none,
    begun := kindOf d != 5 && !s.actHeld 3 (s.partOf c.core) (field d 143 128) }

/-! ## The completion record -/

def ioRecord (token status len flags : Nat) : Nat := token + status * 2 ^ 32 + len * 2 ^ 64 + flags * 2 ^ 96

/-- A record is pushed, behind the held ones of its queue, or held (R281). -/
def pushRecord (s : State) (r : IoReq) (x : Nat) : State :=
  let room := match readQueue s r.queue with
    | some h => decide (0 < roomOf s r.queue h)
    | none => false
  if room && !s.io.held.any (fun h => h.queue == r.queue) then unitPush s r.core r.queue x
  else { s with io := { s.io with held := s.io.held ++ [{ part := r.part, core := r.core, queue := r.queue, record := x }] } }

/-- The request leaves, its lock goes, its record follows (R281). -/
def finishIo (s : State) (r : IoReq) (status len flags : Nat) : State :=
  let s := dropLocks s r.core r.id
  let s := { s with
    io := { s.io with reqs := s.io.reqs.filter (fun x => x.id != r.id), posted := s.io.posted.filter (fun x => x.id != r.id) } }
  (pushRecord s r (ioRecord r.token status len flags)).updWave r.w Wave.progress

def isBroken (s : State) (part conn : Nat) : Bool := s.io.broken.contains (part, conn)

/-! ## IORD, IOWR, IOPOST -/

/-- A request begins; on a connection in the error state it completes at once (R414). -/
def beginIo (s : State) (r : IoReq) : State :=
  if isBroken s r.part r.conn then finishIo s r 2 0 0
  else if r.kind = 5 then { s with io := { s.io with posted := s.io.posted ++ [r] } }
  else { s with io := { s.io with reqs := s.io.reqs ++ [r] } }

/-- The requests of the lanes in ascending order, up to a read that finds no room for its lock (R223); the lanes left over. -/
def beginAll (c : Ctx) (q : QueueRef) : List (Nat × Nat) → State → List Nat × State
  | [], s => ([], s)
  | (l, d) :: t, s =>
    let f := s.fresh
    let r := ioReq s c q d f.1
    let locked : Option State :=
      if r.kind = 0 ∨ r.kind = 2 then
        addLocks f.2 c.core c.w.ctx c.w.grid c.w.team r.id 0x12F
          [{ space := 0, lo := r.buf, hi := r.buf + r.len, write := true }]
      else some f.2
    match locked with
    | none => (l :: t.map (·.1), s)
    | some s1 => beginAll c q t (beginIo s1 r)

def sigIo (h : Hdr) (f : FmtX) (c : Ctx) : Sig :=
  sigX c.w16 h f { a := .any true, ty := f.m.ty == 0, tile := true, aux := f.m.aux == 0, sub3 := f.m.sub3 == 0 }

/-- R279: descriptors are read in every lane that translates, under the wave's own stores, once these have been checked and the acquires
and fences before the instruction have completed (R216, R219, R229); an IO_ERROR leaves the instruction without effect. A lane whose
descriptor lies in a secure region makes no request (R416). While the lock table is full the lanes not begun wait at issue (R223). -/
def ioBody (f : FmtX) (kinds : List Nat) (c : Ctx) (s : State) : Exit :=
  let accs : List Acc := c.lanes.map (fun l => { lane := l, va := c.src 0 f.m.sa f.sa true l, size := 64 })
  match accessChecks s c false 0 64 accs with
  | some t => .trap s t
  | none =>
    let r := placeAll s (whoOf s c.w) .load 0 accs
    let s := r.2
    if c.w.fencing || orderHeld s c.k c.seq || s.mops.any (fun o => o.w == c.k && !o.checked) then .stall s
    else
      let good := goodElems r.1
      let ending (s : State) : Exit :=
        match faultTrap Trap.loadFault r.1, secureTrap s c.core good with
        | some t, _ => .trap s t
        | none, some t => .trapAfter s t
        | none, none => .done s
      let descs : List (Acc × Except TrapInfo Nat) :=
        (good.filter (fun p => (secureOf s c.core p.2.1).isNone)).map (fun p => (p.1, readOne c p.2.1 64 s))
      match descs.findSome? (fun p => match p.2 with | .error t => some t | .ok _ => none) with
      | some t => .trap s t
      | none =>
        let ds : List (Acc × Nat) := descs.filterMap (fun p => match p.2 with | .ok d => some (p.1, d) | .error _ => none)
        let bad (n : Nat) : List (Acc × Nat) := ds.filter (fun p => ioCause s c kinds p.2 == some n)
        let trap (n : Nat) (l : List (Acc × Nat)) : Exit :=
          .trap s { code := Trap.ioError, mask := laneMask (l.map (·.1.lane)), addr := (l.map (·.1.va)).headD 0, det1 := n }
        if !(bad 1).isEmpty then trap 1 (bad 1)
        else if !(bad 2).isEmpty then trap 2 (bad 2)
        else
          match ioQueue s c (240 + f.m.tile.toNat) with
          | none => if ds.isEmpty && !accs.isEmpty then ending s else trap 3 ds
          | some q =>
            let b := beginAll c q (ds.map (fun p => (p.1.lane, p.2))) s
            let begun := (ds.map (fun (p : Acc × Nat) => p.1.lane)).filter (fun l => !b.1.contains l)
            let s2 := b.2.updWave c.k (fun w => latchDrop { w with opSeq := w.opSeq + 1 } c.pc begun)
            if b.1.isEmpty then ending s2
            else .stall (s2.updWave c.k (fun w => w.updGang c.q (fun g =>
              { g with replay := some (laneMask (c.lanes.filter (fun l => !begun.contains l))) })))

/-- With no lane active the instruction only goes on (R16). -/
def ioIssue (h : Hdr) (f : FmtX) (kinds : List Nat) (s : State) : Host.Outcome State Fault Refusal :=
  issue h notInSection (sigIo h f) (fun c s => if c.lanes.isEmpty then .done s else ioBody f kinds c s) s

def execIord (h : Hdr) (f : FmtX) (s : State) : Host.Outcome State Fault Refusal := ioIssue h f [0, 2] s

def execIowr (h : Hdr) (f : FmtX) (s : State) : Host.Outcome State Fault Refusal := ioIssue h f [1, 3, 4] s

def execIopost (h : Hdr) (f : FmtX) (s : State) : Host.Outcome State Fault Refusal := ioIssue h f [5] s

/-! ## The unit -/

/-- The unit's accesses carry the world of the connection's Ethernet port (R415). -/
def ioWho (s : State) (r : IoReq) : Who :=
  let port := field (connEntry s r.part r.conn) 125 125
  { core := r.core, ctx := r.ctx, gid := r.gid, team := r.team, sect := false, priv := false,
    world := some (s.root.sbio.getLsbD (6 + port)) }

/-- What a placement comes to. -/
inductive IoPlace where
  | done (s : State)
  /-- The page is not present: the supervisor is asked (R282). -/
  | absent (s : State)
  | refused (s : State)
  | wait (s : State)

/-- The request of this number, as `f` changes it. -/
def State.updIo (s : State) (id : Nat) (f : IoReq → IoReq) : State :=
  let g (x : IoReq) : IoReq := if x.id = id then f x else x
  { s with io := { s.io with reqs := s.io.reqs.map g, posted := s.io.posted.map g } }

def ioAsk (s : State) (r : IoReq) (va : Nat) : State :=
  let s := s.updIo r.id (fun x => { x with absent := some (s.gtb, va) })
  postEvent s r.core 2 r.ctx r.gid r.team r.w.slot r.w.place
    (({ code := Trap.storeFault, addr := va, det1 := 1 } : TrapInfo).at_ 0)

/-- Data goes into the buffer. -/
def ioWrite (s : State) (r : IoReq) (data : List Byte) : IoPlace :=
  let vas := (List.range data.length).map (fun i => (r.buf + i) % 2 ^ 64)
  match reach s (ioWho s r) .store 0 vas with
  | (.ok l, s) =>
    if writableAll s r.ctx l then .done (writePlaces s r.core r.ctx (l.zip data)) else .wait s
  | (.fault va 1, s) => if r.absent.isSome then .absent s else .absent (ioAsk s r va)
  | (.fault _ _, s) => .refused s
  | (.secure, s) => .refused s
  | (.poisoned, s) => .refused s
  | (.wait, s) => .wait s

/-- A held I/O queue starts no new request (R356). -/
def State.ioMay (s : State) (r : IoReq) : Bool := r.begun || !s.actHeld 3 r.part r.conn

/-- The bytes that a request has moved are charged to its I/O queue (R355). -/
def ioCharge (s : State) (r : IoReq) (n : Nat) : State := s.chargeAct 3 r.part r.conn ((n + 63) / 64)

/-- A request that may start has begun: no later hold stops it (R356). A write's buffer is seen as the request takes effect, behind the
wave's earlier accesses (R225, R281). -/
def settleIo (s : State) (r : IoReq) : State :=
  let s := if !r.begun && s.ioMay r then s.updIo r.id (fun x => { x with begun := true }) else s
  if r.kind = 0 ∨ r.kind = 2 ∨ r.data.isSome ∨ !s.ioMay r ∨ !engineSettled s r.w r.seq then s
  else
    match reach s (ioWho s r) .load 0 ((List.range r.len).map (fun i => (r.buf + i) % 2 ^ 64)) with
    | (.ok l, s) => s.updIo r.id (fun x => { x with data := some (l.map s.byteAt) })
    | _ => s

/-- Each byte as it stood when the request took effect or as it stands (R281). -/
def eitherBytes : List (Byte × Byte) → State → List Byte × State
  | [], s => ([], s)
  | (a, b) :: t, s =>
    let f := s.freeBool
    let r := eitherBytes t f.2
    ((if f.1 then a else b) :: r.1, r.2)

/-- A read's data arrives, or a write has been acknowledged; `data` holds the bytes transferred of an unsuccessful request, which for a
read are placed before they count (R281). -/
def execIoRequestComplete (id : Nat) (status : BitVec 3) (data : List Byte) (s : State) :
    Host.Outcome State Fault Refusal :=
  match s.io.reqs.find? (fun r => r.id == id) with
  | none => .next s
  | some r =>
    if !s.ioMay r || !engineSettled s r.w r.seq || decide (4 < status.toNat) then .next s
    else if status ≠ 0 ∧ (r.kind = 0 ∨ r.kind = 2) then
      match ioWrite s r (data.take r.len) with
      | .done s => .next (finishIo (ioCharge s r (min data.length r.len)) r status.toNat (min data.length r.len) 0)
      | .refused s => .next (finishIo s r status.toNat 0 0)
      | .absent s => .next s
      | .wait s => .next s
    else if status ≠ 0 then .next (finishIo s r status.toNat (min data.length r.len) 0)
    else if r.kind = 0 ∨ r.kind = 2 then
      if data.length ≠ r.len then .next s
      else
        match ioWrite s r data with
        | .done s => .next (finishIo (ioCharge s r r.len) r 0 r.len 0)
        | .refused s => .next (finishIo s r 3 0 0)
        | .absent s => .next s
        | .wait s => .next s
    else
      match reach s (ioWho s r) .load 0 ((List.range r.len).map (fun i => (r.buf + i) % 2 ^ 64)) with
      | (.ok l, s) =>
        let now := l.map s.byteAt
        let b := eitherBytes ((r.data.getD now).zip now) s
        .next (finishIo (ioCharge { b.2 with io := { b.2.io with sent := b.2.io.sent ++ [(r.conn, b.1)] } } r r.len) r 0 r.len 0)
      | (.wait, s) => .next s
      | (_, s) => .next (finishIo s r 3 0 0)

/-- A message fills the connection's next posted buffer, cut to its length (R282). With none posted it is not received; a held queue takes
none (R356). Whatever comes of it, the record tells the full length (R281). -/
def execIoMessageArrive (part conn : Nat) (data : List Byte) (s : State) : Host.Outcome State Fault Refusal :=
  match s.io.posted.find? (fun r => r.part == part && r.conn == conn) with
  | none => .next s
  | some r =>
    if isBroken s part conn || !s.ioMay r then .next s
    else
      let trunc := if r.len < data.length then 1 else 0
      match ioWrite (s.updIo r.id (fun x => { x with begun := true, data := some data })) r (data.take r.len) with
      | .done s => .next (finishIo (ioCharge s r (min data.length r.len)) r 0 data.length trunc)
      | .refused s => .next (finishIo s r 3 data.length trunc)
      | .absent s => .next s
      | .wait s => .next s

/-- The oldest held record whose queue has room is pushed (R281). -/
def execIoRecordPush (part : Nat) (s : State) : Host.Outcome State Fault Refusal :=
  let ready (h : IoHeld) : Bool :=
    h.part == part && (match readQueue s h.queue with
      | some q => decide (0 < roomOf s h.queue q)
      | none => false)
  match s.io.held.find? ready with
  | none => .next s
  | some h => .next (unitPush { s with io := { s.io with held := s.io.held.erase h } } h.core h.queue h.record)

/-- The page that the placement met absent is still not present. -/
def stillAbsent (s : State) (r : IoReq) (va : Nat) : Bool :=
  match (translateG s r.core r.ctx .store false va).1 with
  | .fault 1 => true
  | _ => false

/-- Retries of the connection (R414). -/
def ioRetries (s : State) (r : IoReq) : Nat := field (connEntry s r.part r.conn) 133 131

/-- 50 µs after the page request, with the page still not present: a receiver-not-ready answer, after which the connection tries again
under its retry count; with its retries exhausted, status 4, for a receive the length of the message, and a buffer of free bytes (R282). -/
def execIoPlacementTimeout (id : Nat) (posted : Bool) (s : State) : Host.Outcome State Fault Refusal :=
  match (if posted then s.io.posted else s.io.reqs).find? (fun r => r.id == id) with
  | none => .next s
  | some r =>
    match r.absent with
    | none => .next s
    | some (t, va) =>
      if s.gtb < t + 50000 then .next s
      else
        let late := stillAbsent s r va
        let s1 := s.updIo id (fun x => { x with absent := none, tries := if late then x.tries + 1 else x.tries })
        if !late || decide (r.tries < ioRetries s r) then .next s1
        else
          let b := s1.freeBytes r.len
          let s2 := (b.1.zipIdx).foldl (fun s p =>
            match translateG s r.core r.ctx .store false ((r.buf + p.2) % 2 ^ 64) with
            | (.ok t _, s) => if (secureWho s (ioWho s r) t).isSome then s else (s.setByte t p.1).posted r.core r.ctx t 1
            | (_, s) => s) b.2
          let n := if posted then (r.data.map (·.length)).getD 0 else 0
          .next (finishIo s2 r 4 n (if r.len < n then 1 else 0))

/-- R414. -/
def execConnectionError (part conn : Nat) (s : State) : Host.Outcome State Fault Refusal :=
  if isBroken s part conn || !(connEntry s part conn).testBit 0 then .next s
  else
    let s1 := { s with io := { s.io with broken := s.io.broken ++ [(part, conn)] } }
    .next (((s.io.reqs ++ s.io.posted).filter (fun r => r.part == part && r.conn == conn)).foldl
      (fun s r => finishIo s r 2 0 0) s1)

end Sys2Proof.Machine
end

