-- ==== Sys2Proof/Machine/Predicate.lean ====
section
/-! DEFINITION. Predicate instructions and wave collectives (05 R162-R167). -/

namespace Sys2Proof.Machine

/-! ## Predicates -/

/-- R162. -/
def plogFn (sub : Nat) (x y : Bool) : Bool :=
  match sub with
  | 0 => x && y
  | 1 => x || y
  | 2 => xor x y
  | 3 => x && !y
  | 4 => x || !y
  | 5 => !(x && y)
  | 6 => !(x || y)
  | 7 => !(xor x y)
  | 8 => !x
  | _ => x

def sigPlog (h : Hdr) (f : FmtA) (c : Ctx) : Sig :=
  let sub := f.m.sub.toNat
  sigA c.w16 h f
    { plainMod f.m with
      dst := .pred, a := .pred, b := if sub < 8 then .pred else .unused, sub := decide (sub < 10), lat := 2 }

def execPlog (h : Hdr) (f : FmtA) (s : State) : Host.Outcome State Fault Refusal :=
  let sub := f.m.sub.toNat
  issue h always (sigPlog h f)
    (fun c _ => .alu
      { writes := c.predAll h.dst.toNat (fun l =>
          plogFn sub (c.w.rdP f.sa.reg.toNat l) (c.w.rdP f.sb.reg.toNat l)) }) s

/-- Predicates 32j to 32j + 31 of a lane, packed. -/
def packPreds (w : Wave) (j lane : Nat) : Nat :=
  ((List.range 32).map (fun i => if w.rdP (32 * j + i) lane then 2 ^ i else 0)).sum

def sigPmov (h : Hdr) (f : FmtA) (c : Ctx) : Sig :=
  let sub := f.m.sub.toNat
  let u := plainMod f.m
  let u : UseA := { u with sub := decide (sub < 10), lat := 2 }
  sigA c.w16 h f
    (if sub = 0 then { u with dst := .pred, a := .reg false }
     else if sub = 1 then { u with dst := .reg false, ds := .either, a := .pred }
     else if sub < 6 then { u with dst := .reg false, ds := .either, more := [.pred (32 * (sub - 2)) 32] }
     else
       let j := sub - 6
       { u with
         dst := .other (h.dst == 0) [if j = 0 then .pred 1 31 else .pred (32 * j) 32], a := .reg false })

/-- R163. -/
def pmovBody (h : Hdr) (f : FmtA) (c : Ctx) (_ : State) : Exit :=
  let sub := f.m.sub.toNat
  .alu
    { writes :=
        if sub = 0 then c.predAll h.dst.toNat (fun l => c.src 0 f.m.sa f.sa false l != 0)
        else if sub = 1 then c.dstAll f.m.ds h.dst false (fun l => if c.w.rdP f.sa.reg.toNat l then 1 else 0)
        else if sub < 6 then c.dstAll f.m.ds h.dst false (packPreds c.w (sub - 2))
        else
          (c.lanes.map (fun l =>
            let x := c.src 0 f.m.sa f.sa false l
            (List.range 32).map (fun i => predWr (32 * (sub - 6) + i) l (x.testBit i)))).flatten }

def execPmov (h : Hdr) (f : FmtA) (s : State) : Host.Outcome State Fault Refusal := issue h always (sigPmov h f) (pmovBody h f) s

/-! ## Collectives -/

def sigVote (h : Hdr) (f : FmtA) (c : Ctx) : Sig :=
  let ballot := f.m.sub == 3
  sigA c.w16 h f
    { plainMod f.m with
      dst := if ballot then .sca ((c.w.width + 31) / 32) 1 59 else .pred, a := .pred, ds := if ballot then .one else .zero,
      sub := decide (f.m.sub.toNat < 4), lat := 4 }

/-- R164. -/
def voteBody (h : Hdr) (f : FmtA) (c : Ctx) (_ : State) : Exit :=
  let x (l : Nat) : Bool := c.w.rdP f.sa.reg.toNat l
  .alu
    { writes :=
        if f.m.sub = 3 then
          if c.lanes.isEmpty then []
          else
            let b := laneMask (c.lanes.filter x)
            (List.range ((c.w.width + 31) / 32)).map (fun g => ⟨.sca, h.dst.toNat + g, 0, b.extractLsb' (32 * g) 32⟩)
        else
          let v : Bool :=
            match f.m.sub.toNat with
            | 0 => c.lanes.all x
            | 1 => c.lanes.any x
            | _ => c.lanes.all x || !c.lanes.any x
          c.predAll h.dst.toNat (fun _ => v) }

def execVote (h : Hdr) (f : FmtA) (s : State) : Host.Outcome State Fault Refusal := issue h always (sigVote h f) (voteBody h f) s

/-- R165. -/
def matchBody (h : Hdr) (f : FmtA) (c : Ctx) (_ : State) : Exit :=
  let v := c.src 0 f.m.sa f.sa (f.m.ty == 7)
  .alu
    { writes := c.dstAll false h.dst false (fun l =>
        let e := c.lanes.filter (fun j => v j == v l)
        match f.m.sub.toNat with
        | 0 => e.headD 0
        | 1 => (e.filter (fun j => decide (j < l))).length
        | _ => e.length) }

def sigMatchV (h : Hdr) (f : FmtA) (c : Ctx) : Sig :=
  sigA c.w16 h f
    { plainMod f.m with
      dst := .reg false, a := .reg (f.m.ty == 7), ty := f.m.ty == 9 || f.m.ty == 7, sub := decide (f.m.sub.toNat < 3),
      sb := true, pipe := true }

def execMatchV (h : Hdr) (f : FmtA) (s : State) : Host.Outcome State Fault Refusal :=
  issue h always (sigMatchV h f)
    (matchBody h f) s

/-- The lane that SHFL reads (R166). -/
def shflLane (sub width lane d : Nat) : Nat :=
  let j : Int :=
    match sub with
    | 0 => d
    | 1 => (lane : Int) - d
    | 2 => lane + d
    | _ => (lane ^^^ d : Nat)
  if 0 ≤ j ∧ j < width then j.toNat else lane

def sigShfl (h : Hdr) (f : FmtA) (c : Ctx) : Sig :=
  let wide := f.m.ty == 7
  sigA c.w16 h f
    { plainMod f.m with
      dst := .reg wide, a := .reg wide, b := .reg false, ty := f.m.ty == 9 || wide, ds := .either,
      sub := decide (f.m.sub.toNat < 4), lat := 4 }

def execShfl (h : Hdr) (f : FmtA) (s : State) : Host.Outcome State Fault Refusal :=
  let wide := f.m.ty == 7
  issue h always (sigShfl h f)
    (fun c _ => .alu
      { writes := c.dstAll f.m.ds h.dst wide (fun l =>
          c.src 0 f.m.sa f.sa wide (shflLane f.m.sub.toNat c.w.width l (c.src 1 f.m.sb f.sb false l))) }) s

/-- Combination of a list of element bits under an operation of R167: the bits of the result. -/
def combine (op ty : Nat) (sat : Bool) (l : List Nat) : Nat :=
  let w := codeWidth ty
  let v := l.map (decodeInt ty)
  let raw := l.map (fun x => x % 2 ^ w)
  match op with
  | 0 => reduceInt ty sat (v.foldl (· + ·) 0)
  | 1 => wrapBits w (v.foldl min (intMax ty))
  | 2 => wrapBits w (v.foldl max (intMin ty))
  | 3 => raw.foldl (· &&& ·) (2 ^ w - 1)
  | 4 => raw.foldl (· ||| ·) 0
  | _ => raw.foldl (· ^^^ ·) 0

def sigIred (h : Hdr) (f : FmtA) (scan : Bool) (c : Ctx) : Sig :=
  let sub := f.m.sub.toNat
  let wide := isWide f.m.ty.toNat
  sigA c.w16 h f
    { plainMod f.m with
      dst := .reg wide, a := .any wide, ty := tyIn f.m 6 13, sat := !f.m.sat || sub % 8 == 0,
      ds := if scan then .zero else .either,
      sub := decide (sub % 8 < 6) && (if scan then sub / 8 % 2 == 0 else sub / 8 == 0), sb := true, pipe := true }

def execIred (h : Hdr) (f : FmtA) (s : State) : Host.Outcome State Fault Refusal :=
  let ty := f.m.ty.toNat
  issue h always (sigIred h f false)
    (fun c _ => .alu
      { writes :=
          let x := extendElem ty (combine (f.m.sub.toNat % 8) ty f.m.sat (c.lanes.map (c.src 0 f.m.sa f.sa (isWide ty))))
          c.dstAll f.m.ds h.dst (isWide ty) (fun _ => x) }) s

def execIscan (h : Hdr) (f : FmtA) (s : State) : Host.Outcome State Fault Refusal :=
  let ty := f.m.ty.toNat
  let ex := f.m.sub.getLsbD 4
  issue h always (sigIred h f true)
    (fun c _ => .alu
      { writes := c.dstAll false h.dst (isWide ty) (fun l =>
          extendElem ty (combine (f.m.sub.toNat % 8) ty f.m.sat
            ((c.lanes.filter (fun j => decide (j < l) || (!ex && j == l))).map (c.src 0 f.m.sa f.sa (isWide ty))))) }) s

end Sys2Proof.Machine
end

