-- ==== Sys2Proof/Machine/Registers.lean ====
section
/-! DEFINITION. The device's registers by address (12 R335, 13 R369, 14 R397, R412, R414, R415): what each reads as, and what a
write of it does. Widths are in bits. An access of another width than the register's own, or of an offset that is not listed, reads
0 and writes nothing. -/

namespace Sys2Proof.Machine

/-! ## Partition control block -/

/-- Dies of a partition as a mask. -/
def dieMask (s : State) (p : Nat) : Nat := ((s.diesOf p).map (fun d => 2 ^ d)).sum

/-- R335. -/
def partRead (s : State) (p off width : Nat) : Nat :=
  let x := s.part p
  if width = 64 then
    match off with
    | 0x00 => p + dieMask s p * 4 + s.root.mode * 2 ^ 8
    | 0x08 => x.ctxBase.toNat
    | 0x10 => x.sqBase.toNat
    | 0x18 => x.budBase.toNat
    | 0x20 => x.lqCfg.toNat
    | 0x28 => x.lq.length + x.ring.length * 2 ^ 32
    | 0x30 => x.prctl.toNat
    | 0x38 => x.gidNext
    | _ => 0
  else if width = 32 then
    if off = 0x40 then x.wdctl.toNat
    else if 0x1800 ≤ off ∧ off < 0x2000 ∧ off % 8 = 0 then (SMap.get 0#32 x.sqHead ((off - 0x1800) / 8)).toNat
    else 0
  else if width = 128 ∧ 0x400 ≤ off ∧ off < 0x800 ∧ off % 16 = 0 then (SMap.get 0#128 x.mwinReg ((off - 0x400) / 16)).toNat
  else 0

/-- The fields of a memory window (R340). -/
def windowFields (v : Nat) : Nat :=
  field v 17 0 + field v 63 46 * 2 ^ 46 + field v 64 64 * 2 ^ 64 + field v 71 68 * 2 ^ 68

/-- LQCFG: ignored while the ring holds entries; capacities above 20 read as 20 (R344). -/
def writeLqcfg (p : Partition) (v : Nat) : Partition :=
  if p.ring.isEmpty then { p with lqCfg := BitVec.ofNat 64 (field v 63 12 * 2 ^ 12 + min 20 (field v 4 0)) } else p

/-- PRCTL without GO keeps ST (R366). -/
def writePrctl (s : State) (p v : Nat) : State :=
  let d : DWord := BitVec.ofNat 64 v
  if d.getLsbD 10 then
    if prctlStarts s p d 0 then startPreempt s p d else if prctlStarts s p d 1 then startTerminate s p d else s
  else
    s.updPart p (fun x =>
      { x with
        prctl := BitVec.ofNat 64 (field v 63 32 * 2 ^ 32 + field x.prctl.toNat 18 16 * 2 ^ 16 + field v 12 11 * 2 ^ 11 + field v 9 0) })

/-- A page-aligned base. -/
def baseOf (v : Nat) : DWord := BitVec.ofNat 64 (v / 4096 * 4096)

/-- Admission is off and no team lives in the partition: the windows are rewritten before they are used (R421). Otherwise a write waits
for a FENCET (R340, log 90). -/
def partIdle (s : State) (p : Nat) : Bool :=
  !(s.part p).wdctl.getLsbD 0 && s.teams.all (fun t => s.partOf t.core != p || t.res == .ended)

def partWrite (s : State) (port : Option Nat) (p off width v : Nat) : State :=
  if width = 64 then
    match off with
    | 0x08 => s.updPart p (fun x => { x with ctxBase := baseOf v })
    | 0x10 => s.updPart p (fun x => { x with sqBase := baseOf v })
    | 0x18 => s.updPart p (fun x => { x with budBase := baseOf v })
    | 0x20 => s.updPart p (fun x => writeLqcfg x v)
    | 0x30 => writePrctl s p v
    | _ => s
  else if width = 32 then
    if off = 0x40 then
      let en := if s.root.boot = 6 then v % 2 else 0
      s.updPart p (fun x => { x with wdctl := BitVec.ofNat 32 (en + v / 2 % 2 * 2) })
    else if 0x1000 ≤ off ∧ off < 0x1800 ∧ off % 8 = 0 then
      let q := (off - 0x1000) / 8
      match port with
      | some n => portDoorbell s n p q (BitVec.ofNat 32 v)
      | none => doorbell s p q (BitVec.ofNat 32 v)
    else s
  else if width = 128 ∧ 0x400 ≤ off ∧ off < 0x800 ∧ off % 16 = 0 then
    s.updPart p (fun x =>
      let w := SMap.set 0#128 x.mwinReg ((off - 0x400) / 16) (BitVec.ofNat 128 (windowFields v))
      { x with mwinReg := w, mwin := if partIdle s p then w else x.mwin })
  else s

/-! ## Core control block -/

/-- In-flight uses of a table slot (R339). -/
def slotUses (s : State) (slot : Nat) : Nat :=
  (s.loads.filter (fun o => o.table == some slot)).length + (s.mops.filter (fun o => o.table == some slot)).length
    + (s.cores.map (fun x => (x.tableOps.filter (fun o => o.slot == slot)).length)).sum

/-- R369. -/
def coreRead (s : State) (c off width : Nat) : Nat :=
  let x := s.core c
  if 0x1000 ≤ off ∧ off < 0x2000 then
    match s.wave? (selected s c) with
    | none => 0
    | some w =>
      if w.trap.isNone ∨ off % (width / 8) ≠ 0 then 0
      else ((List.range (width / 32)).map (fun i => pwRead { w with wcw := s.seenWcw w } (off / 4 * 4 + 4 * i) * 2 ^ (32 * i))).sum
  else if width = 64 then
    match off with
    | 0x00 => c + dieOf c * 2 ^ 8 + (if x.diag then 2 ^ 10 else 0) + (if x.oos then 2 ^ 11 else 0)
    | 0x08 => x.tqBase.toNat
    | 0x58 => field x.tuse.toNat 11 0 + slotUses s (field x.tuse.toNat 11 0) % 2 ^ 16 * 2 ^ 32
    | 0x60 => x.cecnt
    | _ => 0
  else if width = 32 then
    match off with
    | 0x10 => x.tqCfg.toNat
    | 0x18 => x.tqHead.toNat
    | 0x20 => x.tqTail.toNat
    | 0x28 => x.sfHead % 32
    | 0x30 => x.sfTail % 32
    | 0x38 => x.pwsel.toNat
    | 0x48 => x.wstat.toNat
    | 0x50 => x.tinv.toNat
    | _ => 0
  else if width = 256 ∧ 0x400 ≤ off ∧ off < 0x800 ∧ off % 32 = 0 then (SMap.get 0#256 x.sfRec ((off - 0x400) / 32)).toNat
  else 0

/-- A ring configuration: log2 of the capacity is held between 4 and 12 (R369, R397). -/
def ringLog (v : Nat) : Nat := max 4 (min 12 (v % 16))

/-- SFHEAD: the new head is the index at or after the old one, up to the tail, that the value names modulo 32 (R379, R380). -/
def headTo (head tail v : Nat) : Nat := min tail (head + (v % 32 + 32 - head % 32) % 32)

def coreWrite (s : State) (c off width v : Nat) : State :=
  if 192 ≤ c then s
  else if 0x1000 ≤ off ∧ off < 0x2000 then
    if width % 8 = 0 ∧ off % (width / 8) = 0 then pwStore s c off (natToBytes (width / 8) v) else s
  else if width = 64 then
    match off with
    | 0x08 => s.updCore c (fun x => { x with tqBase := baseOf v })
    | 0x58 => s.updCore c (fun x => { x with tuse := BitVec.ofNat 64 (field v 11 0) })
    | _ => s
  else if width = 32 then
    match off with
    | 0x10 =>
      let s1 := s.updCore c (fun x => { x with tqCfg := BitVec.ofNat 32 (ringLog v + field v 4 4 * 16) })
      drainTrapQueue s1 c (s1.core c).tqWait.length
    | 0x18 =>
      let s1 := s.updCore c (fun x => { x with tqHead := BitVec.ofNat 32 v })
      drainTrapQueue s1 c (s1.core c).tqWait.length
    | 0x28 => s.updCore c (fun x => { x with sfHead := headTo x.sfHead x.sfTail v })
    | 0x38 => s.updCore c (fun x => { x with pwsel := BitVec.ofNat 32 (v % 128) })
    | 0x40 => wcmd s c (field v 3 0) (field v 7 4)
    | 0x50 =>
      if v.testBit 16 then tinvStart s c (field v 9 0)
      else s.updCore c (fun x => { x with tinv := if x.tinv.getLsbD 17 then BitVec.ofNat 32 (2 ^ 17 + field v 9 0) else x.tinv })
    | _ => s
  else if width = 128 ∧ off = 0x70 then tcmd s c (field v 39 0) (field v 71 40) (field v 75 72) (field v 79 76)
  else s

/-! ## Port block -/

/-- R397. -/
def portRead (s : State) (port part off width : Nat) : Nat :=
  let x := s.port port
  let l := s.lease
  let bit (b : Bool) (n : Nat) : Nat := if b then 2 ^ n else 0
  if width = 64 then
    match off with
    | 0x4000 => port + bit x.cxlCache 1 + bit x.cxlMem 2 + x.width.toNat * 2 ^ 3
    | 0x4010 => l.hlexp
    | 0x4080 => x.errBase.toNat
    | _ => 0
  else if width = 32 then
    match off with
    | 0x4018 => l.active + bit l.held 1 + bit l.expired 2 + l.takeovers.toNat * 2 ^ 8 + l.ignored.toNat * 2 ^ 16
    | 0x4040 => s.root.boot + (if s.root.boot = 15 then s.root.failCode * 16 else 0)
    | 0x4088 => x.errCfg.toNat
    | 0x4090 => x.errHead.toNat
    | 0x4098 => x.errTail.toNat
    | 0x40A0 => x.errLost.toNat
    | _ =>
      if 0x5000 ≤ off ∧ off < 0x6000 ∧ off % 4 = 0 then (SMap.get 0#32 (s.part part).pasidReg ((off - 0x5000) / 4)).toNat else 0
  else if width = 128 ∧ 0x8000 ≤ off ∧ off < 0xC000 ∧ off % 16 = 0 then (regionEntry s part ((off - 0x8000) / 16)).toNat
  else 0

/-- PASIDc: a binding that was not valid takes effect at once, a valid one at the next TINV of the context (R400). -/
def writePasid (s : State) (part c v : Nat) : State :=
  let x : Word := BitVec.ofNat 32 (field v 31 31 * 2 ^ 31 + field v 20 0)
  s.updPart part (fun p =>
    { p with
      pasidReg := SMap.set 0#32 p.pasidReg c x
      pasid := if (SMap.get 0#32 p.pasid c).getLsbD 31 then p.pasid else SMap.set 0#32 p.pasid c x })

/-- RGNn as a whole: nothing while BUSY, or where the entry as written has a STATE that needs CXL.cache on a port without it, be it the state
that stands already (R402); the place of the region at once, its state by R403. An entry that becomes valid as CONTESTED past
the limit of 256 is HOST. -/
def writeRegion (s : State) (port part n v : Nat) : State :=
  let e := regionEntry s part n
  if e.getLsbD 66 || (!v.testBit 67 && v % 4 != 1 && !(s.port port).cxlCache) then s
  else
    let full := v.testBit 64 && !e.getLsbD 64 && decide (256 ≤ contestedCount s part)
    let st := if e.toNat % 4 = 3 ∧ full then 1 else e.toNat % 4
    let body := field v 67 67 * 2 ^ 67 + field v 64 64 * 2 ^ 64 + field v 63 12 * 2 ^ 12 + field v 6 2 * 2 ^ 2 + st
    let s1 := s.updPart part (fun p => { p with rgn := SMap.set 0 p.rgn n (BitVec.ofNat 128 body) })
    if v % 4 = e.toNat % 4 then s1 else writeRegionState s1 port part n (v % 4)

def portWrite (s : State) (port part off width v : Nat) : State :=
  if width = 64 then
    match off with
    | 0x4080 => s.updPort port (fun x => { x with errBase := baseOf v })
    | _ => s
  else if width = 32 then
    match off with
    | 0x4008 => renewLease s port (v % 2 ^ 16)
    | 0x4088 =>
      let s1 := s.updPort port (fun x => { x with errCfg := BitVec.ofNat 32 (ringLog v + field v 4 4 * 16 + field v 31 16 * 2 ^ 16) })
      drainErrors s1 port (s1.port port).errWait.length
    | 0x4090 =>
      let s1 := s.updPort port (fun x =>
        let used := (x.errTail - BitVec.ofNat 32 v).toNat
        { x with errHead := BitVec.ofNat 32 v, errRing := x.errRing.drop (x.errRing.length - used) })
      drainErrors s1 port (s1.port port).errWait.length
    | _ => if 0x5000 ≤ off ∧ off < 0x6000 ∧ off % 4 = 0 then writePasid s part ((off - 0x5000) / 4) v else s
  else if width = 128 ∧ 0x8000 ≤ off ∧ off < 0xC000 ∧ off % 16 = 0 then writeRegion s port part ((off - 0x8000) / 16) v
  else s

/-! ## World registers, links, connections -/

/-- R415: read-only once normal service is reached. -/
def worldRead (s : State) (off width : Nat) : Nat :=
  if width = 192 ∧ off = 0 then s.root.sbcore.toNat
  else if width = 64 ∧ off = 0x20 then s.root.sblat.toNat
  else if width = 32 ∧ off = 0x28 then s.root.sbio.toNat
  else if width = 128 ∧ 0x100 ≤ off ∧ off < 0x500 ∧ off % 16 = 0 then (SMap.get 0#128 s.root.srgn ((off - 0x100) / 16)).toNat
  else 0

def worldWrite (s : State) (off width v : Nat) : State :=
  if 6 ≤ s.root.boot then s
  else if width = 192 ∧ off = 0 then { s with root := { s.root with sbcore := BitVec.ofNat 192 v } }
  else if width = 64 ∧ off = 0x20 then { s with root := { s.root with sblat := BitVec.ofNat 64 (v % 2 ^ 48) } }
  else if width = 32 ∧ off = 0x28 then { s with root := { s.root with sbio := BitVec.ofNat 32 (v % 2 ^ 23) } }
  else if width = 128 ∧ 0x100 ≤ off ∧ off < 0x500 ∧ off % 16 = 0 then
    { s with root := { s.root with
      srgn := SMap.set 0#128 s.root.srgn ((off - 0x100) / 16) (BitVec.ofNat 128 (field v 71 12 * 2 ^ 12)) } }
  else s

/-- R412. -/
def linkRead (s : State) (p off width : Nat) : Nat :=
  let l := s.link p
  let bit (b : Bool) (n : Nat) : Nat := if b then 2 ^ n else 0
  if width = 32 ∧ off = 0 then
    bit l.up 0 + bit l.detour 1 + l.relay.toNat * 4 + bit l.txSlot 6 + bit l.rxSlot 7 + bit l.tx0.valid 8 + bit l.tx1.valid 9
      + l.fails.toNat * 2 ^ 10 + l.failTotal.toNat * 2 ^ 16
  else if width = 64 ∧ off = 8 then (l.tx l.txSlot).ic
  else if width = 32 ∧ off = 0x10 then l.ctl.toNat
  else 0

def linkWrite (s : State) (p off width v : Nat) : State :=
  if 15 ≤ p then s
  else if width = 32 ∧ off = 0x10 then setLinkCtl s p v
  else if width = 512 then
    match off with
    | 0x100 => writeTxKey s p false (BitVec.ofNat 512 v)
    | 0x140 => writeTxKey s p true (BitVec.ofNat 512 v)
    | 0x200 => writeRxKey s p false (BitVec.ofNat 512 v)
    | 0x240 => writeRxKey s p true (BitVec.ofNat 512 v)
    | _ => s
  else s

/-! ## By address -/

/-- Where a physical address leads. -/
inductive RegPlace where
  | part (p off : Nat)
  | core (c off : Nat)
  | combwin (c off : Nat)
  | world (off : Nat)
  | link (p off : Nat)
  | conn (p : Nat)
  | memory (pa : Nat)
  deriving DecidableEq, Repr

def regPlace (pa : Nat) : RegPlace :=
  if 0xFFF0000000 ≤ pa ∧ pa < 0xFFF0040000 then .part ((pa - 0xFFF0000000) / 0x10000) (pa % 0x10000)
  else if 0xFFF1000000 ≤ pa ∧ pa < 0xFFF1000000 + 192 * 0x10000 then .core ((pa - 0xFFF1000000) / 0x10000) (pa % 0x10000)
  else if 0xFE00000000 ≤ pa ∧ pa < 0xFE00000000 + 192 * 0x200000 then .combwin ((pa - 0xFE00000000) / 0x200000) (pa % 0x200000)
  else if 0xFFF3000000 ≤ pa ∧ pa < 0xFFF3001000 then .world (pa % 0x1000)
  else if 0xFFF4000000 ≤ pa ∧ pa < 0xFFF400F000 then .link ((pa - 0xFFF4000000) / 0x1000) (pa % 0x1000)
  else if 0xFFF5000000 ≤ pa ∧ pa < 0xFFF5040000 ∧ pa % 0x10000 = 0 then .conn ((pa - 0xFFF5000000) / 0x10000)
  else .memory pa

/-- A store of a supervisor core or the root core, each byte in turn. -/
def putBytes (s : State) (t : Target) (width v : Nat) : State := s.setBytes t (natToBytes (width / 8) v)

/-- Who accesses by address: the supervisor core of a compute core, or the root core, of the secure world (R415, log 128). -/
def sideSecure (s : State) (core : Option Nat) : Bool :=
  match core with
  | some c => s.secureCore c
  | none => true

/-- Some of `n` bytes of device memory lie in a secure region, which an access of the other world does not reach (R416). -/
def sideShut (s : State) (core : Option Nat) (a n : Nat) : Bool :=
  !sideSecure s core && (List.range n).any (fun i => (secureRegion s.root.srgn (a + i)).isSome)

/-- A supervisor core or the root core writes device memory: outside its windows, and in a secure region of which it is not (R415, R416),
nothing happens. The first component says that the store is over; one that meets a lease, a pending store or a SHARED region waits, and
moves the region (R209, R212, R403). -/
def sideStore (s : State) (core : Option Nat) (a width v : Nat) : Bool × State :=
  let n := width / 8
  if core.any (fun c => !s.inWindow (s.partOf c) a) || sideShut s core a n then (true, s)
  else if s.writable (.dev a) n then (true, clearWritten (touchRings (putBytes s (.dev a) width v) (.dev a) n) a n)
  else (false, contestAll s (.dev a) n)

/-- A store through COMBWIN: to a bank that is being changed it waits for the end of the change (R42). -/
def windowStore (s : State) (c off width v : Nat) : State :=
  if bankBusy s (.rawComb c off) then
    s.updCore c (fun x => { x with
      combWait := x.combWait ++ (natToBytes (width / 8) v).zipIdx.map (fun p => (off + p.2, p.1)) })
  else touchRings (putBytes s (.rawComb c off) width v) (.rawComb c off) (width / 8)

/-- A supervisor core, that of a compute core, or the root core (none) writes (R335, R369, R412, R414, R415); the first component says that
it is over. -/
def sideWrite (s : State) (core : Option Nat) (pa width v : Nat) : Bool × State :=
  match regPlace pa with
  | .part p off => (true, partWrite s none p off width v)
  | .core c off => (true, coreWrite s c off width v)
  | .combwin c off => (true, windowStore s c off width v)
  | .world off => (true, if core.isNone then worldWrite s off width v else s)
  | .link p off => (true, if core.isNone then linkWrite s p off width v else s)
  | .conn p => (true, if width = 64 then s.updPart p (fun x => { x with conBase := BitVec.ofNat 64 v }) else s)
  | .memory a => sideStore s core a width v

def coreSideWrite (s : State) (core : Option Nat) (pa width v : Nat) : State := (sideWrite s core pa width v).2

/-- What a supervisor core or the root core reads at an address: zero in a secure region that it does not reach (R416). -/
def coreSideRead (s : State) (core : Option Nat) (pa width : Nat) : Nat :=
  match regPlace pa with
  | .part p off => partRead s p off width
  | .core c off => coreRead s c off width
  | .combwin c off => s.readAt (.rawComb c off) (width / 8)
  | .world off => worldRead s off width
  | .link p off => linkRead s p off width
  | .conn p => if width = 64 then (s.part p).conBase.toNat else 0
  | .memory a =>
    if core.any (fun c => !s.inWindow (s.partOf c) a) || sideShut s core a (width / 8) then 0 else s.readAt (.dev a) (width / 8)

/-- A host driver writes at an offset of a function's BAR 0 (R335, R396), or CONNBASE by its address (R414). -/
def hostSideWrite (s : State) (port fn off width v : Nat) : State :=
  match functionPart s.root.mode port fn with
  | none => s
  | some p =>
    match regPlace off with
    | .conn q => if q = p ∧ width = 64 then s.updPart p (fun x => { x with conBase := BitVec.ofNat 64 v }) else s
    | _ => if off < 0x4000 then partWrite s (some port) p off width v else portWrite s port p off width v

/-- What the host reads. Before its port answers, and after bring-up has failed, only BOOTSTAT reads; port 0 alone has it before
state 3 (R418, log 129). -/
def hostSideRead (s : State) (port fn off width : Nat) : Nat :=
  match functionPart s.root.mode port fn with
  | none => 0
  | some p =>
    if portAnswers s port then (if off < 0x4000 then partRead s p off width else portRead s port p off width)
    else if off = 0x4040 ∧ (port = 0 ∨ (3 ≤ s.root.boot ∧ port < 2 ∧ (s.port port).up)) then portRead s port p off width
    else 0

/-- REGISTER_WRITE: an aligned access of the register's own width. -/
def execRegisterWrite (agent : RegAgent) (addr width value : Nat) (s : State) : Host.Outcome State Fault Refusal :=
  let v := value % 2 ^ width
  if width % 8 ≠ 0 then .next s
  else
    match agent with
    | .supervisor c => .next (coreSideWrite s (some c) addr width v)
    | .root => .next (coreSideWrite s none addr width v)
    | .host port fn => .next (if portAnswers s port then hostSideWrite s port fn addr width v else s)

end Sys2Proof.Machine
end

