-- ==== Sys2Proof/Machine/SmallMatrix.lean ====
section
/-! DEFINITION. The small-matrix instructions (06 R189-R199) over windows of encodings (02 R63). -/

namespace Sys2Proof.Machine

/-! ## Steps that round and raise flags -/

/-- Format and rounding mode of an instruction. -/
structure MxFmt where
  ty : Nat
  mode : Nat
  deriving DecidableEq, Repr

def MxFmt.dec (p : MxFmt) (x : Nat) : Val := decodeFloat p.ty x

def MxFmt.nan (p : MxFmt) : Nat := (floatFmt p.ty).nan

def MxFmt.one (p : MxFmt) : Nat := (roundVal p.ty 0 false Val.one).1

/-- fma(±a, b, c) after earlier flags. -/
def MxFmt.fma (p : MxFmt) (neg : Bool) (a b : Nat) (c : FRes) : FRes :=
  let x := p.dec a
  let r := roundRes p.ty p.mode false (fFma p.mode (if neg then x.negate else x) (p.dec b) (p.dec c.1))
  (r.1, r.2 ||| c.2)

def MxFmt.div (p : MxFmt) (a : FRes) (b : Nat) : FRes :=
  let r := fDiv p.ty p.mode false (p.dec a.1) (p.dec b)
  (r.1, r.2 ||| a.2)

/-- The failure test of R191. A comparison raises no flag, of a signalling NaN neither (log 133). -/
def pivotFails (q tol : Val) : Bool :=
  let t := if !tol.isNan && decide (Val.cmp tol Val.posZero < 0) then Val.posZero else tol
  q.isNan || t.isNan || decide (Val.cmp q t ≤ 0)

abbrev Mat := List Nat

def Mat.at_ (m : Mat) (n i j : Nat) : Nat := m.getD (n * i + j) 0

def Mat.put (m : Mat) (n i j x : Nat) : Mat := m.set (n * i + j) x

/-- Pairs (i, j) of an n × n window, row by row. -/
def cells (n : Nat) : List (Nat × Nat) := ((List.range n).map (fun i => (List.range n).map (fun j => (i, j)))).flatten

/-- Numbers from `a` up to, not including, `b`. -/
def span (a b : Nat) : List Nat := (List.range (b - a)).map (fun i => a + i)

/-! ## Products -/

/-- R195 for one output element over `n` products. -/
def mxDot (p : MxFmt) (a b : Nat → Nat) (n c : Nat) : FRes :=
  (List.range n).foldl (fun s k => p.fma false (a k) (b k) s) (c, 0)

def mxProduct (p : MxFmt) (n sub : Nat) (a b c : Mat) : List FRes :=
  let ta := sub % 2 = 1
  let tb := sub / 2 % 2 = 1
  let x (i k : Nat) : Nat := if ta then a.at_ n k i else a.at_ n i k
  if sub / 4 % 2 = 1 then (List.range n).map (fun i => mxDot p (x i) (fun k => b.getD k 0) n (c.getD i 0))
  else
    (cells n).map (fun q =>
      mxDot p (x q.1) (fun k => if tb then b.at_ n q.2 k else b.at_ n k q.2) n (c.at_ n q.1 q.2))

/-! ## Factorisations -/

structure Factor where
  m : Mat
  perm : List Nat
  failed : Bool
  flags : FlagBits
  deriving DecidableEq, Repr

/-- Column `j` of R196. -/
def cholStep (p : MxFmt) (n : Nat) (a : Mat) (tol : Val) (f : Factor) (j : Nat) : Factor :=
  if f.failed then f
  else
    let l := f.m
    let s := (List.range j).foldl (fun s k => p.fma true (l.at_ n j k) (l.at_ n j k) s) (a.at_ n j j, f.flags)
    if pivotFails (p.dec s.1) tol then
      let bad := (cells n).filter (fun q => decide (q.2 ≤ q.1) && decide (j ≤ q.2) && q != (j, j))
      { f with m := (bad.foldl (fun (m : Mat) q => m.put n q.1 q.2 p.nan) l).put n j j s.1, failed := true, flags := s.2 }
    else
      let r := fSqrt p.ty p.mode false (p.dec s.1)
      let start : Mat × FlagBits := (l.put n j j r.1, s.2 ||| r.2)
      let e := (span (j + 1) n).foldl (fun (x : Mat × FlagBits) i =>
        let t := (List.range j).foldl (fun t k => p.fma true (x.1.at_ n i k) (x.1.at_ n j k) t) (a.at_ n i j, x.2)
        let q := p.div t (x.1.at_ n j j)
        (x.1.put n i j q.1, q.2)) start
      { f with m := e.1, flags := e.2 }

/-- R196. -/
def mxChol (p : MxFmt) (n : Nat) (a : Mat) (tol : Val) : Factor :=
  (List.range n).foldl (cholStep p n a tol) { m := List.replicate (n * n) 0, perm := [], failed := false, flags := 0 }

/-- Row `r` replaces row `p` as pivot when its magnitude is larger; a NaN is larger than any number (R197). -/
def largerPivot (p : MxFmt) (x y : Nat) : Bool :=
  let a := (p.dec x).abs
  let b := (p.dec y).abs
  if b.isNan then false else a.isNan || decide (0 < Val.cmp a b)

def swapRows (n : Nat) (m : Mat) (i j : Nat) : Mat :=
  (List.range n).foldl (fun (w : Mat) k => (w.put n i k (m.at_ n j k)).put n j k (m.at_ n i k)) m

/-- Step `j` of R197. -/
def luStep (p : MxFmt) (n : Nat) (tol : Val) (f : Factor) (j : Nat) : Factor :=
  if f.failed then f
  else
    let w := f.m
    let r := (span (j + 1) n).foldl (fun b r => if largerPivot p (w.at_ n r j) (w.at_ n b j) then r else b) j
    if pivotFails (p.dec (w.at_ n r j)).abs tol then { f with failed := true }
    else
      let w := swapRows n w j r
      let perm := (f.perm.set j (f.perm.getD r 0)).set r (f.perm.getD j 0)
      let e := (span (j + 1) n).foldl (fun (x : Mat × FlagBits) i =>
        let q := p.div (x.1.at_ n i j, x.2) (x.1.at_ n j j)
        (span (j + 1) n).foldl (fun (y : Mat × FlagBits) k =>
          let t := p.fma true q.1 (y.1.at_ n j k) (y.1.at_ n i k, y.2)
          (y.1.put n i k t.1, t.2)) (x.1.put n i j q.1, q.2)) (w, f.flags)
      { f with m := e.1, perm := perm, flags := e.2 }

def mxLu (p : MxFmt) (n : Nat) (a : Mat) (tol : Val) : Factor :=
  (List.range n).foldl (luStep p n tol) { m := a, perm := List.range n, failed := false, flags := 0 }

/-- R197: three bits for each row. -/
def permWord (l : List Nat) : Nat := l.zipIdx.foldl (fun a p => a + p.1 * 8 ^ p.2) 0

/-! ## Solves -/

/-- The forward pass of R198 with lower triangle `g`. -/
def mxFwd (p : MxFmt) (n : Nat) (g : Nat → Nat → Nat) (c : Mat) (unit : Bool) (fl : FlagBits) : Mat × FlagBits :=
  (List.range n).foldl (fun (y : Mat × FlagBits) i =>
    let t := (List.range i).foldl (fun t k => p.fma true (g i k) (y.1.getD k 0) t) (c.getD i 0, y.2)
    let q := if unit then t else p.div t (g i i)
    (y.1 ++ [q.1], q.2)) ([], fl)

/-- The backward pass with upper triangle `u`. -/
def mxBwd (p : MxFmt) (n : Nat) (u : Nat → Nat → Nat) (y : Mat) (fl : FlagBits) : Mat × FlagBits :=
  (List.range n).reverse.foldl (fun (x : Mat × FlagBits) i =>
    let t := (span (i + 1) n).foldl (fun t k => p.fma true (u i k) (x.1.getD k 0) t) (y.getD i 0, x.2)
    let q := p.div t (u i i)
    (x.1.set i q.1, q.2)) (List.replicate n 0, fl)

def mxSolveLu (p : MxFmt) (n : Nat) (m : Mat) (perm : List Nat) (b : Mat) (fl : FlagBits) : Mat × FlagBits :=
  let c := (List.range n).map (fun i => let r := perm.getD i 0; if r < n then b.getD r 0 else p.nan)
  let y := mxFwd p n (m.at_ n) c true fl
  mxBwd p n (m.at_ n) y.1 y.2

/-- R198. -/
def mxSolve (p : MxFmt) (n sub : Nat) (m : Mat) (perm : List Nat) (b : Mat) : Mat × FlagBits :=
  match sub with
  | 0 =>
    let y := mxFwd p n (m.at_ n) b false 0
    mxBwd p n (fun i k => m.at_ n k i) y.1 y.2
  | 1 => mxSolveLu p n m perm b 0
  | 2 => mxFwd p n (m.at_ n) b false 0
  | 3 => mxBwd p n (m.at_ n) b 0
  | _ => mxFwd p n (m.at_ n) b true 0

/-- R199: the inverse, column by column. -/
def mxInverse (p : MxFmt) (n : Nat) (a : Mat) (tol : Val) : Factor :=
  let f := mxLu p n a tol
  if f.failed then { f with m := List.replicate (n * n) p.nan }
  else
    let zero : Mat := List.replicate n 0
    let r := (List.range n).foldl (fun (x : Mat × FlagBits) c =>
      let v := mxSolveLu p n f.m f.perm (zero.set c p.one) x.2
      ((List.range n).foldl (fun (m : Mat) i => m.put n i c (v.1.getD i 0)) x.1, v.2)) (List.replicate (n * n) 0, f.flags)
    { f with m := r.1, flags := r.2 }

/-! ## Windows -/

def mxOrder (f : FmtX) : Nat := f.m.aux.toNat

def mxWide (f : FmtX) : Bool := f.m.ty == 0

/-- Registers of `k` elements. -/
def mxRegs (f : FmtX) (k : Nat) : Nat := if mxWide f then 2 * k else k

/-- `k` elements of a window from base `b`. -/
def Ctx.window (c : Ctx) (wide : Bool) (b k lane : Nat) : Mat :=
  (List.range k).map (fun i =>
    if wide then (c.w.rdV (b + 2 * i) lane).toNat + 2 ^ 32 * (c.w.rdV (b + 2 * i + 1) lane).toNat
    else (c.w.rdV (b + i) lane).toNat)

/-- Writes of elements to a window. -/
def winWr (wide : Bool) (b lane : Nat) (l : Mat) : List RegWr :=
  (l.zipIdx.map (fun p => dstWr false (BitVec.ofNat 8 (if wide then b + 2 * p.2 else b + p.2)) wide lane p.1)).flatten

/-- What the instructions share: TYPE, order, rounding where there is one, a window of `out` registers at DST. -/
def useMx (h : Hdr) (f : FmtX) (out : Nat) (rounds : Bool) : UseX :=
  { dst := .other (h.dst.toNat % 2 == 0) [mxOpnd h.dst.toNat out], ty := decide (f.m.ty.toNat < 2),
    tile := if rounds then decide (f.m.tile.toNat < 6) else f.m.tile == 0,
    aux := decide (1 ≤ mxOrder f) && decide (mxOrder f ≤ 6), sub3 := f.m.sub3 == 0, sb := true, pipe := true }

def Ctx.mxFmt (c : Ctx) (f : FmtX) : MxFmt := { ty := f.m.ty.toNat, mode := c.mode (f.m.tile.toNat % 8) }

/-- Every lane's elements to the window at DST, with flags. -/
def mxAlu (c : Ctx) (h : Hdr) (f : FmtX) (r : Nat → Mat × FlagBits) : Alu :=
  { writes := (c.lanes.map (fun l => winWr (mxWide f) h.dst.toNat l (r l).1)).flatten
    flags := orAll (c.lanes.map (fun l => (r l).2)) }

/-! ## The instructions -/

/-- R193. -/
def mxmovBody (h : Hdr) (f : FmtX) (c : Ctx) (_ : State) : Exit :=
  let n := mxOrder f
  let p := c.mxFmt f
  .alu (mxAlu c h f (fun l =>
    let a := c.window (mxWide f) f.sa.reg.toNat (n * n) l
    ((cells n).map (fun q =>
      match f.m.sub3.toNat with
      | 0 => a.at_ n q.1 q.2
      | 1 => if q.1 = q.2 then p.one else 0
      | 2 => 0
      | _ => a.at_ n (max q.1 q.2) (min q.1 q.2)), 0)))

def sigMxmov (h : Hdr) (f : FmtX) (c : Ctx) : Sig :=
  let k := mxRegs f (mxOrder f * mxOrder f)
  let sub := f.m.sub3.toNat
  sigX c.w16 h f
    { useMx h f k false with a := if sub = 1 ∨ sub = 2 then .unused else .mx k, sub3 := decide (sub < 4) }

def execMxmov (h : Hdr) (f : FmtX) (s : State) : Host.Outcome State Fault Refusal :=
  issue h always (sigMxmov h f)
    (mxmovBody h f) s

def sigMxtrn (h : Hdr) (f : FmtX) (c : Ctx) : Sig :=
  let n := mxOrder f
  let k := mxRegs f (n * n)
  sigX c.w16 h f { useMx h f k false with a := .mx k }

def execMxtrn (h : Hdr) (f : FmtX) (s : State) : Host.Outcome State Fault Refusal :=
  let n := mxOrder f
  issue h always (sigMxtrn h f)
    (fun c _ => .alu (mxAlu c h f (fun l =>
      let a := c.window (mxWide f) f.sa.reg.toNat (n * n) l
      ((cells n).map (fun q => a.at_ n q.2 q.1), 0)))) s

def sigMxmul (h : Hdr) (f : FmtX) (mad : Bool) (c : Ctx) : Sig :=
  let n := mxOrder f
  let v := f.m.sub3.getLsbD 2
  let k := mxRegs f (n * n)
  let o := if v then mxRegs f n else k
  sigX c.w16 h f
    { useMx h f o true with
      a := .mx k, b := .mx o, c := if mad then .mx o else .unused, sub3 := !(v && f.m.sub3.getLsbD 1) }

def mxmulBody (h : Hdr) (f : FmtX) (mad : Bool) (c : Ctx) (_ : State) : Exit :=
  let n := mxOrder f
  let o := if f.m.sub3.getLsbD 2 then n else n * n
  .alu (mxAlu c h f (fun l =>
    let add := if mad then c.window (mxWide f) f.sc.reg.toNat o l else List.replicate o 0
    let r := mxProduct (c.mxFmt f) n f.m.sub3.toNat (c.window (mxWide f) f.sa.reg.toNat (n * n) l)
      (c.window (mxWide f) f.sb.reg.toNat o l) add
    (r.map (·.1), orAll (r.map (·.2)))))

def execMxmul (h : Hdr) (f : FmtX) (s : State) : Host.Outcome State Fault Refusal :=
  issue h always (sigMxmul h f false) (mxmulBody h f false) s

def execMxmad (h : Hdr) (f : FmtX) (s : State) : Host.Outcome State Fault Refusal :=
  issue h always (sigMxmul h f true) (mxmulBody h f true) s

/-- Factorisations: the predicate in SB, the tolerance in SC (R191), `extra` further registers behind the window. -/
def sigFactor (h : Hdr) (f : FmtX) (extra : Nat) (c : Ctx) : Sig :=
  let k := mxRegs f (mxOrder f * mxOrder f)
  let p := f.sb.reg.toNat
  let g := sigX c.w16 h f { useMx h f (k + extra) true with a := .mx k, b := .pred, c := .reg (mxWide f) }
  { g with dst := g.dst ++ (if p = 0 then [] else [.pred p 1]), srcs := g.srcs.filter (fun o => !(o.file == .pred && o.n == p && p != h.gp.toNat)) }

/-- The writes of a factorisation in every lane; `word` adds the permutation word. -/
def factorBody (h : Hdr) (f : FmtX) (word : Bool) (run : MxFmt → Nat → Mat → Val → Factor) (c : Ctx) (_ : State) : Exit :=
  let n := mxOrder f
  let p := c.mxFmt f
  let r (l : Nat) : Factor :=
    run p n (c.window (mxWide f) f.sa.reg.toNat (n * n) l) (p.dec (c.src 2 f.m.sc f.sc (mxWide f) l))
  .alu
    { writes := (c.lanes.map (fun l =>
        let x := r l
        winWr (mxWide f) h.dst.toNat l x.m
          ++ (if word then [⟨.vec, h.dst.toNat + mxRegs f (n * n), l, BitVec.ofNat 32 (permWord x.perm)⟩] else [])
          ++ [predWr f.sb.reg.toNat l x.failed])).flatten
      flags := orAll (c.lanes.map (fun l => (r l).flags)) }

def execMxchol (h : Hdr) (f : FmtX) (s : State) : Host.Outcome State Fault Refusal :=
  issue h always (sigFactor h f 0) (factorBody h f false mxChol) s

def execMxlu (h : Hdr) (f : FmtX) (s : State) : Host.Outcome State Fault Refusal :=
  issue h always (sigFactor h f 1) (factorBody h f true mxLu) s

def execMxinv (h : Hdr) (f : FmtX) (s : State) : Host.Outcome State Fault Refusal :=
  issue h always (sigFactor h f 0) (factorBody h f false mxInverse) s

def sigMxsolv (h : Hdr) (f : FmtX) (c : Ctx) : Sig :=
  let n := mxOrder f
  let k := mxRegs f (n * n)
  let sub := f.m.sub3.toNat
  sigX c.w16 h f
    { useMx h f (mxRegs f n) true with
      a := .mx (if sub = 1 then k + 1 else k), b := .mx (mxRegs f n), sub3 := decide (sub < 5) }

def execMxsolv (h : Hdr) (f : FmtX) (s : State) : Host.Outcome State Fault Refusal :=
  let n := mxOrder f
  let k := mxRegs f (n * n)
  let sub := f.m.sub3.toNat
  issue h always (sigMxsolv h f)
    (fun c _ => .alu (mxAlu c h f (fun l =>
      let w := (c.w.rdV (f.sa.reg.toNat + k) l).toNat
      mxSolve (c.mxFmt f) n sub (c.window (mxWide f) f.sa.reg.toNat (n * n) l) ((List.range n).map (fun i => w / 8 ^ i % 8))
        (c.window (mxWide f) f.sb.reg.toNat n l)))) s

/-! ## MXLD and MXST -/

/-- Elements of the window of SUB, and their addresses (R192). -/
def mxAccs (c : Ctx) (f : FmtM) (dst : Nat) (data : Nat → Nat → Nat) : List Acc :=
  let n := f.m.sub.toNat % 8
  let k := if f.m.sub.getLsbD 3 then n else n * n
  let wide := f.m.ty == 0
  let e := if wide then 8 else 4
  (c.lanes.map (fun l =>
    let a := c.addr f l
    (List.range k).map (fun i =>
      { lane := l, va := (a + e * i) % (if f.m.space = 1 then 2 ^ 32 else 2 ^ 64), size := e,
        dst := dst + (if wide then 2 * i else i), data := data i l : Acc }))).flatten

def mxCount (f : FmtM) : Nat :=
  let n := f.m.sub.toNat % 8
  let k := if f.m.sub.getLsbD 3 then n else n * n
  if f.m.ty = 0 then 2 * k else k

/-- MODM as MXLD and MXST use it. -/
def useMxMem (f : FmtM) : UseM :=
  let n := f.m.sub.toNat % 8
  { ty := decide (f.m.ty.toNat < 2), scope := f.m.scope == 0, order := f.m.order == 0, space := true,
    sub := decide (1 ≤ n) && decide (n ≤ 6) && !f.m.sub.getLsbD 4, pipe := true }

def sigMxld (h : Hdr) (f : FmtM) (c : Ctx) : Sig :=
  sigM c.w16 h f { useMxMem f with dst := .other (h.dst.toNat % 2 == 0) [mxOpnd h.dst.toNat (mxCount f)], sb := true }

def execMxld (h : Hdr) (f : FmtM) (s : State) : Host.Outcome State Fault Refusal :=
  issue h always (sigMxld h f)
    (fun c s =>
      loadExit c (sigMxld h f c)
        { space := f.m.space.toNat, align := if f.m.ty = 0 then 8 else 4, acquire := false, scope := 0,
          ty := f.m.ty.toNat, scalar := false, hint := 0 }
        (mxAccs c f h.dst.toNat (fun _ _ => 0)) s) s

def sigMxst (h : Hdr) (f : FmtM) (c : Ctx) : Sig := sigM c.w16 h f { useMxMem f with data := .mx (mxCount f) }

def execMxst (h : Hdr) (f : FmtM) (s : State) : Host.Outcome State Fault Refusal :=
  issue h always (sigMxst h f)
    (fun c s =>
      let wide := f.m.ty == 0
      storeExit c
        { space := f.m.space.toNat, align := if wide then 8 else 4, scope := if f.m.space = 1 then 2 else 4, order := 0,
          kind := .store, byElem := true }
        (mxAccs c f 0 (fun i l => (c.window wide f.sb.reg.toNat (i + 1) l).getD i 0)) s) s

end Sys2Proof.Machine
end

