-- ==== Sys2Proof/Machine/System.lean ====
section
/-! DEFINITION. The system range (05 R168-R170). -/

namespace Sys2Proof.Machine

def sigEcall (h : Hdr) (f : FmtI) (c : Ctx) : Sig := sigI c.w16 h f (plainMod f.m) []

def execEcall (h : Hdr) (f : FmtI) (s : State) : Host.Outcome State Fault Refusal :=
  issue h always (sigEcall h f) (userTrapBody f 1) s

def sigBkpt (h : Hdr) (f : FmtI) (c : Ctx) : Sig := sigI c.w16 h f (plainMod f.m) []

/-- BKPT has an effect only where the supervisor enabled debugging for the context (R168). -/
def execBkpt (h : Hdr) (f : FmtI) (s : State) : Host.Outcome State Fault Refusal :=
  issue h always (sigBkpt h f)
    (fun c s => if s.waveDesc c.w 500 500 = 1 then userTrapBody f 2 c s else .done s) s

/-- R61, R169. -/
def setwcBody (f : FmtA) (c : Ctx) (s : State) : Exit :=
  let x := c.w.rdS f.sa.reg.toNat
  if c.lanes.isEmpty then .done s
  else if 4 < (x.extractLsb' 0 3).toNat then .trap s { code := Trap.illegalField, det1 := 0x80000002 }
  else .done (s.updWave c.k (fun w => { w with wcw := (w.wcw &&& 0xFFFFFF00) ||| (x &&& 0xFF) }))

def sigSetwc (h : Hdr) (f : FmtA) (c : Ctx) : Sig := sigA c.w16 h f { plainMod f.m with a := .sca false, lat := 2 }

def execSetwc (h : Hdr) (f : FmtA) (s : State) : Host.Outcome State Fault Refusal :=
  issue h always (sigSetwc h f) (setwcBody f) s

/-- R170. The issues are those before the reading instruction's own (log 131). -/
def counter (s : State) (w : Wave) (sub : Nat) : Nat :=
  if s.waveDesc w 501 501 = 0 then 0
  else
    match sub with
    | 0 => s.cyc
    | 1 => w.cntIss
    | 2 => w.cntRes
    | _ => w.cntBlk

def sigRdcnt (h : Hdr) (f : FmtA) (c : Ctx) : Sig :=
  sigA c.w16 h f
    { plainMod f.m with dst := .sca 2 2 59, ds := .one, sub := decide (f.m.sub.toNat < 4), sb := true }

def execRdcnt (h : Hdr) (f : FmtA) (s : State) : Host.Outcome State Fault Refusal :=
  issue h always (sigRdcnt h f)
    (fun c s => .alu { writes := c.dstAll true h.dst true (fun _ => counter s c.w f.m.sub.toNat % 2 ^ 64) }) s

end Sys2Proof.Machine
end

