-- ==== Sys2Proof/Machine/Dispatch.lean ====
section
/-! DEFINITION. The dispatch: one arm for each constructor of `Instr`, each a direct call of its meaning. -/

namespace Sys2Proof.Machine

def exec (i : Instr) (s : State) : Host.Outcome State Fault Refusal :=
  match i with
  | .nop h f => Sys2Proof.Machine.execNop h f s
  | .exit h f => Sys2Proof.Machine.execExit h f s
  | .bra h f => Sys2Proof.Machine.execBra h f s
  | .brx h f => Sys2Proof.Machine.execBrx h f s
  | .call h f => Sys2Proof.Machine.execCall h f s
  | .callx h f => Sys2Proof.Machine.execCallx h f s
  | .ret h f => Sys2Proof.Machine.execRet h f s
  | .join h f => Sys2Proof.Machine.execJoin h f s
  | .regang h f => Sys2Proof.Machine.execRegang h f s
  | .loop h f => Sys2Proof.Machine.execLoop h f s
  | .lbrk h f => Sys2Proof.Machine.execLbrk h f s
  | .yieldV h f => Sys2Proof.Machine.execYieldV h f s
  | .sleep h f => Sys2Proof.Machine.execSleep h f s
  | .trap h f => Sys2Proof.Machine.execTrap h f s
  | .bar h f => Sys2Proof.Machine.execBar h f s
  | .barc h f => Sys2Proof.Machine.execBarc h f s
  | .barg h f => Sys2Proof.Machine.execBarg h f s
  | .launch h f => Sys2Proof.Machine.execLaunch h f s
  | .launchWait h f => Sys2Proof.Machine.execLaunchWait h f s
  | .tknext h f => Sys2Proof.Machine.execTknext h f s
  | .mov h f => Sys2Proof.Machine.execMov h f s
  | .movi h f => Sys2Proof.Machine.execMovi h f s
  | .movsp h f => Sys2Proof.Machine.execMovsp h f s
  | .iadd h f => Sys2Proof.Machine.execIadd h f s
  | .isub h f => Sys2Proof.Machine.execIsub h f s
  | .imul h f => Sys2Proof.Machine.execImul h f s
  | .imulh h f => Sys2Proof.Machine.execImulh h f s
  | .imad h f => Sys2Proof.Machine.execImad h f s
  | .idiv h f => Sys2Proof.Machine.execIdiv h f s
  | .irem h f => Sys2Proof.Machine.execIrem h f s
  | .imin h f => Sys2Proof.Machine.execImin h f s
  | .imax h f => Sys2Proof.Machine.execImax h f s
  | .iabs h f => Sys2Proof.Machine.execIabs h f s
  | .and h f => Sys2Proof.Machine.execAnd h f s
  | .or h f => Sys2Proof.Machine.execOr h f s
  | .xor h f => Sys2Proof.Machine.execXor h f s
  | .not h f => Sys2Proof.Machine.execNot h f s
  | .shl h f => Sys2Proof.Machine.execShl h f s
  | .shr h f => Sys2Proof.Machine.execShr h f s
  | .sar h f => Sys2Proof.Machine.execSar h f s
  | .fshl h f => Sys2Proof.Machine.execFshl h f s
  | .clz h f => Sys2Proof.Machine.execClz h f s
  | .popc h f => Sys2Proof.Machine.execPopc h f s
  | .brev h f => Sys2Proof.Machine.execBrev h f s
  | .bfe h f => Sys2Proof.Machine.execBfe h f s
  | .bfi h f => Sys2Proof.Machine.execBfi h f s
  | .icmp h f => Sys2Proof.Machine.execIcmp h f s
  | .isel h f => Sys2Proof.Machine.execIsel h f s
  | .iadd64 h f => Sys2Proof.Machine.execIadd64 h f s
  | .isub64 h f => Sys2Proof.Machine.execIsub64 h f s
  | .shl64 h f => Sys2Proof.Machine.execShl64 h f s
  | .shr64 h f => Sys2Proof.Machine.execShr64 h f s
  | .sar64 h f => Sys2Proof.Machine.execSar64 h f s
  | .icmp64 h f => Sys2Proof.Machine.execIcmp64 h f s
  | .imul64 h f => Sys2Proof.Machine.execImul64 h f s
  | .imad64 h f => Sys2Proof.Machine.execImad64 h f s
  | .lea h f => Sys2Proof.Machine.execLea h f s
  | .plog h f => Sys2Proof.Machine.execPlog h f s
  | .pmov h f => Sys2Proof.Machine.execPmov h f s
  | .vote h f => Sys2Proof.Machine.execVote h f s
  | .matchV h f => Sys2Proof.Machine.execMatchV h f s
  | .shfl h f => Sys2Proof.Machine.execShfl h f s
  | .ired h f => Sys2Proof.Machine.execIred h f s
  | .iscan h f => Sys2Proof.Machine.execIscan h f s
  | .fadd h f => Sys2Proof.Machine.execFadd h f s
  | .fsub h f => Sys2Proof.Machine.execFsub h f s
  | .fmul h f => Sys2Proof.Machine.execFmul h f s
  | .ffma h f => Sys2Proof.Machine.execFfma h f s
  | .fmin h f => Sys2Proof.Machine.execFmin h f s
  | .fmax h f => Sys2Proof.Machine.execFmax h f s
  | .fcmp h f => Sys2Proof.Machine.execFcmp h f s
  | .fclass h f => Sys2Proof.Machine.execFclass h f s
  | .fdiv h f => Sys2Proof.Machine.execFdiv h f s
  | .fsqrt h f => Sys2Proof.Machine.execFsqrt h f s
  | .frcp h f => Sys2Proof.Machine.execFrcp h f s
  | .frsq h f => Sys2Proof.Machine.execFrsq h f s
  | .fexp2 h f => Sys2Proof.Machine.execFexp2 h f s
  | .flog2 h f => Sys2Proof.Machine.execFlog2 h f s
  | .fsin h f => Sys2Proof.Machine.execFsin h f s
  | .fcos h f => Sys2Proof.Machine.execFcos h f s
  | .ftanh h f => Sys2Proof.Machine.execFtanh h f s
  | .frnd h f => Sys2Proof.Machine.execFrnd h f s
  | .cvt h f => Sys2Proof.Machine.execCvt h f s
  | .pack h f => Sys2Proof.Machine.execPack h f s
  | .unpk h f => Sys2Proof.Machine.execUnpk h f s
  | .fred h f => Sys2Proof.Machine.execFred h f s
  | .fscan h f => Sys2Proof.Machine.execFscan h f s
  | .fdot2 h f => Sys2Proof.Machine.execFdot2 h f s
  | .idot4 h f => Sys2Proof.Machine.execIdot4 h f s
  | .amaxrd h f => Sys2Proof.Machine.execAmaxrd h f s
  | .amaxclr h f => Sys2Proof.Machine.execAmaxclr h f s
  | .mxld h f => Sys2Proof.Machine.execMxld h f s
  | .mxst h f => Sys2Proof.Machine.execMxst h f s
  | .mxmov h f => Sys2Proof.Machine.execMxmov h f s
  | .mxtrn h f => Sys2Proof.Machine.execMxtrn h f s
  | .mxmul h f => Sys2Proof.Machine.execMxmul h f s
  | .mxmad h f => Sys2Proof.Machine.execMxmad h f s
  | .mxchol h f => Sys2Proof.Machine.execMxchol h f s
  | .mxlu h f => Sys2Proof.Machine.execMxlu h f s
  | .mxsolv h f => Sys2Proof.Machine.execMxsolv h f s
  | .mxinv h f => Sys2Proof.Machine.execMxinv h f s
  | .ld h f => Sys2Proof.Machine.execLd h f s
  | .st h f => Sys2Proof.Machine.execSt h f s
  | .lds h f => Sys2Proof.Machine.execLds h f s
  | .sts h f => Sys2Proof.Machine.execSts h f s
  | .atom h f => Sys2Proof.Machine.execAtom h f s
  | .cas h f => Sys2Proof.Machine.execCas h f s
  | .cas128 h f => Sys2Proof.Machine.execCas128 h f s
  | .red h f => Sys2Proof.Machine.execRed h f s
  | .fence h f => Sys2Proof.Machine.execFence h f s
  | .fencet h f => Sys2Proof.Machine.execFencet h f s
  | .drainst h f => Sys2Proof.Machine.execDrainst h f s
  | .prf h f => Sys2Proof.Machine.execPrf h f s
  | .flush h f => Sys2Proof.Machine.execFlush h f s
  | .qinit h f => Sys2Proof.Machine.execQinit h f s
  | .qbind h f => Sys2Proof.Machine.execQbind h f s
  | .qtry h f => Sys2Proof.Machine.execQtry h f s
  | .combcfg h f => Sys2Proof.Machine.execCombcfg h f s
  | .ship h f => Sys2Proof.Machine.execShip h f s
  | .shipt h f => Sys2Proof.Machine.execShipt h f s
  | .sret h f => Sys2Proof.Machine.execSret h f s
  | .copy h f => Sys2Proof.Machine.execCopy h f s
  | .batch h f => Sys2Proof.Machine.execBatch h f s
  | .waitb h f => Sys2Proof.Machine.execWaitb h f s
  | .chain h f => Sys2Proof.Machine.execChain h f s
  | .chstat h f => Sys2Proof.Machine.execChstat h f s
  | .tbinit h f => Sys2Proof.Machine.execTbinit h f s
  | .tbarr h f => Sys2Proof.Machine.execTbarr h f s
  | .tbexp h f => Sys2Proof.Machine.execTbexp h f s
  | .tbwait h f => Sys2Proof.Machine.execTbwait h f s
  | .gather h f => Sys2Proof.Machine.execGather h f s
  | .scatter h f => Sys2Proof.Machine.execScatter h f s
  | .tblstat h f => Sys2Proof.Machine.execTblstat h f s
  | .iord h f => Sys2Proof.Machine.execIord h f s
  | .iowr h f => Sys2Proof.Machine.execIowr h f s
  | .iopost h f => Sys2Proof.Machine.execIopost h f s
  | .btake h f => Sys2Proof.Machine.execBtake h f s
  | .bpass h f => Sys2Proof.Machine.execBpass h f s
  | .bload h f => Sys2Proof.Machine.execBload h f s
  | .bswap h f => Sys2Proof.Machine.execBswap h f s
  | .mma h f => Sys2Proof.Machine.execMma h f s
  | .accz h f => Sys2Proof.Machine.execAccz h f s
  | .accrd h f => Sys2Proof.Machine.execAccrd h f s
  | .accwr h f => Sys2Proof.Machine.execAccwr h f s
  | .acccvt h f => Sys2Proof.Machine.execAcccvt h f s
  | .accst h f => Sys2Proof.Machine.execAccst h f s
  | .accwait h f => Sys2Proof.Machine.execAccwait h f s
  | .mmacfg h f => Sys2Proof.Machine.execMmacfg h f s
  | .ecall h f => Sys2Proof.Machine.execEcall h f s
  | .bkpt h f => Sys2Proof.Machine.execBkpt h f s
  | .setwc h f => Sys2Proof.Machine.execSetwc h f s
  | .rdcnt h f => Sys2Proof.Machine.execRdcnt h f s
  | .scoreboardWriteback w n => Sys2Proof.Machine.execScoreboardWriteback w n s
  | .queueWaitWake w q => Sys2Proof.Machine.execQueueWaitWake w q s
  | .sleepWake w q => Sys2Proof.Machine.execSleepWake w q s
  | .loadReturn id el => Sys2Proof.Machine.execLoadReturn id el s
  | .dirtySectorTransmit id el => Sys2Proof.Machine.execDirtySectorTransmit id el s
  | .storeCheck id => Sys2Proof.Machine.execStoreCheck id s
  | .storeArrive id el => Sys2Proof.Machine.execStoreArrive id el s
  | .storeApply id el => Sys2Proof.Machine.execStoreApply id el s
  | .atomicApply id el => Sys2Proof.Machine.execAtomicApply id el s
  | .gwctReturn id el => Sys2Proof.Machine.execGwctReturn id el s
  | .fenceComplete w q => Sys2Proof.Machine.execFenceComplete w q s
  | .fencetComplete w q => Sys2Proof.Machine.execFencetComplete w q s
  | .drainstComplete w q => Sys2Proof.Machine.execDrainstComplete w q s
  | .combModeChangeDone core bank => Sys2Proof.Machine.execCombModeChangeDone core bank s
  | .bloadRun core => Sys2Proof.Machine.execBloadRun core s
  | .bswapRun core => Sys2Proof.Machine.execBswapRun core s
  | .mmaRun core => Sys2Proof.Machine.execMmaRun core s
  | .mmaGranuleCommit core => Sys2Proof.Machine.execMmaGranuleCommit core s
  | .acczRun core => Sys2Proof.Machine.execAcczRun core s
  | .accwrRun core => Sys2Proof.Machine.execAccwrRun core s
  | .accstRun core => Sys2Proof.Machine.execAccstRun core s
  | .batonBudgetExpire core => Sys2Proof.Machine.execBatonBudgetExpire core s
  | .chainRecordRead core ch => Sys2Proof.Machine.execChainRecordRead core ch s
  | .copySectorLand core ch id sector => Sys2Proof.Machine.execCopySectorLand core ch id sector s
  | .copyRecordComplete core ch id => Sys2Proof.Machine.execCopyRecordComplete core ch id s
  | .reductionChunkCommit core ch id chunk => Sys2Proof.Machine.execReductionChunkCommit core ch id chunk s
  | .tableOpComplete core id => Sys2Proof.Machine.execTableOpComplete core id s
  | .shipRequestArrive id lane => Sys2Proof.Machine.execShipRequestArrive id lane s
  | .sectionStart benuri => Sys2Proof.Machine.execSectionStart benuri s
  | .sectionBudgetExpire benuri => Sys2Proof.Machine.execSectionBudgetExpire benuri s
  | .shipResultsReturn id => Sys2Proof.Machine.execShipResultsReturn id s
  | .shiptTokenPush benuri => Sys2Proof.Machine.execShiptTokenPush benuri s
  | .ioRequestComplete id status data => Sys2Proof.Machine.execIoRequestComplete id status data s
  | .ioMessageArrive part conn data => Sys2Proof.Machine.execIoMessageArrive part conn data s
  | .ioRecordPush part => Sys2Proof.Machine.execIoRecordPush part s
  | .ioPlacementTimeout id posted => Sys2Proof.Machine.execIoPlacementTimeout id posted s
  | .connectionError part conn => Sys2Proof.Machine.execConnectionError part conn s
  | .sqdbWrite port part queue tail => Sys2Proof.Machine.execSqdbWrite port part queue tail s
  | .sqEnable part queue => Sys2Proof.Machine.execSqEnable part queue s
  | .sqFetch part queue => Sys2Proof.Machine.execSqFetch part queue s
  | .gridAdmit part => Sys2Proof.Machine.execGridAdmit part s
  | .teamAdmit part gid core => Sys2Proof.Machine.execTeamAdmit part gid core s
  | .rangeSplit part gid core => Sys2Proof.Machine.execRangeSplit part gid core s
  | .teamEnd gid team => Sys2Proof.Machine.execTeamEnd gid team s
  | .teamYield gid team => Sys2Proof.Machine.execTeamYield gid team s
  | .teamResume gid team core => Sys2Proof.Machine.execTeamResume gid team core s
  | .wavePromote w => Sys2Proof.Machine.execWavePromote w s
  | .starvation w => Sys2Proof.Machine.execStarvation w s
  | .sliceExpire pair => Sys2Proof.Machine.execSliceExpire pair s
  | .periodStart part entry => Sys2Proof.Machine.execPeriodStart part entry s
  | .budgetExhaust part entry => Sys2Proof.Machine.execBudgetExhaust part entry s
  | .prctlPreempt part value => Sys2Proof.Machine.execPrctlPreempt part value s
  | .prctlTerminate part value => Sys2Proof.Machine.execPrctlTerminate part value s
  | .preemptTimeout part => Sys2Proof.Machine.execPreemptTimeout part s
  | .wavePreemptStop w => Sys2Proof.Machine.execWavePreemptStop w s
  | .preemptFallback w => Sys2Proof.Machine.execPreemptFallback w s
  | .trapQueueWrite core => Sys2Proof.Machine.execTrapQueueWrite core s
  | .asyncTrapDeliver w => Sys2Proof.Machine.execAsyncTrapDeliver w s
  | .wcmdResume core => Sys2Proof.Machine.execWcmdResume core s
  | .wcmdReplay core => Sys2Proof.Machine.execWcmdReplay core s
  | .wcmdTerminateWave core => Sys2Proof.Machine.execWcmdTerminateWave core s
  | .wcmdTerminateTeam core => Sys2Proof.Machine.execWcmdTerminateTeam core s
  | .wcmdTerminateContext core => Sys2Proof.Machine.execWcmdTerminateContext core s
  | .wcmdEngineRetry core eng => Sys2Proof.Machine.execWcmdEngineRetry core eng s
  | .wcmdEngineFail core eng => Sys2Proof.Machine.execWcmdEngineFail core eng s
  | .wcmdEngineResume core eng => Sys2Proof.Machine.execWcmdEngineResume core eng s
  | .wcmdEngineDiscard core eng => Sys2Proof.Machine.execWcmdEngineDiscard core eng s
  | .wcmdEngineTerminate core eng => Sys2Proof.Machine.execWcmdEngineTerminate core eng s
  | .tcmdDiscardStores core gid team => Sys2Proof.Machine.execTcmdDiscardStores core gid team s
  | .tcmdReplayStores core gid team => Sys2Proof.Machine.execTcmdReplayStores core gid team s
  | .tcmdTerminateTeam core gid team => Sys2Proof.Machine.execTcmdTerminateTeam core gid team s
  | .tcmdTerminateContext core gid team => Sys2Proof.Machine.execTcmdTerminateContext core gid team s
  | .tcmdEngineResume core gid team eng => Sys2Proof.Machine.execTcmdEngineResume core gid team eng s
  | .tcmdEngineDiscard core gid team eng => Sys2Proof.Machine.execTcmdEngineDiscard core gid team eng s
  | .tcmdEngineTerminate core gid team eng => Sys2Proof.Machine.execTcmdEngineTerminate core gid team eng s
  | .pwstateWrite core offset data => Sys2Proof.Machine.execPwstateWrite core offset data s
  | .tinvGo core ctx => Sys2Proof.Machine.execTinvGo core ctx s
  | .tinvDone core => Sys2Proof.Machine.execTinvDone core s
  | .registerWrite agent addr width value => Sys2Proof.Machine.execRegisterWrite agent addr width value s
  | .hlrenew port len => Sys2Proof.Machine.execHlrenew port len s
  | .hostLeaseExpire => Sys2Proof.Machine.execHostLeaseExpire s
  | .regionStateWrite part n state => Sys2Proof.Machine.execRegionStateWrite part n state s
  | .regionChangeDone part n => Sys2Proof.Machine.execRegionChangeDone part n s
  | .hostSnoop part addr own => Sys2Proof.Machine.execHostSnoop part addr own s
  | .snoopResponse part addr => Sys2Proof.Machine.execSnoopResponse part addr s
  | .hostAccess port part op => Sys2Proof.Machine.execHostAccess port part op s
  | .atsTranslationCompletion port ctx page res => Sys2Proof.Machine.execAtsTranslationCompletion port ctx page res s
  | .pageRequestGroupResponse port ctx page ok => Sys2Proof.Machine.execPageRequestGroupResponse port ctx page ok s
  | .pageResponseTimeout port ctx page => Sys2Proof.Machine.execPageResponseTimeout port ctx page s
  | .atsInvalidateRequest port pasid page pages => Sys2Proof.Machine.execAtsInvalidateRequest port pasid page pages s
  | .invalidateCompletion port => Sys2Proof.Machine.execInvalidateCompletion port s
  | .errorRecordWrite port record => Sys2Proof.Machine.execErrorRecordWrite port record s
  | .errorRingWaitTimeout port => Sys2Proof.Machine.execErrorRingWaitTimeout port s
  | .flitTransmit port ty dst ctx cls payload => Sys2Proof.Machine.execFlitTransmit port ty dst ctx cls payload s
  | .dataFlitReceive port flit => Sys2Proof.Machine.execDataFlitReceive port flit s
  | .keyMarkerReceive port flit => Sys2Proof.Machine.execKeyMarkerReceive port flit s
  | .acknowledgementReceive port flit => Sys2Proof.Machine.execAcknowledgementReceive port flit s
  | .negativeAckReceive port flit => Sys2Proof.Machine.execNegativeAckReceive port flit s
  | .timeFlitSend port => Sys2Proof.Machine.execTimeFlitSend port s
  | .timeFlitReceive port flit => Sys2Proof.Machine.execTimeFlitReceive port flit s
  | .timeSyncLoss => Sys2Proof.Machine.execTimeSyncLoss s
  | .timeResync => Sys2Proof.Machine.execTimeResync s
  | .linkDown port => Sys2Proof.Machine.execLinkDown port s
  | .linkUp port => Sys2Proof.Machine.execLinkUp port s
  | .txkeyWrite port slot value => Sys2Proof.Machine.execTxkeyWrite port slot value s
  | .rxkeyWrite port slot value => Sys2Proof.Machine.execRxkeyWrite port slot value s
  | .eccCorrectedError core => Sys2Proof.Machine.execEccCorrectedError core s
  | .uncorrectableDataError loc => Sys2Proof.Machine.execUncorrectableDataError loc s
  | .patrolScrub addr => Sys2Proof.Machine.execPatrolScrub addr s
  | .machineCheck core unit => Sys2Proof.Machine.execMachineCheck core unit s
  | .deviceReset => Sys2Proof.Machine.execDeviceReset s
  | .bootStateAdvance outcome => Sys2Proof.Machine.execBootStateAdvance outcome s
  | .imageVerify image => Sys2Proof.Machine.execImageVerify image s
  | .recoveryImage image => Sys2Proof.Machine.execRecoveryImage image s
  | .attestationRequest challenge => Sys2Proof.Machine.execAttestationRequest challenge s
  | .hostPortLinkDown port => Sys2Proof.Machine.execHostPortLinkDown port s
  | .hostPortLinkUp port cxlCache cxlMem width => Sys2Proof.Machine.execHostPortLinkUp port cxlCache cxlMem width s
  | .lnkctlWrite port value => Sys2Proof.Machine.execLnkctlWrite port value s
  | .removalAcknowledgement id el => Sys2Proof.Machine.execRemovalAcknowledgement id el s
  | .coreSelfTestComplete core passed => Sys2Proof.Machine.execCoreSelfTestComplete core passed s

end Sys2Proof.Machine
end

