-- ==== Sys2Proof/Machine/Settle.lean ====
section
/-! DEFINITION. What follows every step of itself, beside the waits of `settle`: the end of a PRCTL action (12 R367, R368), the
eligibility of pre-empted teams (R364, R365), Held waves (R356), Active places (R352), reports of waves that have ended (13
R268, R308, R379), the fabric's traffic (14 R409). -/

namespace Sys2Proof.Machine

/-! ## PRCTL -/

/-- ST becomes 2 when nothing of the context is resident (R367, R368). -/
def settlePrctl (s : State) (part : Nat) : State :=
  let p := s.part part
  if field p.prctl.toNat 18 16 = 1 ∧ (residentOf s part p.prCtx).isEmpty then
    s.updPart part (fun p => { p with prctl := BitVec.ofNat 64 (setField p.prctl.toNat 18 16 2) })
  else s

/-! ## Pre-empted teams -/

/-- The context is admitted again: since the team was saved, an empty pair of the partition has admitted it; or admission serves no other
context, and no other context's team was saved before (R364, log 67). After a pre-emption that timed out it is not (R367). -/
def contextReturns (s : State) (part ctx since : Nat) : Bool :=
  !preempting s part ctx && !timedOut s part ctx &&
    ((partPairs s part).any (fun p => (pairTeams s p).any (fun t => t.ctx == ctx) && decide (since < (s.core (2 * p)).admittedAt)) ||
      ((nextCand s part).all (fun c => candCtx s part c == ctx)
        && s.teams.all (fun u =>
          s.partOf u.core != part || u.ctx == ctx || u.terminated || u.res != .preempted false || decide (since ≤ u.eligibleAt))))

/-- Every team of the grid that has not ended is saved (R365). -/
def gridSaved (s : State) (t : Team) : Bool :=
  ((s.gridOf t).map (·.cls)) != some 0
    || s.teams.all (fun u => u.gid != t.gid || u.terminated || u.res != .resident || (s.teamWavesOf u).all Wave.finished)

def settlePreempted (s : State) (t : Team) : State :=
  if t.res = .preempted false ∧ !t.terminated ∧ !t.aborted ∧ contextReturns s (s.partOf t.core) t.ctx t.eligibleAt ∧ gridSaved s t then
    s.updTeam t.gid t.num (fun t => { t with res := .preempted true, eligibleAt := s.cyc })
  else s

/-! ## Completion objects of terminated grids -/

/-- Every store of the grid has applied, and no lease stands on the completion object: STATE 2, REASON 8 (R368). -/
def settleClosing (s : State) (g : Grid) : State :=
  if g.closing && s.mops.all (fun o => o.gid != g.gid || o.elems.all (fun e => !e.phase.unapplied)) then
    let d := doneStore s g
    if doneReady d.2 g.ctx d.1 then ((d.2.writeAt d.1 2 (2 + 8 * 256)).posted (s.partCore g.part) g.ctx d.1 2).updGrid g.gid g.part (fun g => { g with closing := false })
    else contestAll d.2 d.1 32
  else s

/-! ## The supervisor's interrupt -/

/-- The S-mode external interrupt, bit 9 of sip, is pending while the trap queue holds entries and EN is 1 (R374 step 4). -/
def settleIrq (c : Core) : Core :=
  let want := c.tqTail != c.tqHead && c.tqCfg.getLsbD 4
  let sip := SMap.get 0#64 c.sup.csrs 0x144
  if sip.getLsbD 9 = want then c
  else { c with sup := { c.sup with csrs := SMap.set 0#64 c.sup.csrs 0x144 (sip ^^^ 0x200#64) } }

/-! ## Held waves and Active places -/

/-- A wave of a held context issues nothing; when the context is no longer held the wave is Pending (R356). -/
def settleHeld (s : State) (w : Wave) : Wave :=
  if w.finished ∨ w.sched = .trapped then w
  else if w.preempt = .none ∧ s.ctxHeld w.key.core w.ctx then { w with sched := .held }
  else if w.sched = .held then { w with sched := .pending }
  else w

/-- The data that a wave of the pool waits for has returned: it is Pending (R352). -/
def settlePool (s : State) (w : Wave) : Wave :=
  if w.sched = .pool ∧ w.pooled.all (fun k => !(busyKeys s w).contains k) then { w with sched := .pending, pooled := [] } else w

/-- A Pending wave whose gangs all wait is Blocked; otherwise it takes an Active place that is free (R352). -/
def settlePlace (l : List Wave) (w : Wave) : Wave :=
  if w.sched ≠ .pending ∨ w.finished then w
  else if w.gangs.all (fun g => g.wait != .none) then { w with sched := .blocked }
  else if (l.filter (fun x => x.key.core == w.key.core && x.key.slot == w.key.slot && x.key != w.key && x.sched == .active)).length < 8 then
    { w with sched := .active }
  else w

/-- Places go out in the order of the waves. -/
def settlePlaces : List Wave → List Wave → List Wave
  | done, [] => done
  | done, w :: t => settlePlaces (done ++ [settlePlace (done ++ t) w]) t

/-! ## Reports of ended waves -/

/-- A report that the ended wave can no longer take goes where it would have gone (R268, R308, R379); the others lapse. -/
def rerouteAsync (s : State) (w : Wave) (a : Async) : State :=
  match a.cmd with
  | some id =>
    let c := s.engineCore w
    match stoppedCmd s c id with
    | some k => engineReport s c k a.record
    | none => tellStop s c w.ctx w.grid w.team w.key id a.record
  | none =>
    if a.record.code = Trap.storeFault then endedFault s w.key.core w.ctx w.grid w.team w.key
    else if a.record.code = Trap.copyFault then
      copyFault s w.key.core w.key w.ctx w.grid w.team a.record.pc a.record.det1.toNat a.record.det2.toNat
    else s

def settleEnded (s : State) (w : Wave) : State :=
  if w.finished ∧ !w.async.isEmpty then
    w.async.foldl (fun s a => rerouteAsync s w a) (s.updWave w.key (fun w => { w with async := [] }))
  else s

/-! ## All of it -/

/-- What follows every step. -/
def settleAll (s : State) : State :=
  let s1 := settle s
  let s2 := s1.waves.foldl settleEnded s1
  let s3 := [0, 1, 2, 3].foldl settlePrctl s2
  let s3 := pump (s3.grids.foldl settleClosing s3)
  let s3 := s3.io.reqs.foldl settleIo s3
  let s4 := s3.teams.foldl settlePreempted s3
  { s4 with
    cores := s4.cores.map settleIrq
    waves := settlePlaces [] (s4.waves.map (fun w => settleHeld s4 (settlePool s4 w))) }

end Sys2Proof.Machine
end

