-- ==== Sys2Proof/Machine/Idle.lean ====
section
/-! DEFINITION. The device left to itself (log 2): the events that something in the state waits for. Whether one may happen
now is for its own meaning to say; outside acts (the host, the supervisor, the network, errors of the hardware) are never
among them, nor are the timer of a port's error ring and the answer to an invalidation. -/

namespace Sys2Proof.Machine

/-- A gang's wait and the event that ends it. -/
def gangEvents (w : Wave) (g : Gang) : List Instr :=
  let q := g.quads.headD 0
  match g.wait with
  | .queue _ _ _ _ => [.queueWaitWake w.key q]
  | .sleep _ => [.sleepWake w.key q]
  | .fence _ _ _ => [.fenceComplete w.key q, .fencetComplete w.key q]
  | .drain _ _ _ => [.fencetComplete w.key q]
  | .release _ _ => [.fenceComplete w.key q]
  | .drainst _ => [.drainstComplete w.key q]
  | _ => []

def waveEvents (w : Wave) : List Instr :=
  (if w.pend.isEmpty then [] else [.scoreboardWriteback w.key 0])
  ++ (w.gangs.map (gangEvents w)).flatten
  ++ (if w.async.isEmpty then [] else [.asyncTrapDeliver w.key])
  ++ (match w.preempt with | .none => [] | _ => [.wavePreemptStop w.key, .preemptFallback w.key])
  ++ (if w.sched = .pending then [.wavePromote w.key] else [])
  ++ [.starvation w.key]

/-- The next step of an element of a store, push or atomic. -/
def elemEvents (o : MOp) (p : MElem × Nat) : List Instr :=
  match p.1.phase with
  | .dirty _ => [.dirtySectorTransmit o.id p.2]
  | .sent => [.storeArrive o.id p.2]
  | .arrived _ _ =>
    match o.kind with
    | .atomic _ _ _ => [.atomicApply o.id p.2]
    | .cas => [.atomicApply o.id p.2]
    | _ => [.storeApply o.id p.2]
  | .applied _ => [.gwctReturn o.id p.2]
  | _ => []

def mopEvents (o : MOp) : List Instr :=
  (if o.checked then [] else [.storeCheck o.id]) ++ (o.elems.zipIdx.map (elemEvents o)).flatten

def loadEvents (o : LOp) : List Instr :=
  (o.elems.zipIdx.filter (fun p => !p.1.done)).map (fun p => .loadReturn o.id p.2)

/-- The command at the head of the engine's list. -/
def engineEvents (core : Nat) (e : Engine) : List Instr :=
  (match e.cmds with
    | [] => []
    | c :: _ =>
      match c.kind with
      | .bload _ _ _ _ _ => [.bloadRun core]
      | .bswap => [.bswapRun core]
      | .mma _ _ _ _ _ _ _ (some l) =>
        if c.started then [.mmaGranuleCommit core]
        else if l.stage = 0 then [.bloadRun core] else if l.stage = 1 then [.bswapRun core] else [.mmaRun core]
      | .mma _ _ _ _ _ _ _ none => if c.started then [.mmaGranuleCommit core] else [.mmaRun core]
      | .accz _ _ => [.acczRun core]
      | .accwr _ _ _ => [.accwrRun core]
      | .accst _ _ _ _ _ _ _ => [.accstRun core]
      | _ => [])
  ++ (if e.baton.isSome then [.batonBudgetExpire core] else [])

def xferEvents (core ch : Nat) (x : Xfer) : List Instr :=
  match x.desc.pieces.find? (fun p => !x.landed.contains p) with
  | some p => if x.desc.op = 0 then [.copySectorLand core ch x.id p] else [.reductionChunkCommit core ch x.id p]
  | none => [.copyRecordComplete core ch x.id]

def channelEvents (core : Nat) (p : Channel × Nat) : List Instr :=
  (if p.1.walking.isNone && p.1.heads.isEmpty && !p.1.xfers.any (·.reread) then [] else [.chainRecordRead core p.2])
  ++ (p.1.xfers.map (xferEvents core p.2)).flatten

def coreEvents (p : Core × Nat) : List Instr :=
  engineEvents p.2 p.1.eng ++ (p.1.chans.zipIdx.map (channelEvents p.2)).flatten
  ++ p.1.tableOps.map (fun o => .tableOpComplete p.2 o.id)
  ++ p.1.changes.map (fun b => .combModeChangeDone p.2 b.bank)
  ++ (if p.1.tqWait.isEmpty then [] else [.trapQueueWrite p.2])
  ++ (if p.1.tinv.getLsbD 16 then [.tinvDone p.2] else [])
  ++ (if p.1.lastCtx.isSome && p.2 % 2 == 0 then [.sliceExpire (p.2 / 2)] else [])

def shipEvents (o : ShipOp) : List Instr :=
  (o.reqs.filter (fun r => !r.arrived || r.result.isNone)).map (fun r => .shipRequestArrive o.id r.lane) ++ [.shipResultsReturn o.id]

def benuriEvents (p : Benuri × Nat) : List Instr :=
  (if p.1.queue.isEmpty then [] else [.sectionStart p.2]) ++ [.sectionBudgetExpire p.2] ++ (if p.1.held.isEmpty then [] else [.shiptTokenPush p.2])

/-- A record that is due, at the ports that still lack it. -/
def dueRecords (s : State) (d : ErrDue) : List Instr :=
  if d.ripe s then ((d.ports s).filter (fun p => !d.told.contains p)).map (fun p => .errorRecordWrite p d.record) else []

def teamEvents (t : Team) : List Instr :=
  if t.res = .ended then []
  else
    .teamEnd t.gid t.num ::
      (match t.res with
        | .resident => [.teamYield t.gid t.num]
        | _ => [.teamResume t.gid t.num t.core, .teamResume t.gid t.num 0])

/-- The distributor at a partition; any core with room may take what it admits. -/
def partEvents (s : State) (part : Nat) : List Instr :=
  let cores := (partPairs s part).map (2 * ·)
  (match sqTurn s part with | some q => [.sqFetch part q] | none => [])
  ++ (match nextCand s part with
    | some (.head _) => [.gridAdmit part]
    | some (.more gid) =>
      cores.map (fun c => if ((s.grid? gid part).map Grid.range).getD false then .rangeSplit part gid c else .teamAdmit part gid c)
    | some (.back gid t) => cores.map (.teamResume gid t)
    | none => if (s.part part).lq.isEmpty then [] else [.gridAdmit part])
  ++ (s.waves.filter (fun w => decide (w.key.core < 256) && s.partOf w.key.core == part && s.waveDesc w 496 496 == 1)).flatMap
    (fun w => [.periodStart part (s.waveDesc w 495 488), .budgetExhaust part (s.waveDesc w 495 488)])
  ++ (s.actBuds.filter (fun x => x.part == part)).flatMap (fun x => [.periodStart part x.entry, .budgetExhaust part x.entry])
  ++ [.preemptTimeout part]

/-- Every event that something in the state waits for. -/
def ownEvents (s : State) : List Instr :=
  s.waves.flatMap waveEvents ++ s.mops.flatMap mopEvents ++ s.loads.flatMap loadEvents
  ++ s.cores.zipIdx.flatMap coreEvents ++ s.ships.flatMap shipEvents ++ s.benuris.zipIdx.flatMap benuriEvents
  ++ s.teams.flatMap teamEvents ++ [0, 1, 2, 3].flatMap (partEvents s)
  ++ s.io.reqs.map (fun r => .ioPlacementTimeout r.id false)
  ++ s.io.posted.map (fun r => .ioPlacementTimeout r.id true)
  ++ s.io.held.map (fun h => .ioRecordPush h.part)
  ++ (if s.lease.held then [.hostLeaseExpire] else [])
  ++ s.root.errs.flatMap (dueRecords s)
  ++ (s.ships.flatMap (fun o => if o.tokens.isNone then [] else o.reqs.filterMap (fun r =>
      if r.rank ≠ s.fabric.rank ∧ r.result.isSome then some (.shiptTokenPush r.home) else none)))
  ++ s.ports.zipIdx.flatMap (fun p =>
    p.1.reqs.map (fun r => .pageResponseTimeout p.2 r.ctx r.page))

/-- What the device does by itself in this cycle: the events take turns with the ready wave, which comes every second time. -/
def idleEvent (s : State) : Option Instr :=
  let l := ownEvents s
  if l.isEmpty ∨ (s.cyc % 2 = 0 ∧ (pickWave s).isSome) then none else l[s.cyc / 2 % l.length]?

end Sys2Proof.Machine
end

