-- ==== Sys2Proof/Machine/Riscv.lean ====
section
/-! DEFINITION. The supervisor cores (00 R3): one instruction of RV64GC with Zicsr and Zifencei, S-mode and Sv57. The spec names this
instruction set and lays none of it out: the encodings, the control registers and the traps are the RISC-V family's (log 111). Memory and
registers are reached as `sideWrite` and `coreSideRead` say, translation tables as the device's walker reads them (R384, R385). -/

namespace Sys2Proof.Machine

/-! ## Registers -/

def rvX (u : Supervisor) (n : Nat) : DWord := if n = 0 then 0 else SMap.get 0 u.x n

/-- Register 0 discards writes. -/
def setRvX (u : Supervisor) (n : Nat) (v : DWord) : Supervisor := if n = 0 then u else { u with x := SMap.set 0 u.x n v }

def rvF (u : Supervisor) (n : Nat) : DWord := SMap.get 0 u.f n

def rvC (u : Supervisor) (n : Nat) : DWord := SMap.get 0 u.csrs n

def setRvC (u : Supervisor) (n : Nat) (v : DWord) : Supervisor := { u with csrs := SMap.set 0 u.csrs n v }

/-- The low `w` bits with their sign. -/
def rvSext (w x : Nat) : DWord := (BitVec.ofNat w x).signExtend 64

/-- The bits of mstatus that sstatus shows. -/
def sstatusMask : DWord := 0x80000003000DE762#64

/-- The bits of mstatus that software writes: SIE, MIE, SPIE, MPIE, SPP, MPP, FS, MPRV, SUM, MXR, TVM, TW, TSR. -/
def mstatusMask : DWord := 0x00000000007E79AA#64

/-- mstatus as it reads: SD says that the float state is dirty. -/
def rvStatus (u : Supervisor) : DWord :=
  let x := rvC u 0x300
  if x.extractLsb' 13 2 = 3#2 then x ||| 0x8000000000000000#64 else x

/-- Writes mstatus, and sstatus with it; there is no privilege 2. -/
def setStatus (u : Supervisor) (v : DWord) : Supervisor :=
  let v := if v.extractLsb' 11 2 = 2#2 then v &&& ~~~0x1800#64 else v
  let x := (rvC u 0x300 &&& ~~~mstatusMask) ||| (v &&& mstatusMask)
  setRvC (setRvC u 0x300 x) 0x100 (x &&& sstatusMask)

/-- Writes an f register; the float state is then dirty. -/
def setRvF (u : Supervisor) (n : Nat) (v : DWord) : Supervisor :=
  setStatus { u with f := SMap.set 0 u.f n v } (rvC u 0x300 ||| 0x6000#64)

/-- Pending interrupts: those of S-mode, and those of M-mode. -/
def rvPending (u : Supervisor) : DWord := (rvC u 0x144 &&& 0x222#64) ||| (rvC u 0x344 &&& 0x888#64)

/-! ## Traps -/

/-- The core enters its handler: in S-mode when the cause is delegated and arises below M-mode, else in M-mode. -/
def rvEnter (u : Supervisor) (irq : Bool) (cause tval : Nat) : Supervisor :=
  let st := (rvC u 0x300).toNat
  let toS := decide (u.priv.toNat < 2) && (rvC u (if irq then 0x303 else 0x302)).getLsbD cause
  let code : DWord := BitVec.ofNat 64 cause ||| (if irq then 0x8000000000000000#64 else 0)
  let vec := rvC u (if toS then 0x105 else 0x305)
  let base := vec &&& ~~~3#64
  let goal := if irq && vec.getLsbD 0 then base + BitVec.ofNat 64 (4 * cause) else base
  let st' := if toS then setField (setField (setField st 5 5 (field st 1 1)) 1 1 0) 8 8 (u.priv.toNat % 2)
    else setField (setField (setField st 7 7 (field st 3 3)) 3 3 0) 12 11 u.priv.toNat
  let first := if toS then 0x141 else 0x341
  let v := setRvC (setRvC (setRvC (setStatus u (BitVec.ofNat 64 st')) first u.pc) (first + 1) code) (first + 2) (BitVec.ofNat 64 tval)
  { v with pc := goal, priv := if toS then 1 else 3, waiting := false }

/-- The interrupt that is taken before the next instruction: of those that the privilege lets through, M-mode's before S-mode's, external
before software before timer. -/
def rvIrq (u : Supervisor) : Option Nat :=
  let want := rvPending u &&& rvC u 0x304
  let deleg := rvC u 0x303
  let st := rvC u 0x300
  let m := decide (u.priv.toNat < 3) || st.getLsbD 3
  let sOn := decide (u.priv.toNat < 1) || (u.priv.toNat == 1 && st.getLsbD 1)
  let order := [11, 3, 7, 9, 1, 5]
  match order.find? (fun i => m && want.getLsbD i && !deleg.getLsbD i) with
  | some i => some i
  | none => order.find? (fun i => sOn && want.getLsbD i && deleg.getLsbD i)

/-! ## Control registers -/

/-- The control register exists. Physical memory protection has no entries. -/
def csrKnown (n : Nat) : Bool :=
  [0x001, 0x002, 0x003, 0xC00, 0xC01, 0xC02, 0x100, 0x104, 0x105, 0x106, 0x10A, 0x140, 0x141, 0x142, 0x143, 0x144, 0x180,
    0x300, 0x301, 0x302, 0x303, 0x304, 0x305, 0x306, 0x30A, 0x320, 0x340, 0x341, 0x342, 0x343, 0x344, 0xB00, 0xB02,
    0xF11, 0xF12, 0xF13, 0xF14, 0xF15].contains n
  || (decide (0x3A0 ≤ n) && decide (n < 0x3F0)) || (decide (0xB03 ≤ n) && decide (n < 0xB20)) || (decide (0x323 ≤ n) && decide (n < 0x340))
  || (decide (0xC03 ≤ n) && decide (n < 0xC20))

/-- A control register as it reads. A core of 1.5 GHz counts every second cycle of the arithmetic clock; time is the GTB. -/
def csrRead (s : State) (core : Nat) (u : Supervisor) (n : Nat) : DWord :=
  match n with
  | 0x001 => rvC u 3 &&& 0x1F#64
  | 0x002 => (rvC u 3 >>> 5) &&& 7#64
  | 0x100 => rvStatus u &&& sstatusMask
  | 0x104 => rvC u 0x304 &&& rvC u 0x303
  | 0x144 => rvPending u &&& rvC u 0x303
  | 0x300 => rvStatus u
  | 0x344 => rvPending u
  | 0xB00 => BitVec.ofNat 64 (s.cyc / 2) + rvC u 0xB00
  | 0xC00 => BitVec.ofNat 64 (s.cyc / 2) + rvC u 0xB00
  | 0xC01 => BitVec.ofNat 64 s.gtb
  | 0xC02 => rvC u 0xB02
  | 0xF14 => BitVec.ofNat 64 core
  | n =>
    if decide (0x3A0 ≤ n) && decide (n < 0x3F0) || decide (0xB03 ≤ n) || decide (0x323 ≤ n) && decide (n < 0x340) then 0 else rvC u n

/-- Writes a control register; bits that it does not have keep their values. -/
def csrWrite (s : State) (u : Supervisor) (n : Nat) (v : DWord) : Supervisor :=
  let into (m : Nat) (mask : DWord) : Supervisor := setRvC u m ((rvC u m &&& ~~~mask) ||| (v &&& mask))
  let fcsr (x : DWord) : Supervisor := setStatus (setRvC u 3 x) (rvC u 0x300 ||| 0x6000#64)
  match n with
  | 0x001 => fcsr ((rvC u 3 &&& 0xE0#64) ||| (v &&& 0x1F#64))
  | 0x002 => fcsr ((rvC u 3 &&& 0x1F#64) ||| ((v &&& 7#64) <<< 5))
  | 0x003 => fcsr (v &&& 0xFF#64)
  | 0x100 => setStatus u ((rvC u 0x300 &&& ~~~(sstatusMask &&& mstatusMask)) ||| (v &&& sstatusMask &&& mstatusMask))
  | 0x104 => into 0x304 (rvC u 0x303)
  | 0x105 => into 0x105 (~~~2#64)
  | 0x106 => into 0x106 7#64
  | 0x10A => into 0x10A 1#64
  | 0x140 => into 0x140 (~~~0#64)
  | 0x141 => into 0x141 (~~~1#64)
  | 0x142 => into 0x142 (~~~0#64)
  | 0x143 => into 0x143 (~~~0#64)
  | 0x144 => into 0x144 (2#64 &&& rvC u 0x303)
  | 0x180 => if v.toNat / 2 ^ 60 = 0 ∨ v.toNat / 2 ^ 60 = 10 then setRvC u 0x180 v else u
  | 0x300 => setStatus u v
  | 0x302 => into 0x302 0xB3FF#64
  | 0x303 => into 0x303 0x222#64
  | 0x304 => into 0x304 0xAAA#64
  | 0x305 => into 0x305 (~~~2#64)
  | 0x306 => into 0x306 7#64
  | 0x30A => into 0x30A 1#64
  | 0x320 => into 0x320 5#64
  | 0x340 => into 0x340 (~~~0#64)
  | 0x341 => into 0x341 (~~~1#64)
  | 0x342 => into 0x342 (~~~0#64)
  | 0x343 => into 0x343 (~~~0#64)
  | 0x344 => into 0x144 0x22#64
  | 0xB00 => setRvC u 0xB00 (v - BitVec.ofNat 64 (s.cyc / 2))
  | 0xB02 => setRvC u 0xB02 v
  | _ => u

/-- The privilege may access the register: its own level, write access where it is written, the counters that are enabled, satp under
TVM, the float registers while the float state is on. -/
def csrMay (u : Supervisor) (n : Nat) (write : Bool) : Bool :=
  let p := u.priv.toNat
  let counter := decide (0xC00 ≤ n) && decide (n < 0xC20)
  csrKnown n && decide (n / 256 % 4 ≤ p) && !(write && n / 1024 == 3)
    && (!counter || p == 3 || ((rvC u 0x306).getLsbD (n % 32) && (p == 1 || (rvC u 0x106).getLsbD (n % 32))))
    && !(n == 0x180 && p == 1 && (rvC u 0x300).getLsbD 20)
    && !(decide (n < 4) && (rvC u 0x300).extractLsb' 13 2 == 0#2)

/-! ## Memory -/

/-- What an instruction or an access of it comes to: the core goes on, it traps, or the access waits and the instruction comes again. -/
inductive RvOut where
  | next (u : Supervisor) (s : State)
  | trap (cause tval : Nat) (s : State)
  | again (s : State)
  deriving Repr

/-- 0 a fetch, 1 a load, 2 a store: the access fault and the page fault. -/
def rvAccessFault (kind : Nat) : Nat := match kind with | 0 => 1 | 1 => 5 | _ => 7

def rvPageFault (kind : Nat) : Nat := match kind with | 0 => 12 | 1 => 13 | _ => 15

/-- The privilege of an access: that of MPP for data under MPRV. -/
def rvAccessPriv (u : Supervisor) (kind : Nat) : Nat :=
  if kind ≠ 0 ∧ (rvC u 0x300).getLsbD 17 then field (rvC u 0x300).toNat 12 11 else u.priv.toNat

/-- The leaf allows the access: R, W or X, R through X under MXR; U for the mode, S-mode data in user pages under SUM. -/
def rvAllows (u : Supervisor) (kind priv pte : Nat) : Bool :=
  let st := rvC u 0x300
  (match kind with
    | 0 => pte.testBit 3
    | 1 => pte.testBit 1 || (pte.testBit 3 && st.getLsbD 19)
    | _ => pte.testBit 2)
  && (if priv = 0 then pte.testBit 4 else !pte.testBit 4 || (kind != 0 && st.getLsbD 18))

/-- The physical address of a virtual one, or the trap. The walk is the device's (R384), its A and D bits are set as by any walk (R385);
nothing is cached. A frame of another device is not reached by a supervisor core (log 111). -/
def rvPlace (s : State) (core : Nat) (u : Supervisor) (kind : Nat) (va : DWord) : Except Nat Nat × State :=
  let priv := rvAccessPriv u kind
  let satp := (rvC u 0x180).toNat
  if priv = 3 ∨ satp / 2 ^ 60 ≠ 10 then (.ok va.toNat, s)
  else if (va.extractLsb' 0 57).signExtend 64 ≠ va then (.error (rvPageFault kind), s)
  else
    let a := va.toNat % 2 ^ 57
    match walkFrom s (s.partOf core) a 5 (field satp 43 0 * 4096) with
    | .fault c => (.error (if c = 7 then rvAccessFault kind else rvPageFault kind), s)
    | .leaf e lvl at_ =>
      if !rvAllows u kind priv e then (.error (rvPageFault kind), s)
      else if e.testBit 62 && field e 61 58 != s.fabric.rank then (.error (rvAccessFault kind), s)
      else (.ok (leafAddr e lvl a), if walkerBusy s 1024 then s else orEntry s 1024 at_ (0x40 + (if kind = 2 then 0x80 else 0)))

/-- Something answers at the bytes: registers, or device memory in the windows, unpoisoned for what reads it (R340, R392). -/
def rvThere (s : State) (core pa n : Nat) (read : Bool) : Bool :=
  match regPlace pa with
  | .memory a => (List.range n).all (fun i => s.inWindow (s.partOf core) (a + i)) && !(read && s.poisonedIn (.dev a) n)
  | _ => true

/-- A load of `n` bytes: its value, or the trap. Misaligned data trap. -/
def rvLoad (s : State) (core : Nat) (u : Supervisor) (va : DWord) (n : Nat) : Except Nat Nat × State :=
  if va.toNat % n ≠ 0 then (.error 4, s)
  else
    match rvPlace s core u 1 va with
    | (.error c, s) => (.error c, s)
    | (.ok pa, s) => if rvThere s core pa n true then (.ok (coreSideRead s (some core) pa (8 * n)), s) else (.error 5, s)

/-- A store of `n` bytes, after which the core is `u'`. It comes after the D bit that its walk sets (R385). -/
def rvStore (s : State) (core : Nat) (u u' : Supervisor) (va : DWord) (n v : Nat) : RvOut :=
  if va.toNat % n ≠ 0 then .trap 6 va.toNat s
  else
    match rvPlace s core u 2 va with
    | (.error c, s) => .trap c va.toNat s
    | (.ok pa, s) =>
      if !rvThere s core pa n false then .trap 7 va.toNat s
      else if walkerBusy s 1024 then .again s
      else
        match sideWrite s (some core) pa (8 * n) (v % 2 ^ (8 * n)) with
        | (true, s) => .next u' s
        | (false, s) => .again s

/-- The place of an atomic in device memory: its physical address and value. -/
def rvAtomic (s : State) (core : Nat) (u : Supervisor) (kind : Nat) (va : DWord) (n : Nat) : Except Nat (Nat × Nat) × State :=
  if va.toNat % n ≠ 0 then (.error (if kind = 1 then 4 else 6), s)
  else
    match rvPlace s core u kind va with
    | (.error c, s) => (.error c, s)
    | (.ok pa, s) =>
      match regPlace pa with
      | .memory a => if rvThere s core a n true then (.ok (a, coreSideRead s (some core) a (8 * n)), s) else (.error (rvAccessFault kind), s)
      | _ => (.error (rvAccessFault kind), s)

/-! ## Compressed instructions -/

def rvEncI (imm rs1 f3 rd op : Nat) : Nat := imm % 4096 * 2 ^ 20 + rs1 * 2 ^ 15 + f3 * 2 ^ 12 + rd * 2 ^ 7 + op

def rvEncS (imm rs2 rs1 f3 op : Nat) : Nat :=
  field imm 11 5 * 2 ^ 25 + rs2 * 2 ^ 20 + rs1 * 2 ^ 15 + f3 * 2 ^ 12 + field imm 4 0 * 2 ^ 7 + op

def rvEncR (f7 rs2 rs1 f3 rd op : Nat) : Nat := f7 * 2 ^ 25 + rs2 * 2 ^ 20 + rs1 * 2 ^ 15 + f3 * 2 ^ 12 + rd * 2 ^ 7 + op

def rvEncB (imm rs1 f3 : Nat) : Nat :=
  field imm 12 12 * 2 ^ 31 + field imm 10 5 * 2 ^ 25 + rs1 * 2 ^ 15 + f3 * 2 ^ 12 + field imm 4 1 * 2 ^ 8 + field imm 11 11 * 2 ^ 7 + 0x63

def rvEncJ (imm rd : Nat) : Nat :=
  field imm 20 20 * 2 ^ 31 + field imm 10 1 * 2 ^ 21 + field imm 11 11 * 2 ^ 20 + field imm 19 12 * 2 ^ 12 + rd * 2 ^ 7 + 0x6F

/-- Bits of a compressed instruction gathered into an immediate: (high, low, place of the low bit). -/
def gatherBits (h : Nat) (l : List (Nat × Nat × Nat)) : Nat := (l.map (fun p => field h p.1 p.2.1 * 2 ^ p.2.2)).sum

/-- A gathered immediate of `w` bits with its sign, as the unsigned number of 21 bits that holds it. -/
def signBits (w x : Nat) : Nat := ((BitVec.ofNat w x).signExtend 21).toNat

/-- Quadrant 0: loads and stores of registers 8 to 15. -/
def rvExpand0 (h : Nat) : Option Nat :=
  let rd := 8 + field h 4 2
  let rs := 8 + field h 9 7
  let d := gatherBits h [(12, 10, 3), (6, 5, 6)]
  let w := gatherBits h [(12, 10, 3), (6, 6, 2), (5, 5, 6)]
  match field h 15 13 with
  | 0 =>
    let i := gatherBits h [(12, 11, 4), (10, 7, 6), (6, 6, 2), (5, 5, 3)]
    if i = 0 then none else some (rvEncI i 2 0 rd 0x13)
  | 1 => some (rvEncI d rs 3 rd 0x07)
  | 2 => some (rvEncI w rs 2 rd 0x03)
  | 3 => some (rvEncI d rs 3 rd 0x03)
  | 5 => some (rvEncS d rd rs 3 0x27)
  | 6 => some (rvEncS w rd rs 2 0x23)
  | 7 => some (rvEncS d rd rs 3 0x23)
  | _ => none

/-- Quadrant 1: arithmetic, jumps and branches. -/
def rvExpand1 (h : Nat) : Option Nat :=
  let rd := field h 11 7
  let rc := 8 + field h 9 7
  let r2 := 8 + field h 4 2
  let i := signBits 6 (gatherBits h [(12, 12, 5), (6, 2, 0)])
  let sh := gatherBits h [(12, 12, 5), (6, 2, 0)]
  let b := signBits 9 (gatherBits h [(12, 12, 8), (11, 10, 3), (6, 5, 6), (4, 3, 1), (2, 2, 5)])
  match field h 15 13 with
  | 0 => some (rvEncI i rd 0 rd 0x13)
  | 1 => if rd = 0 then none else some (rvEncI i rd 0 rd 0x1B)
  | 2 => some (rvEncI i 0 0 rd 0x13)
  | 3 =>
    if rd = 2 then
      let a := gatherBits h [(12, 12, 9), (6, 6, 4), (5, 5, 6), (4, 3, 7), (2, 2, 5)]
      if a = 0 then none else some (rvEncI (signBits 10 a) 2 0 2 0x13)
    else if sh = 0 then none
    else some (i % 2 ^ 20 * 2 ^ 12 + rd * 2 ^ 7 + 0x37)
  | 4 =>
    match field h 11 10 with
    | 0 => some (rvEncI sh rc 5 rc 0x13)
    | 1 => some (rvEncI (0x400 + sh) rc 5 rc 0x13)
    | 2 => some (rvEncI i rc 7 rc 0x13)
    | _ =>
      match field h 12 12, field h 6 5 with
      | 0, 0 => some (rvEncR 0x20 r2 rc 0 rc 0x33)
      | 0, 1 => some (rvEncR 0 r2 rc 4 rc 0x33)
      | 0, 2 => some (rvEncR 0 r2 rc 6 rc 0x33)
      | 0, _ => some (rvEncR 0 r2 rc 7 rc 0x33)
      | _, 0 => some (rvEncR 0x20 r2 rc 0 rc 0x3B)
      | _, 1 => some (rvEncR 0 r2 rc 0 rc 0x3B)
      | _, _ => none
  | 5 =>
    some (rvEncJ (signBits 12 (gatherBits h
      [(12, 12, 11), (11, 11, 4), (10, 9, 8), (8, 8, 10), (7, 7, 6), (6, 6, 7), (5, 3, 1), (2, 2, 5)])) 0)
  | 6 => some (rvEncB b rc 0)
  | _ => some (rvEncB b rc 1)

/-- Quadrant 2: loads and stores at the stack pointer, register jumps and moves. -/
def rvExpand2 (h : Nat) : Option Nat :=
  let rd := field h 11 7
  let r2 := field h 6 2
  let ld := gatherBits h [(12, 12, 5), (6, 5, 3), (4, 2, 6)]
  let sd := gatherBits h [(12, 10, 3), (9, 7, 6)]
  match field h 15 13 with
  | 0 => some (rvEncI (gatherBits h [(12, 12, 5), (6, 2, 0)]) rd 1 rd 0x13)
  | 1 => some (rvEncI ld 2 3 rd 0x07)
  | 2 => if rd = 0 then none else some (rvEncI (gatherBits h [(12, 12, 5), (6, 4, 2), (3, 2, 6)]) 2 2 rd 0x03)
  | 3 => if rd = 0 then none else some (rvEncI ld 2 3 rd 0x03)
  | 4 =>
    if field h 12 12 = 0 then
      (if r2 = 0 then (if rd = 0 then none else some (rvEncI 0 rd 0 0 0x67)) else some (rvEncR 0 r2 0 0 rd 0x33))
    else if r2 = 0 then (if rd = 0 then some 0x00100073 else some (rvEncI 0 rd 0 1 0x67))
    else some (rvEncR 0 r2 rd 0 rd 0x33)
  | 5 => some (rvEncS sd r2 2 3 0x27)
  | 6 => some (rvEncS (gatherBits h [(12, 9, 2), (8, 7, 6)]) r2 2 2 0x23)
  | _ => some (rvEncS sd r2 2 3 0x23)

/-- The instruction that a compressed one stands for; none for a reserved one. -/
def rvExpand (h : Nat) : Option Nat :=
  match h % 4 with
  | 0 => rvExpand0 h
  | 1 => rvExpand1 h
  | _ => rvExpand2 h

/-! ## Integer instructions -/

/-- The operations of OP and OP-IMM; `alt` is SUB and SRA. -/
def rvAlu (f3 : Nat) (alt : Bool) (a b : DWord) : DWord :=
  match f3 with
  | 0 => if alt then a - b else a + b
  | 1 => a <<< (b.toNat % 64)
  | 2 => if a.slt b then 1 else 0
  | 3 => if a.ult b then 1 else 0
  | 4 => a ^^^ b
  | 5 => if alt then a.sshiftRight (b.toNat % 64) else a >>> (b.toNat % 64)
  | 6 => a ||| b
  | _ => a &&& b

/-- Their 32-bit forms. -/
def rvAluW (f3 : Nat) (alt : Bool) (a b : DWord) : DWord :=
  let x := a.setWidth 32
  let y := b.setWidth 32
  let r : Word :=
    match f3 with
    | 0 => if alt then x - y else x + y
    | 1 => x <<< (y.toNat % 32)
    | _ => if alt then x.sshiftRight (y.toNat % 32) else x >>> (y.toNat % 32)
  r.signExtend 64

/-- Division of the family: by zero the quotient is -1 and the remainder the dividend; it truncates toward zero. -/
def rvDiv (f3 : Nat) (w : Nat) (a b : Int) : Int :=
  let zero : Int := if f3 = 4 ∨ f3 = 5 then -1 else a
  if b = 0 then zero
  else if f3 = 4 ∨ f3 = 5 then (if f3 = 4 ∧ a = -(2 ^ (w - 1)) ∧ b = -1 then a else a.tdiv b)
  else a.tmod b

/-- The M extension on 64 bits. -/
def rvMul (f3 : Nat) (a b : DWord) : DWord :=
  match f3 with
  | 0 => a * b
  | 1 => BitVec.ofInt 64 (a.toInt * b.toInt / 2 ^ 64)
  | 2 => BitVec.ofInt 64 (a.toInt * b.toNat / 2 ^ 64)
  | 3 => BitVec.ofNat 64 (a.toNat * b.toNat / 2 ^ 64)
  | 5 => BitVec.ofInt 64 (rvDiv 5 64 a.toNat b.toNat)
  | 7 => BitVec.ofInt 64 (rvDiv 7 64 a.toNat b.toNat)
  | n => BitVec.ofInt 64 (rvDiv n 64 a.toInt b.toInt)

/-- The M extension on 32 bits. -/
def rvMulW (f3 : Nat) (a b : DWord) : DWord :=
  let x : Word := a.setWidth 32
  let y : Word := b.setWidth 32
  let r : Word :=
    match f3 with
    | 0 => x * y
    | 5 => BitVec.ofInt 32 (rvDiv 5 32 x.toNat y.toNat)
    | 7 => BitVec.ofInt 32 (rvDiv 7 32 x.toNat y.toNat)
    | n => BitVec.ofInt 32 (rvDiv n 32 x.toInt y.toInt)
  r.signExtend 64

/-- The condition of a branch. -/
def rvTaken (f3 : Nat) (a b : DWord) : Bool :=
  match f3 with
  | 0 => a == b
  | 1 => a != b
  | 4 => a.slt b
  | 5 => !a.slt b
  | 6 => a.ult b
  | _ => !a.ult b

/-- What an AMO writes; `w` bits. -/
def rvAmo (f5 w : Nat) (old x : Nat) : Nat :=
  let o := (BitVec.ofNat w old).toInt
  let y := (BitVec.ofNat w x).toInt
  let r : Nat :=
    match f5 with
    | 0x00 => old + x
    | 0x01 => x
    | 0x04 => old ^^^ x
    | 0x08 => old ||| x
    | 0x0C => old &&& x
    | 0x10 => if o < y then old else x
    | 0x14 => if y < o then old else x
    | 0x18 => min old x
    | _ => max old x
  r % 2 ^ w

/-! ## Float instructions -/

/-- Format 0 of an instruction is single, 1 double: the format code of R66. -/
def rvFmt (fmt : Nat) : Nat := if fmt = 0 then 1 else 0

/-- An operand: a single that is not boxed reads as the canonical NaN. -/
def rvFsrc (u : Supervisor) (fmt n : Nat) : Nat :=
  let x := (rvF u n).toNat
  if fmt = 0 then (if x / 2 ^ 32 = 0xFFFFFFFF then x % 2 ^ 32 else 0x7FC00000) else x

/-- A result in its register, a single boxed. -/
def rvBox (fmt x : Nat) : DWord := if fmt = 0 then BitVec.ofNat 64 (x % 2 ^ 32 + 0xFFFFFFFF * 2 ^ 32) else BitVec.ofNat 64 x

/-- The flags of R51 in fcsr. -/
def rvFlags (u : Supervisor) (g : FlagBits) : Supervisor :=
  let b (i n : Nat) : Nat := if g.getLsbD i then n else 0
  let x := b 0 16 + b 1 8 + b 2 4 + b 3 2 + b 4 1
  if x = 0 then u else setStatus (setRvC u 3 (rvC u 3 ||| BitVec.ofNat 64 x)) (rvC u 0x300 ||| 0x6000#64)

/-- The rounding mode as R76 numbers it; none for a reserved one. -/
def rvRound (u : Supervisor) (rm : Nat) : Option Nat :=
  match if rm = 7 then field (rvC u 3).toNat 7 5 else rm with
  | 0 => some 0
  | 1 => some 1
  | 2 => some 3
  | 3 => some 2
  | 4 => some 4
  | _ => none

/-- Float to integer: a NaN is the largest value, an invalid conversion is not inexact. -/
def rvToInt (code mode : Nat) (v : Val) : FRes :=
  match v with
  | .nan _ => (wrapBits (codeWidth code) (intMax code), Flag.iv)
  | v =>
    let r := floatToInt code mode v
    (r.1, if r.2.getLsbD 0 then Flag.iv else r.2)

/-- The integer codes of FCVT's second field: W, WU, L, LU. -/
def rvIntCode (n : Nat) : Nat := match n with | 0 => 8 | 1 => 9 | 2 => 6 | _ => 7

/-- OP-FP. -/
def rvFloat (u : Supervisor) (w : Nat) : Option Supervisor :=
  let rd := field w 11 7
  let f3 := field w 14 12
  let n1 := field w 19 15
  let n2 := field w 24 20
  let fmt := field w 26 25
  let ty := rvFmt fmt
  let a := rvFsrc u fmt n1
  let b := rvFsrc u fmt n2
  let va := decodeFloat ty a
  let vb := decodeFloat ty b
  let top := 2 ^ (codeWidth ty - 1)
  let put (r : FRes) : Supervisor := rvFlags (setRvF u rd (rvBox fmt r.1)) r.2
  let int (r : FRes) (wide : Bool) : Supervisor := rvFlags (setRvX u rd (if wide then BitVec.ofNat 64 r.1 else rvSext 32 r.1)) r.2
  let rounded (f : Nat → FRes) : Option Supervisor := (rvRound u f3).map (fun m => put (f m))
  if 2 ≤ fmt then none
  else
    match field w 31 27 with
    | 0x00 => rounded (fun m => roundRes ty m false (fAdd m va vb))
    | 0x01 => rounded (fun m => roundRes ty m false (fAdd m va vb.negate))
    | 0x02 => rounded (fun m => roundRes ty m false (fMul va vb))
    | 0x03 => rounded (fun m => fDiv ty m false va vb)
    | 0x0B => if n2 = 0 then rounded (fun m => fSqrt ty m false va) else none
    | 0x04 =>
      let sign (x : Nat) : Nat := x / top % 2
      match f3 with
      | 0 => some (put (a % top + sign b * top, 0))
      | 1 => some (put (a % top + (1 - sign b) * top, 0))
      | 2 => some (put (a % top + (sign a + sign b) % 2 * top, 0))
      | _ => none
    | 0x05 => if f3 < 2 then some (put (fMinMax ty (f3 == 1) true a b)) else none
    | 0x08 =>
      if n2 = 1 - fmt then
        (rvRound u f3).map (fun m => put (roundVal ty m false (decodeFloat (rvFmt n2) (rvFsrc u n2 n1))))
      else none
    | 0x14 =>
      if f3 < 3 then
        let r := fCmp (match f3 with | 2 => 0 | 1 => 2 | _ => 3) va vb
        some (rvFlags (setRvX u rd (if r.1 then 1 else 0)) r.2)
      else none
    | 0x18 => if n2 < 4 then (rvRound u f3).map (fun m => int (rvToInt (rvIntCode n2) m va) (decide (2 ≤ n2))) else none
    | 0x1A =>
      if n2 < 4 then
        (rvRound u f3).map (fun m => put (roundVal ty m false (Val.ofInt (decodeInt (rvIntCode n2) (rvX u n1).toNat))))
      else none
    | 0x1C =>
      if n2 ≠ 0 then none
      else if f3 = 0 then some (setRvX u rd (if fmt = 0 then rvSext 32 (rvF u n1).toNat else rvF u n1))
      else if f3 = 1 then some (setRvX u rd (BitVec.ofNat 64 (2 ^ fClass ty a)))
      else none
    | 0x1E => if n2 = 0 ∧ f3 = 0 then some (setRvF u rd (rvBox fmt (rvX u n1).toNat)) else none
    | _ => none

/-- The fused multiply-adds: MADD, MSUB, NMSUB, NMADD. -/
def rvFused (u : Supervisor) (w : Nat) : Option Supervisor :=
  let fmt := field w 26 25
  let ty := rvFmt fmt
  let v (n : Nat) : Val := decodeFloat ty (rvFsrc u fmt n)
  let a := v (field w 19 15)
  let b := v (field w 24 20)
  let x := v (field w 31 27)
  let p := if field w 6 2 = 0x12 ∨ field w 6 2 = 0x13 then a.negate else a
  let y := if field w 6 2 = 0x11 ∨ field w 6 2 = 0x13 then x.negate else x
  if 2 ≤ fmt then none
  else
    (rvRound u (field w 14 12)).map (fun m =>
      let r := roundRes ty m false (fFma m p b y)
      rvFlags (setRvF u (field w 11 7) (rvBox fmt r.1)) r.2)

/-! ## One instruction -/

/-- SYSTEM: ECALL, EBREAK, SRET, MRET, WFI, SFENCE.VMA and the accesses of control registers. None is an illegal instruction. -/
def rvSystem (s : State) (core : Nat) (u v : Supervisor) (w : Nat) : Option RvOut :=
  let f3 := field w 14 12
  let rd := field w 11 7
  let n1 := field w 19 15
  let n := field w 31 20
  let p := u.priv.toNat
  let st := rvC u 0x300
  if f3 = 0 then
    if w = 0x00000073 then some (.trap (8 + p) 0 s)
    else if w = 0x00100073 then some (.trap 3 u.pc.toNat s)
    else if w = 0x10200073 then
      if p = 0 ∨ (p = 1 ∧ st.getLsbD 22) then none
      else
        let x := st.toNat
        let st' := setField (setField (setField (setField x 1 1 (field x 5 5)) 5 5 1) 8 8 0) 17 17 0
        some (.next { setStatus u (BitVec.ofNat 64 st') with pc := rvC u 0x141, priv := BitVec.ofNat 2 (field x 8 8) } s)
    else if w = 0x30200073 then
      if p ≠ 3 then none
      else
        let x := st.toNat
        let mpp := field x 12 11
        let st' := setField (setField (setField x 3 3 (field x 7 7)) 7 7 1) 12 11 0
        let st' := if mpp = 3 then st' else setField st' 17 17 0
        some (.next { setStatus u (BitVec.ofNat 64 st') with pc := rvC u 0x341, priv := BitVec.ofNat 2 mpp } s)
    else if w = 0x10500073 then
      if p = 0 ∨ (p = 1 ∧ st.getLsbD 21) then none else some (.next { v with waiting := true } s)
    else if field w 31 25 = 0x09 ∧ rd = 0 then
      if p = 0 ∨ (p = 1 ∧ st.getLsbD 20) then none else some (.next v s)
    else none
  else if f3 = 4 then none
  else
    let x : DWord := if 4 < f3 then BitVec.ofNat 64 n1 else rvX u n1
    let write := f3 % 4 = 1 ∨ n1 ≠ 0
    if !csrMay u n (decide write) then none
    else
      let old := csrRead s core u n
      let new := match f3 % 4 with | 1 => x | 2 => old ||| x | _ => old &&& ~~~x
      let v := if write then csrWrite s v n new else v
      some (.next (setRvX v rd old) s)

/-- LR, SC and the AMOs. SC succeeds when the bytes that LR read are as it left them (log 111). -/
def rvAmoOp (s : State) (core : Nat) (u v : Supervisor) (w : Nat) : Option RvOut :=
  let n := if field w 14 12 = 2 then 4 else 8
  let rd := field w 11 7
  let va := rvX u (field w 19 15)
  let x := (rvX u (field w 24 20)).toNat % 2 ^ (8 * n)
  let f5 := field w 31 27
  let ext (r : Nat) : DWord := rvSext (8 * n) r
  if field w 14 12 ≠ 2 ∧ field w 14 12 ≠ 3 then none
  else if f5 = 0x02 then
    if field w 24 20 ≠ 0 then none
    else
      match rvAtomic s core u 1 va n with
      | (.error c, s) => some (.trap c va.toNat s)
      | (.ok (pa, old), s) => some (.next { setRvX v rd (ext old) with resv := some (pa, n, old) } s)
  else if f5 = 0x03 then
    match rvAtomic s core u 2 va n with
    | (.error c, s) => some (.trap c va.toNat s)
    | (.ok (pa, old), s) =>
      if u.resv ≠ some (pa, n, old) then some (.next { setRvX v rd 1 with resv := none } s)
      else if walkerBusy s 1024 then some (.again s)
      else
        match sideStore s (some core) pa (8 * n) x with
        | (true, s) => some (.next { setRvX v rd 0 with resv := none } s)
        | (false, s) => some (.again s)
  else if !([0x00, 0x01, 0x04, 0x08, 0x0C, 0x10, 0x14, 0x18, 0x1C].contains f5) then none
  else
    match rvAtomic s core u 2 va n with
    | (.error c, s) => some (.trap c va.toNat s)
    | (.ok (pa, old), s) =>
      if walkerBusy s 1024 then some (.again s)
      else
        match sideStore s (some core) pa (8 * n) (rvAmo f5 (8 * n) old x) with
        | (true, s) => some (.next (setRvX v rd (ext old)) s)
        | (false, s) => some (.again s)

/-- The instruction in 32 bits, of `len` bytes in memory; none is an illegal one. -/
def rvExec (s : State) (core : Nat) (u : Supervisor) (len w : Nat) : Option RvOut :=
  let rd := field w 11 7
  let f3 := field w 14 12
  let n1 := field w 19 15
  let n2 := field w 24 20
  let f7 := field w 31 25
  let a := rvX u n1
  let b := rvX u n2
  let immI := rvSext 12 (field w 31 20)
  let immS := rvSext 12 (field w 31 25 * 32 + rd)
  let immU := rvSext 32 (w / 4096 * 4096)
  let immB := rvSext 13 (field w 31 31 * 2 ^ 12 + field w 7 7 * 2 ^ 11 + field w 30 25 * 2 ^ 5 + field w 11 8 * 2)
  let immJ := rvSext 21 (field w 31 31 * 2 ^ 20 + field w 19 12 * 2 ^ 12 + field w 20 20 * 2 ^ 11 + field w 30 21 * 2)
  let link := u.pc + BitVec.ofNat 64 len
  let v : Supervisor := { u with pc := link }
  let put (x : DWord) : Option RvOut := some (.next (setRvX v rd x) s)
  let fpOn := (rvC u 0x300).extractLsb' 13 2 != 0#2
  match w % 128 with
  | 0x37 => put immU
  | 0x17 => put (u.pc + immU)
  | 0x6F => some (.next { setRvX v rd link with pc := u.pc + immJ } s)
  | 0x67 => if f3 = 0 then some (.next { setRvX v rd link with pc := (a + immI) &&& ~~~1#64 } s) else none
  | 0x63 => if f3 = 2 ∨ f3 = 3 then none else some (.next (if rvTaken f3 a b then { u with pc := u.pc + immB } else v) s)
  | 0x03 =>
    if f3 = 7 then none
    else
      let n := 2 ^ (f3 % 4)
      match rvLoad s core u (a + immI) n with
      | (.error c, s) => some (.trap c (a + immI).toNat s)
      | (.ok x, s) => some (.next (setRvX v rd (if f3 < 4 then rvSext (8 * n) x else BitVec.ofNat 64 x)) s)
  | 0x23 => if 3 < f3 then none else some (rvStore s core u v (a + immS) (2 ^ f3) b.toNat)
  | 0x13 =>
    if f3 = 1 then (if field w 31 26 = 0 then put (rvAlu 1 false a (BitVec.ofNat 64 (field w 25 20))) else none)
    else if f3 = 5 then
      (if field w 31 26 = 0 ∨ field w 31 26 = 0x10 then put (rvAlu 5 (field w 30 30 == 1) a (BitVec.ofNat 64 (field w 25 20))) else none)
    else put (rvAlu f3 false a immI)
  | 0x1B =>
    if f3 = 0 then put (rvAluW 0 false a immI)
    else if f3 = 1 ∧ f7 = 0 then put (rvAluW 1 false a (BitVec.ofNat 64 n2))
    else if f3 = 5 ∧ (f7 = 0 ∨ f7 = 0x20) then put (rvAluW 5 (f7 == 0x20) a (BitVec.ofNat 64 n2))
    else none
  | 0x33 =>
    if f7 = 1 then put (rvMul f3 a b)
    else if f7 = 0 ∨ (f7 = 0x20 ∧ (f3 = 0 ∨ f3 = 5)) then put (rvAlu f3 (f7 == 0x20) a b)
    else none
  | 0x3B =>
    if f7 = 1 then (if f3 = 0 ∨ 4 ≤ f3 then put (rvMulW f3 a b) else none)
    else if (f7 = 0 ∧ (f3 = 0 ∨ f3 = 1 ∨ f3 = 5)) ∨ (f7 = 0x20 ∧ (f3 = 0 ∨ f3 = 5)) then put (rvAluW f3 (f7 == 0x20) a b)
    else none
  | 0x0F => if f3 < 2 then some (.next v s) else none
  | 0x73 => rvSystem s core u v w
  | 0x2F => rvAmoOp s core u v w
  | 0x07 =>
    if !fpOn ∨ (f3 ≠ 2 ∧ f3 ≠ 3) then none
    else
      match rvLoad s core u (a + immI) (2 ^ f3) with
      | (.error c, s) => some (.trap c (a + immI).toNat s)
      | (.ok x, s) => some (.next (setRvF v rd (rvBox (f3 - 2) x)) s)
  | 0x27 => if !fpOn ∨ (f3 ≠ 2 ∧ f3 ≠ 3) then none else some (rvStore s core u v (a + immS) (2 ^ f3) (rvF u n2).toNat)
  | 0x53 => if fpOn then (rvFloat v w).map (fun v => .next v s) else none
  | 0x43 => if fpOn then (rvFused v w).map (fun v => .next v s) else none
  | 0x47 => if fpOn then (rvFused v w).map (fun v => .next v s) else none
  | 0x4B => if fpOn then (rvFused v w).map (fun v => .next v s) else none
  | 0x4F => if fpOn then (rvFused v w).map (fun v => .next v s) else none
  | _ => none

/-- Two bytes of code, in device memory. -/
def rvHalf (s : State) (core : Nat) (u : Supervisor) (va : DWord) : Except Nat Nat × State :=
  match rvPlace s core u 0 va with
  | (.error c, s) => (.error c, s)
  | (.ok pa, s) =>
    match regPlace pa with
    | .memory _ => if rvThere s core pa 2 true then (.ok (coreSideRead s (some core) pa 16), s) else (.error 1, s)
    | _ => (.error 1, s)

/-- The instruction at the pc is fetched and executed. -/
def rvIssue (s : State) (core : Nat) (u : Supervisor) : RvOut :=
  match rvHalf s core u u.pc with
  | (.error c, s) => .trap c u.pc.toNat s
  | (.ok h, s) =>
    if h % 4 ≠ 3 then ((rvExpand h).bind (rvExec s core u 2)).getD (.trap 2 h s)
    else
      match rvHalf s core u (u.pc + 2) with
      | (.error c, s) => .trap c (u.pc + 2).toNat s
      | (.ok k, s) => (rvExec s core u 4 (h + k * 2 ^ 16)).getD (.trap 2 (h + k * 2 ^ 16) s)

/-- minstret counts what retires, unless it is inhibited. -/
def rvRetire (u : Supervisor) : Supervisor :=
  if (rvC u 0x320).getLsbD 2 then u else setRvC u 0xB02 (rvC u 0xB02 + 1)

/-- The supervisor core takes an interrupt, or executes its next instruction; in WFI it waits for a pending one. It runs once bring-up has
released it (R418). -/
def superviseStep (core : Nat) (s : State) : State :=
  let u := (s.core core).sup
  let set (u : Supervisor) (s : State) : State := s.updCore core (fun x => { x with sup := u })
  if s.root.boot < 4 ∨ s.root.boot = 15 ∨ 192 ≤ core then s
  else
    match rvIrq u with
    | some i => set (rvEnter u true i 0) s
    | none =>
      if u.waiting && rvPending u &&& rvC u 0x304 == 0 then s
      else
        match rvIssue s core { u with waiting := false } with
        | .next v s1 => set (rvRetire v) s1
        | .trap c t s1 => set (rvEnter u false c t) s1
        | .again s1 => s1

end Sys2Proof.Machine
end

