-- ==== Sys2Proof/Machine/Step.lean ====
section
/-! DEFINITION. One step of the machine, and the placing of a program's first instruction. -/

namespace Sys2Proof.Machine

/-- After a step's move, what follows of itself. -/
def settled : Host.Outcome State Fault Refusal → Host.Outcome State Fault Refusal
  | .next s => .next (settleAll s)
  | .fault r => .fault r
  | .refused r => .refused r

/-- The gang that `chooseGang` brought to its instruction runs it. -/
def runChosen : Chosen → Host.Outcome State Fault Refusal
  | .run i s => settled (exec i s)
  | .passed s => .next (settleAll s)

/-- What the device does by itself when no store or atomic is due. -/
def ownMove (s : State) : Host.Outcome State Fault Refusal :=
  match idleEvent s with
  | some i => settled (exec i s)
  | none =>
    match pickWave s with
    | some w => runChosen (chooseGang s w.key ((w.readyGang s.cyc).getD 0))
    | none => .next (settleAll s)

/-- A store or atomic whose T has come applies before anything else happens (R209, R212, R213). -/
def dueFirst (s : State) (go : State → Host.Outcome State Fault Refusal) : Host.Outcome State Fault Refusal :=
  match dueEvent s with
  | some i => settled (exec i s)
  | none => go s

/-- The chosen move, its cycles gone by. -/
def runMove (rest : List Act) (m : Move) (s : State) : Host.Outcome State Fault Refusal :=
  match m with
  | .issue w q => runChosen (chooseGang { s with agenda := rest } w q)
  | .event i => settled (exec i { s with agenda := rest })
  | .supervise core => .next (settleAll (superviseStep core { s with agenda := rest }))

/-- One step: what is due, then the next chosen move after its cycles, or, with none chosen, what the device does by itself (log 2). -/
def step (s : State) : Host.Outcome State Fault Refusal :=
  match s.agenda with
  | a :: rest => dueFirst { s.advance a.cycles with agenda := { a with cycles := 0 } :: rest } (runMove rest a.move)
  | [] =>
    dueFirst s (fun s =>
      match nextTry s with
      | some w => runChosen (chooseGang s w.key ((w.readyGang s.cyc).getD 0))
      | none => dueFirst (s.advance 1) ownMove)

/-- The wave in which `withFetchWord` lets an instruction run: 32 lanes, every register of the window, at line 0. -/
def fetchWave : Wave := { blankWave ⟨0, 0, 0⟩ 32 240 0 0x200 with sched := .active }

/-- A line with one word in slot 0, a branch target, its other slots NOP, its parities right (R93). -/
def lineOf (w : InstrWord) : Nat :=
  let spar := if parity 96 w.toNat then 1 else 0
  w.toNat + 2 ^ 480 * (1 + 32 * spar + 1024 * (1 - spar))

/-- The instruction of `w` at line 0, fetched there by a resident wave whose issue is the next move (log 8). -/
def State.withFetchWord (s : State) (nbits w : Nat) : State :=
  let data := natToBytes 64 (lineOf (BitVec.ofNat 96 (w % 2 ^ nbits)))
  { s with
    agenda := [{ cycles := 0, move := .issue fetchWave.key 0 }], waves := [fetchWave], mem := s.mem.write 0 data,
    cores := s.cores.set 0 { s.core 0 with icache := [{ ctx := 0, va := 0, place := .dev 0, mapped := true, data := data }] } }

end Sys2Proof.Machine
end

