-- ==== Sys2Proof/Safety.lean ====
section
/-! DEFINITION. The words in which statements about runs are made: what lets an instruction of a wave through its issue, the
state it leaves, and the invariants. -/

namespace Sys2Proof.Machine

/-! ## Issue -/

/-- What an instruction of a wave brings to its issue: its header, whether the wave's core has its opcode, what it reads and
writes. An event brings nothing. -/
def issueOf (i : Instr) (s : State) : Option (Hdr × (Ctx → Bool) × (Ctx → Sig)) :=
  match i with
  | .nop h f => some (h, always, sigPlain h f)
  | .exit h f => some (h, always, sigExit h f)
  | .bra h f => some (h, always, sigBra h f)
  | .brx h f => some (h, always, sigBrx h f)
  | .call h f => some (h, always, sigCall h f)
  | .callx h f => some (h, always, sigCallx h f)
  | .ret h f => some (h, always, sigRet h f)
  | .join h f => some (h, always, sigJoin h f)
  | .regang h f => some (h, always, sigRegang h f)
  | .loop h f => some (h, always, sigLoop h f)
  | .lbrk h f => some (h, always, sigPlain h f)
  | .yieldV h f => some (h, always, sigPlain h f)
  | .sleep h f => some (h, always, sigSleep h f)
  | .trap h f => some (h, always, sigTrap h f)
  | .bar h f => some (h, always, sigBar h f)
  | .barc h f => some (h, always, sigBar h f)
  | .barg h f => some (h, always, sigBar h f)
  | .launch h f => some (h, notInSection, sigLaunch h f)
  | .launchWait h f => some (h, notInSection, sigLaunchWait h f)
  | .tknext h f => some (h, always, sigTknext h f)
  | .mov h f => some (h, always, sigMov h f)
  | .movi h f => some (h, always, sigMovi h f)
  | .movsp h f => some (h, always, sigMovsp h f)
  | .iadd h f => some (h, always, sigInt h f 2 8 13 true 2 false)
  | .isub h f => some (h, always, sigInt h f 2 8 13 true 2 false)
  | .imul h f => some (h, always, sigInt h f 2 8 13 true 6 false)
  | .imulh h f => some (h, always, sigInt h f 2 8 13 false 6 false)
  | .imad h f => some (h, always, sigInt h f 3 8 13 true 6 false)
  | .idiv h f => some (h, always, sigInt h f 2 8 13 true 0 true)
  | .irem h f => some (h, always, sigInt h f 2 8 13 false 0 true)
  | .imin h f => some (h, always, sigInt h f 2 8 13 false 2 false)
  | .imax h f => some (h, always, sigInt h f 2 8 13 false 2 false)
  | .iabs h f => some (h, always, sigIabs h f)
  | .and h f => some (h, always, sigLogic h f 2 false)
  | .or h f => some (h, always, sigLogic h f 2 false)
  | .xor h f => some (h, always, sigLogic h f 2 false)
  | .not h f => some (h, always, sigLogic h f 1 false)
  | .shl h f => some (h, always, sigLogic h f 2 false)
  | .shr h f => some (h, always, sigLogic h f 2 false)
  | .sar h f => some (h, always, sigLogic h f 2 false)
  | .fshl h f => some (h, always, sigLogic h f 3 false)
  | .clz h f => some (h, always, sigLogic h f 1 false)
  | .popc h f => some (h, always, sigLogic h f 1 false)
  | .brev h f => some (h, always, sigLogic h f 1 false)
  | .bfe h f => some (h, always, sigLogic h f 2 (f.m.sub == 1))
  | .bfi h f => some (h, always, sigLogic h f 3 false)
  | .icmp h f => some (h, always, sigIcmp h f)
  | .isel h f => some (h, always, sigIsel h f)
  | .iadd64 h f => some (h, always, sigIadd64 h f)
  | .isub64 h f => some (h, always, sigIsub64 h f)
  | .shl64 h f => some (h, always, sigPair h f false 4 true)
  | .shr64 h f => some (h, always, sigPair h f false 4 true)
  | .sar64 h f => some (h, always, sigPair h f false 4 true)
  | .icmp64 h f => some (h, always, sigIcmp64 h f)
  | .imul64 h f => some (h, always, sigInt h f 2 6 7 true 12 false)
  | .imad64 h f => some (h, always, sigInt h f 3 6 7 true 12 false)
  | .lea h f => some (h, always, sigPair h f (decide (f.m.sub.toNat < 16)) 2 false)
  | .plog h f => some (h, always, sigPlog h f)
  | .pmov h f => some (h, always, sigPmov h f)
  | .vote h f => some (h, always, sigVote h f)
  | .matchV h f => some (h, always, sigMatchV h f)
  | .shfl h f => some (h, always, sigShfl h f)
  | .ired h f => some (h, always, sigIred h f false)
  | .iscan h f => some (h, always, sigIred h f true)
  | .fadd h f => some (h, always, sigFloat h f 2 5 true true false 4 false)
  | .fsub h f => some (h, always, sigFloat h f 2 5 true true false 4 false)
  | .fmul h f => some (h, always, sigFloat h f 2 5 true true false 4 false)
  | .ffma h f => some (h, always, sigFloat h f 3 5 true true false 4 false)
  | .fmin h f => some (h, always, sigFloat h f 2 5 false false (decide (f.m.sub.toNat < 2)) 4 false)
  | .fmax h f => some (h, always, sigFloat h f 2 5 false false (decide (f.m.sub.toNat < 2)) 4 false)
  | .fcmp h f => some (h, always, sigFcmp h f)
  | .fclass h f => some (h, always, sigFclass h f)
  | .fdiv h f => some (h, always, sigFloat h f 2 3 true true false 0 true)
  | .fsqrt h f => some (h, always, sigFloat h f 1 3 true true false 0 true)
  | .frcp h f => some (h, always, sigApprox h f)
  | .frsq h f => some (h, always, sigApprox h f)
  | .fexp2 h f => some (h, always, sigApprox h f)
  | .flog2 h f => some (h, always, sigApprox h f)
  | .fsin h f => some (h, always, sigApprox h f)
  | .fcos h f => some (h, always, sigApprox h f)
  | .ftanh h f => some (h, always, sigApprox h f)
  | .frnd h f => some (h, always, sigFloat h f 1 5 false true (decide (f.m.sub.toNat < 2)) 4 false)
  | .cvt h f => some (h, always, sigCvt h f)
  | .pack h f => some (h, always, sigPack h f)
  | .unpk h f => some (h, always, sigUnpk h f)
  | .fred h f => some (h, always, sigFred h f false)
  | .fscan h f => some (h, always, sigFred h f true)
  | .fdot2 h f => some (h, always, sigFdot2 h f)
  | .idot4 h f => some (h, always, sigIdot4 h f)
  | .amaxrd h f => some (h, always, sigAmaxrd h f)
  | .amaxclr h f => some (h, always, sigAmaxclr h f)
  | .mxld h f => some (h, always, sigMxld h f)
  | .mxst h f => some (h, always, sigMxst h f)
  | .mxmov h f => some (h, always, sigMxmov h f)
  | .mxtrn h f => some (h, always, sigMxtrn h f)
  | .mxmul h f => some (h, always, sigMxmul h f false)
  | .mxmad h f => some (h, always, sigMxmul h f true)
  | .mxchol h f => some (h, always, sigFactor h f 0)
  | .mxlu h f => some (h, always, sigFactor h f 1)
  | .mxsolv h f => some (h, always, sigMxsolv h f)
  | .mxinv h f => some (h, always, sigFactor h f 0)
  | .ld h f => some (h, always, sigLd h f)
  | .st h f => some (h, always, sigSt h f)
  | .lds h f => some (h, always, sigLds h f)
  | .sts h f => some (h, always, sigSts h f)
  | .atom h f => some (h, always, sigAtom h f)
  | .cas h f => some (h, always, sigCas h f (lsStep f) (casTyOk f))
  | .cas128 h f => some (h, always, sigCas h f 4 (f.m.ty == 0))
  | .red h f => some (h, always, sigRed h f)
  | .fence h f => some (h, always, sigFence h f)
  | .fencet h f => some (h, always, sigFence h f)
  | .drainst h f => some (h, always, sigDrainst h f)
  | .prf h f => some (h, always, sigPrf h f)
  | .flush h f => some (h, always, sigFlush h f)
  | .qinit h f => some (h, always, sigQinit h f)
  | .qbind h f => some (h, always, sigQbind h f)
  | .qtry h f => some (h, always, sigQtryAt h f s)
  | .combcfg h f => some (h, always, sigCombcfg h f)
  | .ship h f => some (h, always, sigShip h f false)
  | .shipt h f => some (h, always, sigShip h f true)
  | .sret h f => some (h, inSection, sigSret h f)
  | .copy h f => some (h, notInSection, sigCopy h f)
  | .batch h f => some (h, notInSection, sigBatch h f)
  | .waitb h f => some (h, notInSection, sigWaitb h f)
  | .chain h f => some (h, notInSection, sigChain h f)
  | .chstat h f => some (h, notInSection, sigChstat h f)
  | .tbinit h f => some (h, always, sigTbinit h f)
  | .tbarr h f => some (h, always, sigTbarr h f)
  | .tbexp h f => some (h, always, sigTbexp h f)
  | .tbwait h f => some (h, always, sigTbwait h f)
  | .gather h f => some (h, notInSection, sigGather h f s)
  | .scatter h f => some (h, notInSection, sigScatter h f s)
  | .tblstat h f => some (h, notInSection, sigTblstat h f)
  | .iord h f => some (h, notInSection, sigIo h f)
  | .iowr h f => some (h, notInSection, sigIo h f)
  | .iopost h f => some (h, notInSection, sigIo h f)
  | .btake h f => some (h, notInSection, sigBtake h f)
  | .bpass h f => some (h, notInSection, sigBpass h f)
  | .bload h f => some (h, notInSection, sigBload h f)
  | .bswap h f => some (h, notInSection, sigBswap h f)
  | .mma h f => some (h, notInSection, sigMma h f s)
  | .accz h f => some (h, notInSection, sigAccz h f s)
  | .accrd h f => some (h, notInSection, sigAccrd h f s)
  | .accwr h f => some (h, notInSection, sigAccwr h f s)
  | .acccvt h f => some (h, notInSection, sigAcccvt h f s)
  | .accst h f => some (h, notInSection, sigAccst h f s)
  | .accwait h f => some (h, notInSection, sigAccwait h f s)
  | .mmacfg h f => some (h, notInSection, sigMmacfg h f s)
  | .ecall h f => some (h, always, sigEcall h f)
  | .bkpt h f => some (h, always, sigBkpt h f)
  | .setwc h f => some (h, always, sigSetwc h f)
  | .rdcnt h f => some (h, always, sigRdcnt h f)
  | _ => none

/-- An instruction at its own effect: its header, the gang with everything it reads, its registers, the PAIR bit of its
slot, and the state that the effect begins from. -/
structure Issued where
  h : Hdr
  c : Ctx
  g : Sig
  pair : Bool
  s : State
  deriving Repr

/-- A gang's instruction passes its issue: it has no decode trap (R108), none of its registers waits for a result (R111), the
wave's stores are not too far ahead of their checks (R379), no store comes to its T while the gang waits (R212), what it pops comes after
no acquire or fence that is still to complete (R219, R220), nothing it reads is poisoned (R392), its ports are ready (R49). -/
def issuedAs (h : Hdr) (ok : Ctx → Bool) (sig : Ctx → Sig) (s : State) : Option Issued :=
  match ctxOf h s with
  | none => none
  | some (c, pair) =>
    let s0 := { s with cur := none }
    let g := sig c
    let r := withStale s0 c h g
    if (decodeTrap s0 c (ok c) g).isNone && (c.busy s0 g).isEmpty && !skidFull s0 c.w && !dueBefore s0 c g && !c.popsHeld s0 g
        && (poisonTrap r.2 r.1 g).isNone && (checkPorts r.2 r.1 h.yld g.pops g.port).isNone then
      let s1 := popPorts (waitFor r.2 r.1 g) r.1 g.pops
      some { h := h, c := r.1.after s1, g := g, pair := pair, s := s1 }
    else none

def issued (i : Instr) (s : State) : Option Issued :=
  match issueOf i s with
  | none => none
  | some (h, ok, sig) => issuedAs h ok sig s

/-- The state after the instruction, by how its effect ends. -/
def Issued.after (x : Issued) (e : Exit) : State := finish x.c x.h x.g x.pair x.h.yld x.s e

/-- Source `n` of a lane as an integer of TYPE. -/
def Issued.int (x : Issued) (f : FmtA) (n lane : Nat) : Int :=
  let m := f.m
  let ty := m.ty.toNat
  decodeInt ty
    (match n with
      | 0 => x.c.src 0 m.sa f.sa (isWide ty) lane
      | 1 => x.c.src 1 m.sb f.sb (isWide ty) lane
      | _ => x.c.src 2 m.sc f.sc (isWide ty) lane)

/-- Source `n` of a lane as 32 bits. -/
def Issued.word (x : Issued) (f : FmtA) (n lane : Nat) : Nat :=
  match n with
  | 0 => x.c.src 0 f.m.sa f.sa false lane
  | 1 => x.c.src 1 f.m.sb f.sb false lane
  | _ => x.c.src 2 f.m.sc f.sc false lane

/-- The first source of a lane as 64 bits. -/
def Issued.pairA (x : Issued) (f : FmtA) (lane : Nat) : Nat := x.c.src 0 f.m.sa f.sa true lane

/-- A result in every active lane, or once in a scalar destination (R128). -/
def Issued.each (x : Issued) (h : Hdr) (m : Mod) (wide : Bool) (v : Nat → Nat) : Exit :=
  .alu { writes := x.c.dstAll m.ds h.dst wide v }

/-- A predicate result in every active lane. -/
def Issued.test (x : Issued) (h : Hdr) (v : Nat → Bool) : Exit := .alu { writes := x.c.predAll h.dst.toNat v }

/-- The elements of an access with their places, when every one has a place (R200). -/
def Issued.placed (x : Issued) (need : Need) (space : Nat) (l : List Acc) : Option (List (Acc × Target × Nat) × State) :=
  let r := placeAll x.s (x.c.who x.s) need space l
  let good := goodElems r.1
  if good.length = l.length then some (good, hostSettle r.2 (x.c.who x.s) need space r.1) else none

/-- As `placed`, with every check of R236 passed, no element in a secure region (R416) and no FENCET of the wave waiting (R229). -/
def Issued.reached (x : Issued) (need : Need) (space align : Nat) (l : List Acc) :
    Option (List (Acc × Target × Nat) × State) :=
  match accessChecks x.s x.c (decide (need = .store)) space align l, x.placed need space l with
  | none, some (good, s) => if !x.c.w.fencing && good.all (fun p => (secureOf s x.c.core p.2.1).isNone) then some (good, s) else none
  | _, _ => none

/-- An instruction that releases finds its fence complete (R220). -/
def Issued.fenced (x : Issued) (scope : Nat) : Prop := x.c.g.released = true ∨ fenceReady x.s x.c.w scope x.c.seq = true

/-- `n` elements of `size` bytes for each active lane, as LD and ST move them: consecutive addresses, consecutive registers,
one alignment (R237). -/
def Issued.elems (x : Issued) (f : FmtM) (n size dst step : Nat) (lanes : List Nat) (data : Nat → Nat → Nat) : List Acc :=
  lanes.flatMap (fun l => (List.range n).map (fun i =>
    { lane := l, va := x.c.addr f l + size * i, size := size, dst := dst + step * i, off := size * i,
      data := data i l % 256 ^ size }))

/-- What a load that has issued leaves: one load in flight for its registers, nothing of it done. -/
def Issued.loading (x : Issued) (good : List (Acc × Target × Nat)) (acquire : Bool) (s t : State) : Prop :=
  ∃ o : LOp, t.loads = s.loads ++ [o] ∧ o.w = x.c.k ∧ o.keys = x.g.writeKeys ∧ o.acquire = acquire ∧ o.pc = x.c.pc
    ∧ o.elems = good.map (fun p => { lane := p.1.lane, va := p.1.va, size := p.1.size, target := p.2.1, lease := p.2.2,
                                     dst := p.1.dst, done := false, value := 0 })
    ∧ t = { s with loads := t.loads, waves := t.waves, teams := t.teams, nextId := t.nextId }

/-- The L1 of the core holds no more sectors than before, and none that the elements cover (R205); all else stays. -/
def Issued.covered (x : Issued) (space : Nat) (l : List Acc) (s t : State) : Prop :=
  t.cores.length = s.cores.length ∧ (∀ c, c ≠ x.c.core → t.core c = s.core c)
  ∧ t.core x.c.core = { s.core x.c.core with l1 := (t.core x.c.core).l1 }
  ∧ (∀ n ∈ (t.core x.c.core).l1, ∃ m ∈ (s.core x.c.core).l1, n = { m with sectors := n.sectors }
      ∧ n.sectors &&& m.sectors = n.sectors)
  ∧ (space ≠ 1 → x.c.core < 256 → ∀ p ∈ goodElems (placeAll s (whoOf s x.c.w) .store space l).1,
      ∀ n ∈ (t.core x.c.core).l1, n.line = p.2.1.line → n.sectors.getLsbD (p.2.1.offset % 128 / 32) = false)

/-- What a store that has issued leaves: one store in flight, still unchecked; no byte of memory has changed. -/
def Issued.storing (x : Issued) (space : Nat) (l : List Acc) (scope : Nat) (s t : State) : Prop :=
  ∃ o : MOp, t.mops = s.mops ++ [o] ∧ o.w = x.c.k ∧ o.kind = .store ∧ o.checked = false ∧ o.scope = scope ∧ o.pc = x.c.pc
    ∧ o.elems.map (fun e => (e.lane, e.va, e.size, e.data)) = l.map (fun a => (a.lane, a.va, a.size, a.data))
    ∧ (∀ e ∈ o.elems, e.phase = .unchecked) ∧ x.covered space l s t
    ∧ t = { s with mops := t.mops, waves := t.waves, teams := t.teams, cores := t.cores, nextId := t.nextId }

/-- What a read-modify-write that has issued leaves: its elements on their way home. -/
def Issued.updating (x : Issued) (good : List (Acc × Target × Nat)) (kind : MKind) (scope : Nat) (s t : State) : Prop :=
  ∃ o : MOp, t.mops = s.mops ++ [o] ∧ o.w = x.c.k ∧ o.kind = kind ∧ o.scope = scope ∧ o.keys = x.g.writeKeys
    ∧ o.elems.map (fun e => (e.lane, e.va, e.size, e.data, e.cmp, e.dst, e.target))
        = good.map (fun p => (p.1.lane, p.1.va, p.1.size, p.1.data, p.1.cmp, p.1.dst, some p.2.1))
    ∧ (∀ e ∈ o.elems, e.phase = .sent)
    ∧ t = { s with mops := t.mops, waves := t.waves, teams := t.teams, nextId := t.nextId }

/-! ## Values -/

/-- One value is less than another; NaNs are not compared (R70). -/
def Val.below : Val → Val → Prop
  | .inf s, .inf t => s = true ∧ t = false
  | .inf s, .fin _ _ _ => s = true
  | .fin _ _ _, .inf t => t = false
  | .fin s n d, .fin t m e => signed s n * e < signed t m * d
  | _, _ => False

/-- Two values are equal, -0 and +0 among them (R70). -/
def Val.same : Val → Val → Prop
  | .inf s, .inf t => s = t
  | .fin s n d, .fin t m e => signed s n * e = signed t m * d
  | _, _ => False

/-- The magnitude of a number, 0 for a NaN (R75). -/
def Val.size (v : Val) : Val := if v.isNan then .posZero else v.abs

/-- `k` is the magnitude to which the number of magnitude `n / d` and this sign rounds as an integer (R76). -/
def roundsTo (mode : Nat) (neg : Bool) (n d k : Nat) : Prop :=
  match mode with
  | 0 => 2 * (k * d) ≤ 2 * n + d ∧ 2 * n ≤ 2 * (k * d) + d ∧ (2 * n = 2 * (k * d) + d ∨ 2 * (k * d) = 2 * n + d → k % 2 = 0)
  | 1 => k = n / d
  | 2 => k = if neg then n / d else (n + d - 1) / d
  | 3 => k = if neg then (n + d - 1) / d else n / d
  | _ => k = (2 * n + d) / (2 * d)

/-! ## What is left after an issue -/

/-- The registers that a program sees: the files, the activity mask, the flags and the amax registers. -/
def Wave.sameRegs (v w : Wave) : Prop :=
  v.vregs = w.vregs ∧ v.preds = w.preds ∧ v.sregs = w.sregs ∧ v.act = w.act ∧ v.fstat = w.fstat ∧ v.amax = w.amax

/-- A parked wave that goes on: its registers are kept, and what was under way of flags has retired (R114, R375). -/
def Wave.resumed (v w : Wave) : Prop :=
  v.vregs = w.vregs ∧ v.preds = w.preds ∧ v.sregs = w.sregs ∧ v.act = w.act ∧ v.late = []
  ∧ (w.late = [] → v.fstat = w.fstat ∧ v.amax = w.amax)

/-- The gang stands at the end of a loop body while the wave is split (R139). -/
def Wave.splitEnd (w : Wave) (pc : Pc) : Prop := 1 < w.gangs.length ∧ (w.levels.head?.map (·.2)) = some pc

/-- Where sequential flow goes from `pc` (R94, R139). -/
def Wave.flowPc (w : Wave) (pc : Pc) : Pc :=
  if (w.levels.head?.map (·.2)) = some pc then (loopEnd pc w.levels w.lc).2.2 else nextPc pc

/-- What sequential flow of the gang leaves of the wave `w0`: the live quads of the gang go on, the others stay, masks stay. -/
def Issued.flows (x : Issued) (w0 w : Wave) : Prop :=
  (∀ q ∈ x.c.g.quads, w0.quadLive q = true → w.pcOf q = w0.flowPc x.c.pc)
  ∧ (∀ q, q ∉ x.c.g.quads → w.pcOf q = w0.pcOf q) ∧ (∀ q, w.maskOf q = w0.maskOf q)

/-- Nothing but the issuing wave and the slot-cycles charged to its context (R355) has changed. -/
def Issued.onlyWave (x : Issued) (t0 t : State) : Prop :=
  t = { t0 with waves := t.waves, teams := t.teams, parts := t.parts } ∧ (∀ k, k ≠ x.c.k → t.wave? k = t0.wave? k)
  ∧ t.parts.length = t0.parts.length ∧ ∀ p, t.part p = { t0.part p with budUsed := (t.part p).budUsed }

/-- A wait of the gang has ended: its live quads go on in sequential flow, its registers stay (R94, R139). -/
def Wave.wentOn (v w : Wave) (g : Gang) (q : Nat) : Prop :=
  (∃ g', v.gangOf q = some g' ∧ g'.wait = .none ∧ g'.quads = g.quads) ∧ v.sameRegs w
  ∧ (∀ p ∈ g.quads, w.quadLive p = true → v.pcOf p = w.flowPc (w.pcOf q)) ∧ (∀ p, p ∉ g.quads → v.pcOf p = w.pcOf p)

/-- A wait of the context watches a place of memory, which is looked up again when the translations go (R229). -/
def State.watching (s : State) (ctx : Nat) : Bool :=
  let watches (w : Wave) : Bool :=
    w.gangs.any (fun g => match g.wait with | .tbwait _ _ _ => true | .launch _ _ => true | _ => false)
  s.waves.any (fun w => w.ctx == ctx && watches w) || s.teams.any (fun t => t.ctx == ctx && t.saved.any watches)

/-- Only one wave differs. -/
def State.sameBut (s : State) (k : WaveKey) (t : State) : Prop :=
  t = { s with waves := t.waves, teams := t.teams } ∧ ∀ j, j ≠ k → t.wave? j = s.wave? j

/-- The engine's tiles are 16 canonical maps. -/
def Engine.tilesOk (e : Engine) : Prop := e.tiles.length = 16 ∧ ∀ x ∈ e.tiles, SMap.wf 0#32 x.cells = true

/-- The command has left the list of the engine with its locks (R222, R303). -/
def State.retired (s : State) (core : Nat) (c : Cmd) (t : State) : Prop :=
  (t.core core).eng.cmds = (s.core core).eng.cmds.filter (fun x => x.isMark || x.id != c.id)
  ∧ (t.core core).locks = (s.core core).locks.filter (fun l => l.owner != c.id)

/-- The engine tells its issuing wave of a stop (R308). -/
def State.engineTells (s : State) (c : Cmd) (r : TrapRec) (t : State) : Prop :=
  ∀ w, s.wave? c.w = some w → (liveWaves s c.gid c.team).find? (fun x => x.key == c.w) = some w →
    ∃ v, t.wave? c.w = some v ∧ v.sameRegs w ∧ v.async = w.async ++ [{ prio := 4, next := false, record := r, cmd := some c.id }]

/-- The I/O request is over: its locks and its place are gone, and its record has been pushed, or is held behind the records that wait
for room in the same queue (R281). -/
def State.ioDone (u : State) (r : IoReq) (status len flags : Nat) (t : State) : Prop :=
  let z := dropLocks u r.core r.id
  let x := r.token + status * 2 ^ 32 + len * 2 ^ 64 + flags * 2 ^ 96
  let room := (readQueue z r.queue).any (fun h => decide (0 < roomOf z r.queue h)) && !u.io.held.any (fun h => h.queue == r.queue)
  (∀ q ∈ t.io.reqs ++ t.io.posted, q.id ≠ r.id)
  ∧ (room = true → t.mem = (pushOne z r.core r.queue x).mem ∧ t.cores = (pushOne z r.core r.queue x).cores ∧ t.io.held = u.io.held)
  ∧ (room = false → t.mem = u.mem ∧ t.cores = z.cores
      ∧ t.io.held = u.io.held ++ [{ part := r.part, core := r.core, queue := r.queue, record := x }])

/-! ## Invariants -/

/-- The canonical form of the three memories and of every core's comb store. -/
def State.memOk (s : State) : Prop := s.mem.wf ∧ s.hostMem.wf ∧ s.peerMem.wf ∧ ∀ c ∈ s.cores, c.comb.wf

/-- A byte of a memory array or of a core's comb store: every place but the raw window, whose bytes may be registers (R46). -/
def Target.isByte (s : State) : Target → Prop
  | .dev _ => True
  | .comb c _ => c < s.cores.length
  | .rawComb _ _ => False
  | .host _ a => a < 2 ^ 64
  | .peer _ a => a < 2 ^ 64

/-- R352, R356: a wave that has not ended and is not parked is Held exactly while its context is; one that is Pending could issue, and
finds its slot's 8 Active places taken. -/
def State.scheduled (s : State) : Prop :=
  ∀ w ∈ s.waves, w.finished = false → w.sched ≠ .trapped →
    (w.sched = .held ↔ w.preempt = .none ∧ s.ctxHeld w.key.core w.ctx = true)
    ∧ (w.sched = .pending → (∃ g ∈ w.gangs, g.wait = .none)
        ∧ 8 ≤ (s.waves.filter (fun x => x.key.core == w.key.core && x.key.slot == w.key.slot && x.key != w.key && x.sched == .active)).length)

end Sys2Proof.Machine
end

