-- ==== Sys2Proof/Certificates/Slice0/Obligations.lean ====
section
/-! DEFINITION. The statements for the provers. -/

open Sys2Proof Sys2Proof.Machine

/-! ## What an issue leaves -/

/-- R94, R113, R139, R355: an instruction with no effect on its wave beyond its own counts and PCs. The registers stay, the live quads
of the gang go to the next slot or, at the end of a loop body, where the loop sends them, and of the rest of the device only
the budget is charged. -/
def Obligations.SequentialFlow : Prop :=
  ∀ (x : Issued) (t0 : State) (w0 : Wave), t0.wave? x.c.k = some w0 → ¬ w0.splitEnd x.c.pc →
    ∃ w, (x.after (.done t0)).wave? x.c.k = some w ∧ w.sameRegs w0 ∧ w.cntIss = w0.cntIss + 1 ∧ x.flows w0 w
      ∧ x.onlyWave t0 (x.after (.done t0))

/-- R49, R51, R90, R111: the results of an instruction of fixed latency are in the wave's registers when it has issued; a write of FSTAT,
its flags and its amax updates are under way until it retires, and have their effect there; values for a queue port leave as one
push.
The model's choices: the push for a queue port is a store in flight that is sent at the issue (log 22); predicate results stand at once (log 29).

R111, R114: results of variable latency wait, and their registers with them, until SCOREBOARD_WRITEBACK puts them into the
registers, with their flags. -/
def Obligations.ResultsOfAnIssue : Prop :=
  (
    (∀ (x : Issued) (r : Alu) (w0 : Wave), x.s.wave? x.c.k = some w0 → x.g.sb = false → ¬ w0.splitEnd x.c.pc →
      let t := x.after (.alu r)
      let vals := (r.writes.filter RegWr.isPort).map (fun v => v.x.toNat)
      let left := x.c.beats x.g - 1 + x.c.latency x.g
      ∃ w, t.wave? x.c.k = some w
        ∧ w.sameRegs (w0.wrAll (r.writes.filter (fun v => !v.isPort && !(v.file == .sca && v.n == 63))))
        ∧ w.late = (if r.writes.any (fun v => v.file == .sca && v.n == 63) then
              w0.late.map (fun y => if left < y.left then { y with fstat := none } else y) else w0.late)
            ++ (r.writes.filter (fun v => v.file == .sca && v.n == 63)).map (fun v =>
                { left := left, fstat := some v.x, flags := 0, amax := [] })
            ++ (if r.flags = 0 ∧ r.amax = [] then [] else [{ left := left, fstat := none, flags := r.flags, amax := r.amax }])
        ∧ x.flows w0 w
        ∧ ((x.g.dst.find? Opnd.isPort = none ∨ vals = []) → x.onlyWave x.s t)
        ∧ (∀ o q, x.g.dst.find? Opnd.isPort = some o → x.c.w.portQueue o.n = some q → vals ≠ [] →
            ∃ m, t.mops = x.s.mops ++ [m] ∧ m.kind = .push q ∧ m.elems.map (·.data) = vals
              ∧ (∀ e ∈ m.elems, e.phase = .sent) ∧ t.mem = x.s.mem ∧ t.cores = x.s.cores))
    ∧ (∀ (w : Wave) (n : Nat) (y : Late), w.late = [y] →
        (y.left ≤ n → (w.tick n).late = []
          ∧ (w.tick n).sameRegs
              ((((match y.fstat with | some v => { w with fstat := v.extractLsb' 0 6 } | none => w) : Wave).orFlags y.flags).amaxAll y.amax))
        ∧ (n < y.left → (w.tick n).late = [{ y with left := y.left - n }] ∧ (w.tick n).sameRegs w)))
  ∧ (
    (∀ (x : Issued) (r : Alu) (w0 : Wave), x.s.wave? x.c.k = some w0 → x.g.sb = true → ¬ w0.splitEnd x.c.pc →
      r.writes ≠ [] → (∀ v ∈ r.writes, v.isPort = false) → x.g.dst.find? Opnd.isPort = none →
      let t := x.after (.alu r)
      ∃ w, t.wave? x.c.k = some w ∧ w.sameRegs w0 ∧ x.flows w0 w ∧ x.onlyWave x.s t
        ∧ w.pend = w0.pend ++ [{ writes := r.writes, flags := r.flags, amax := r.amax, keys := x.g.writeKeys, push := none }]
        ∧ ∀ key ∈ x.g.writeKeys, key ∈ busyKeys t w)
    ∧ (∀ (s : State) (k : WaveKey) (w : Wave) (n : Nat) (p : Pend), s.wave? k = some w → w.pend[n]? = some p → p.push = none →
      ∃ t v, exec (.scoreboardWriteback k n) s = .next t ∧ t.wave? k = some v
        ∧ v.sameRegs (((w.wrAll p.writes).orFlags p.flags).amaxAll p.amax) ∧ v.pend = w.pend.eraseIdx n
        ∧ v.quads = w.quads ∧ t = { s with waves := t.waves, teams := t.teams } ∧ ∀ k', k' ≠ k → t.wave? k' = s.wave? k'))

/-- R29, R146, R220: an instruction that blocks has issued and leaves its gang waiting at its own PC; one that must wait before it
issues leaves the gang there as well, with nothing counted.

R49, R143, R219, R220, R229, R246: the waits with events of their own. A fence ends when what it waits for is done; FENCET first drops the
context's translations; a queue instruction and a releasing access issue again at their own PC. -/
def Obligations.WaitingGangs : Prop :=
  (
    ∀ (x : Issued) (t0 : State) (w0 : Wave) (g0 : Gang) (y : Wait), t0.wave? x.c.k = some w0 → w0.gangOf x.c.q = some g0 →
      y ≠ .none →
      (∃ w g, (x.after (.block t0 y)).wave? x.c.k = some w ∧ w.gangOf x.c.q = some g ∧ g.wait = y ∧ g.quads = g0.quads
        ∧ w.quads = w0.quads ∧ w.sameRegs w0 ∧ w.cntIss = w0.cntIss + 1
        ∧ ((∀ sc n, y ≠ .release sc n) → x.onlyWave t0 (x.after (.block t0 y))))
      ∧ (∃ w g, (x.after (.wait t0 y)).wave? x.c.k = some w ∧ w.gangOf x.c.q = some g ∧ g.wait = y ∧ g.quads = g0.quads
        ∧ w.quads = w0.quads ∧ w.sameRegs w0 ∧ w.cntIss = w0.cntIss
        ∧ ((∀ sc n, y ≠ .release sc n) → x.onlyWave t0 (x.after (.wait t0 y)))))
  ∧ (
    ∀ (s : State) (k : WaveKey) (q : Nat) (w : Wave) (g : Gang), s.wave? k = some w → w.sched ≠ .trapped → w.gangOf q = some g →
      (∀ t, g.wait = .sleep t → ¬ w.splitEnd (w.pcOf q) → t ≤ s.gtb →
        ∃ u v, exec (.sleepWake k q) s = .next u ∧ u.wave? k = some v ∧ v.wentOn w g q ∧ s.sameBut k u)
      ∧ (∀ sc n, g.wait = .fence sc n false → ¬ w.splitEnd (w.pcOf q) → fenceReady s w sc n = true →
        ∃ u v, exec (.fenceComplete k q) s = .next u ∧ u.wave? k = some v ∧ v.wentOn w g q ∧ s.sameBut k u)
      ∧ (∀ sc n, g.wait = .fence sc n false → fenceReady s w sc n = false → exec (.fenceComplete k q) s = .next s)
      ∧ (∀ sc n, g.wait = .release sc n → fenceReady s w sc n = true →
        ∃ u v g', exec (.fenceComplete k q) s = .next u ∧ u.wave? k = some v ∧ v.gangOf q = some g' ∧ g'.wait = .none
          ∧ g'.released = true ∧ v.quads = w.quads ∧ v.sameRegs w ∧ s.sameBut k u)
      ∧ (∀ sc n, g.wait = .fence sc n true → fenceReady s w sc n = true →
        ∃ u v g', exec (.fencetComplete k q) s = .next u ∧ u.wave? k = some v ∧ v.gangOf q = some g'
          ∧ g'.wait = .drain sc n s.nextId ∧ v.quads = w.quads ∧ v.sameRegs w
          ∧ (∀ c ∈ scopeCores s w sc, c < s.cores.length → ∀ e ∈ (u.core c).icache, e.ctx = w.ctx → e.mapped = false)
          ∧ (s.watching w.ctx = false → u.mem = s.mem
            ∧ ∀ c ∈ scopeCores s w sc, c < s.cores.length → ∀ e ∈ (u.core c).tlb, e.ctx ≠ w.ctx))
      ∧ (∀ sc n b, g.wait = .drain sc n b → ¬ w.splitEnd (w.pcOf q) → drained s w.ctx b (scopeCores s w sc) = true →
        ∃ u v, exec (.fencetComplete k q) s = .next u ∧ u.wave? k = some v ∧ v.wentOn w g q ∧ s.sameBut k u)
      ∧ (∀ n, g.wait = .drainst n → ¬ w.splitEnd (w.pcOf q) →
        (∀ o ∈ s.mops, o.w = k → o.seq < n → o.checked = true ∧ ∀ e ∈ o.elems, e.phase ≠ .faulted) →
        (∀ c ∈ s.engCmds, c.w = k → c.seq < n → c.storesAt 0 = false) →
        ∃ u v, exec (.drainstComplete k q) s = .next u ∧ u.wave? k = some v ∧ v.wentOn w g q ∧ s.sameBut k u)
      ∧ (∀ push r n a hd, g.wait = .queue push r n a → readQueue s r = some hd →
        (if push then n ≤ roomOf s r hd else n ≤ hd.count) →
        ∃ u v g', exec (.queueWaitWake k q) s = .next u ∧ u.wave? k = some v ∧ v.gangOf q = some g' ∧ g'.wait = .none
          ∧ v.quads = w.quads ∧ v.sameRegs w ∧ s.sameBut k u))

/-- R15, R16, R50-R52: what a register write leaves to be read. s60-s62 take what the activity mask may hold, s63 the six
flags; writes to p0 and to a quad that has ended are discarded. -/
def Obligations.RegisterWrites : Prop :=
  ∀ w : Wave, w.stale = [] → SMap.wf 0#32 w.vregs = true → SMap.wf 0#32 w.sregs = true → SMap.wf false w.preds = true →
    (∀ n l v, l < 96 → w.quadLive (l / 4) = true → ∀ m j, j < 96 →
      (w.wr ⟨.vec, n, l, v⟩).rdV m j = if m = n ∧ j = l then v else w.rdV m j)
    ∧ (∀ n l v, w.quadLive (l / 4) = false → w.wr ⟨.vec, n, l, v⟩ = w ∧ w.rdV n l = 0)
    ∧ (∀ n l v, l < 96 → n ≠ 0 → ∀ m j, j < 96 →
      (w.wr ⟨.pred, n, l, v⟩).rdP m j = if m = n ∧ j = l then v.getLsbD 0 else w.rdP m j)
    ∧ (∀ l v, w.wr ⟨.pred, 0, l, v⟩ = w ∧ w.rdP 0 l = true)
    ∧ (∀ n l v, n < 60 → ∀ m, (w.wr ⟨.sca, n, l, v⟩).rdS m = if m = n then v else w.rdS m)
    ∧ (∀ n l v, 60 ≤ n → n < 63 → ∀ m, m < 64 →
      (w.wr ⟨.sca, n, l, v⟩).rdS m =
        if m = n then v &&& w.writableLanes.extractLsb' (32 * (n - 60)) 32
        else if 60 ≤ m ∧ m < 63 then w.rdS m &&& w.writableLanes.extractLsb' (32 * (m - 60)) 32 else w.rdS m)
    ∧ (∀ l v m, m < 64 → (w.wr ⟨.sca, 63, l, v⟩).rdS m = if m = 63 then (v.extractLsb' 0 6).zeroExtend 32 else w.rdS m)

/-! ## Results of the arithmetic instructions -/

/-- R129, R154, R155, R160: an integer instruction that passes its issue computes exactly on its sources as integers of TYPE,
and writes the result, wrapped or saturated, to its destination.

R129: the reduction of an exact integer result. Without SAT it is the result modulo 2^w; with SAT it is the nearest
representable value. -/
def Obligations.IntegerArithmetic : Prop :=
  (
    ∀ e ∈ ([
        (.iadd, fun _ a b _ => a + b), (.isub, fun _ a b _ => a - b), (.imul, fun _ a b _ => a * b),
        (.imulh, fun ty a b _ => a * b / 2 ^ codeWidth ty), (.imad, fun _ a b c => a * b + c),
        (.imin, fun _ a b _ => min a b), (.imax, fun _ a b _ => max a b), (.iabs, fun _ a _ _ => |a|),
        (.idiv, fun ty a b _ =>
          if b = 0 then
            (if isSignedCode ty then (if a < 0 then -(2 ^ (codeWidth ty - 1)) else 2 ^ (codeWidth ty - 1) - 1)
             else 2 ^ codeWidth ty - 1)
          else a.tdiv b),
        (.irem, fun _ a b _ => if b = 0 then a else a.tmod b),
        (.iadd64, fun _ a b _ => a + b), (.isub64, fun _ a b _ => a - b), (.imul64, fun _ a b _ => a * b),
        (.imad64, fun _ a b c => a * b + c)] : List ((Hdr → FmtA → Instr) × (Nat → Int → Int → Int → Int))),
      ∀ h f s x, issued (e.1 h f) s = some x →
        exec (e.1 h f) s = .next (x.after (x.each h f.m (isWide f.m.ty.toNat) (fun l =>
          extendElem f.m.ty.toNat (reduceInt f.m.ty.toNat f.m.sat
            (e.2 f.m.ty.toNat (x.int f 0 l) (x.int f 1 l) (x.int f 2 l)))))))
  ∧ (
    ∀ ty : Nat, 6 ≤ ty → ty ≤ 13 → ∀ v : Int,
      (decodeInt ty (reduceInt ty false v) - v) % 2 ^ codeWidth ty = 0
      ∧ intMin ty ≤ decodeInt ty (reduceInt ty false v) ∧ decodeInt ty (reduceInt ty false v) ≤ intMax ty
      ∧ decodeInt ty (reduceInt ty true v) = max (intMin ty) (min (intMax ty) v))

/-- R156, R157, R160, R161: logic, shifts, bit counts, bit-fields and address arithmetic on the sources as they are read; a
shift by the width or more shifts everything out. -/
def Obligations.LogicAndShifts : Prop :=
  (∀ e ∈ ([
      (.and, fun a b _ => (a &&& b).toNat), (.or, fun a b _ => (a ||| b).toNat), (.xor, fun a b _ => (a ^^^ b).toNat),
      (.not, fun a _ _ => (~~~a).toNat), (.shl, fun a b _ => (a <<< b.toNat).toNat), (.shr, fun a b _ => (a >>> b.toNat).toNat),
      (.sar, fun a b _ => (a.sshiftRight b.toNat).toNat),
      (.fshl, fun a b c => (((a ++ b) <<< min c.toNat 32).extractLsb' 32 32).toNat),
      (.clz, fun a _ _ => 32 - Nat.size a.toNat), (.popc, fun a _ _ => (List.range 32).countP (fun i => a.getLsbD i)),
      (.brev, fun a _ _ => ((List.range 32).map (fun i => if a.getLsbD i then 2 ^ (31 - i) else 0)).sum)] :
      List ((Hdr → FmtA → Instr) × (Word → Word → Word → Nat))),
    ∀ h f s x, issued (e.1 h f) s = some x →
      exec (e.1 h f) s = .next (x.after (x.each h f.m false (fun l =>
        e.2 (BitVec.ofNat 32 (x.word f 0 l)) (BitVec.ofNat 32 (x.word f 1 l)) (BitVec.ofNat 32 (x.word f 2 l))))))
  ∧ (∀ h f s x, issued (.bfe h f) s = some x →
      exec (.bfe h f) s = .next (x.after (x.each h f.m false (fun l =>
        let p := x.word f 1 l % 256
        let n := min (x.word f 1 l / 256 % 256) (32 - p)
        let v := (BitVec.ofNat 32 (x.word f 0 l)).extractLsb' p n
        if n = 0 then 0 else if f.m.sub = 1 then (v.signExtend 32).toNat else v.toNat))))
  ∧ (∀ h f s x, issued (.bfi h f) s = some x →
      exec (.bfi h f) s = .next (x.after (x.each h f.m false (fun l =>
        let a := x.word f 0 l
        let p := x.word f 2 l % 256
        let n := min (x.word f 2 l / 256 % 256) (32 - p)
        if n = 0 then a else a - a / 2 ^ p % 2 ^ n * 2 ^ p + x.word f 1 l % 2 ^ n * 2 ^ p))))
  ∧ (∀ e ∈ ([
      (.shl64, fun a b => if b < 64 then a * 2 ^ b % 2 ^ 64 else 0), (.shr64, fun a b => if b < 64 then a / 2 ^ b else 0),
      (.sar64, fun a b => ((BitVec.ofNat 64 a).sshiftRight b).toNat)] : List ((Hdr → FmtA → Instr) × (Nat → Nat → Nat))),
    ∀ h f s x, issued (e.1 h f) s = some x →
      exec (e.1 h f) s = .next (x.after (x.each h f.m true (fun l => e.2 (x.pairA f l) (x.word f 1 l)))))
  ∧ (∀ h f s x, issued (.lea h f) s = some x →
      exec (.lea h f) s = .next (x.after (x.each h f.m true (fun l =>
        let b := BitVec.ofNat 32 (x.word f 1 l)
        let index := if f.m.sub.getLsbD 3 then b.signExtend 64 else b.zeroExtend 64
        (BitVec.ofNat 64 (x.pairA f l) + index <<< (f.m.sub.toNat % 8)).toNat))))

/-- R102, R153, R158, R159, R162-R164: moves, immediates, compares, selects and predicate instructions. -/
def Obligations.MovesAndPredicates : Prop :=
  (∀ h f s x, issued (.mov h f) s = some x →
      exec (.mov h f) s = .next (x.after (x.each h f.m (f.m.ty == 7) (fun l => x.c.src 0 f.m.sa f.sa (f.m.ty == 7) l))))
  ∧ (∀ h f s x, issued (.movi h f) s = some x →
      exec (.movi h f) s = .next (x.after (x.each h f.m (isWide f.m.ty.toNat) (fun _ =>
        extendElem f.m.ty.toNat
          (if f.m.ty.toNat % 16 = 6 then (f.imm.signExtend 64).toNat
           else if f.m.ty.toNat % 16 = 0 then (roundVal 0 0 false (decodeFloat 1 f.imm.toNat)).1
           else f.imm.toNat)))))
  ∧ (∀ e ∈ ([.icmp, .icmp64] : List (Hdr → FmtA → Instr)), ∀ h f s x, issued (e h f) s = some x →
      exec (e h f) s = .next (x.after (x.test h (fun l =>
        let a := x.int f 0 l
        let b := x.int f 1 l
        match f.m.sub.toNat with
        | 0 => decide (a = b)
        | 1 => decide (a ≠ b)
        | 2 => decide (a < b)
        | 3 => decide (a ≤ b)
        | 4 => decide (a > b)
        | _ => decide (a ≥ b)))))
  ∧ (∀ h f s x, issued (.isel h f) s = some x →
      exec (.isel h f) s = .next (x.after (.alu { writes := x.c.dstAll false h.dst (isWide f.m.ty.toNat) (fun l =>
        extendElem f.m.ty.toNat
          (if x.c.w.rdP f.sc.reg.toNat l then x.c.src 0 f.m.sa f.sa (isWide f.m.ty.toNat) l
           else x.c.src 1 f.m.sb f.sb (isWide f.m.ty.toNat) l)) })))
  ∧ (∀ h f s x, issued (.plog h f) s = some x →
      exec (.plog h f) s = .next (x.after (x.test h (fun l =>
        let a := x.c.w.rdP f.sa.reg.toNat l
        let b := x.c.w.rdP f.sb.reg.toNat l
        [a && b, a || b, a ^^ b, a && !b, a || !b, !(a && b), !(a || b), !(a ^^ b), !a].getD f.m.sub.toNat a))))
  ∧ (∀ h f s x, issued (.pmov h f) s = some x →
      (f.m.sub.toNat = 0 → exec (.pmov h f) s = .next (x.after (x.test h (fun l => x.word f 0 l != 0))))
      ∧ (f.m.sub.toNat = 1 →
          exec (.pmov h f) s = .next (x.after (x.each h f.m false (fun l => if x.c.w.rdP f.sa.reg.toNat l then 1 else 0))))
      ∧ (2 ≤ f.m.sub.toNat → f.m.sub.toNat < 6 →
          exec (.pmov h f) s = .next (x.after (x.each h f.m false (fun l =>
            ((List.range 32).map (fun i => if x.c.w.rdP (32 * (f.m.sub.toNat - 2) + i) l then 2 ^ i else 0)).sum))))
      ∧ (6 ≤ f.m.sub.toNat →
          exec (.pmov h f) s = .next (x.after (.alu { writes := x.c.lanes.flatMap (fun l =>
            (List.range 32).map (fun i => predWr (32 * (f.m.sub.toNat - 6) + i) l ((x.word f 0 l).testBit i))) }))))
  ∧ (∀ h f s x, issued (.vote h f) s = some x →
      let p := fun l => x.c.w.rdP f.sa.reg.toNat l
      (f.m.sub.toNat = 0 → exec (.vote h f) s = .next (x.after (x.test h (fun _ => x.c.lanes.all p))))
      ∧ (f.m.sub.toNat = 1 → exec (.vote h f) s = .next (x.after (x.test h (fun _ => x.c.lanes.any p))))
      ∧ (f.m.sub.toNat = 2 →
          exec (.vote h f) s = .next (x.after (x.test h (fun _ => x.c.lanes.all p || x.c.lanes.all (fun l => !p l)))))
      ∧ (f.m.sub.toNat = 3 → x.c.lanes ≠ [] →
          exec (.vote h f) s = .next (x.after (.alu { writes :=
            (List.range ((x.c.w.width + 31) / 32)).map (fun g =>
              ⟨.sca, h.dst.toNat + g, 0, (laneMask (x.c.lanes.filter p)).extractLsb' (32 * g) 32⟩) }))))

/-- R57, R61, R169, R170, R184, R185: the special values, the wave control word, the counters and the amax registers. -/
def Obligations.SpecialRegisters : Prop :=
  (∀ h f s x, issued (.movsp h f) s = some x →
      let n := f.m.sub.toNat
      exec (.movsp h f) s = .next (x.after (x.each h f.m (decide (16 ≤ n) && decide (n ≤ 23)) (special x.s x.c.w n))))
  ∧ (∀ s w l, special s w 0 l = l ∧ special s w 1 l = l / 4 ∧ (w.info = none → special s w 2 l = w.wnum)
      ∧ (w.info.isSome → (∀ i ∈ [2, 4, 5, 6, 14], special s w i l = 0) ∧ (∀ i ∈ [3, 7, 8, 9], special s w i l = 1) ∧ special s w 13 l = 3)
      ∧ (∀ g, w.info = none → s.grid? w.grid (s.partOf w.key.core) = some g →
          special s w 3 l = (g.kernel.x * g.kernel.y * g.kernel.z + w.width - 1) / w.width ∧ special s w 13 l = g.cls
          ∧ (g.desc.flags % 2 = 0 →
              special s w 4 l = w.team % g.desc.nx ∧ special s w 5 l = w.team / g.desc.nx % g.desc.ny
              ∧ special s w 6 l = w.team / (g.desc.nx * g.desc.ny)
              ∧ special s w 7 l = g.desc.nx ∧ special s w 8 l = g.desc.ny ∧ special s w 9 l = g.desc.nz)
          ∧ (g.desc.flags % 2 = 1 →
              special s w 4 l = w.team ∧ special s w 5 l = 0 ∧ special s w 6 l = 0
              ∧ special s w 7 l = g.nextTeam ∧ special s w 8 l = 1 ∧ special s w 9 l = 1))
      ∧ (∀ t, w.info = none → s.team? w.grid w.team = some t → special s w 14 l = t.seq % 2 ^ 32)
      ∧ special s w 10 l = w.key.core ∧ special s w 11 l = dieOf w.key.core ∧ special s w 12 l = s.fabric.rank
      ∧ special s w 15 l = w.width ∧ special s w 16 l = s.gtb % 2 ^ 64 ∧ special s w 24 l = (if (s.core w.key.core).diag then (w.wcw &&& ~~~0x300#32) ||| 0x600#32 else w.wcw).toNat
      ∧ (∀ i, i < 7 → special s w (17 + i) l = (SMap.get 0#64 w.wct i).toNat)
      ∧ (∀ i, i < 3 → special s w (25 + i) l = (SMap.get 0#32 w.lc i).toNat))
  ∧ (∀ h f s x, issued (.setwc h f) s = some x → x.c.lanes ≠ [] →
      let v := x.c.w.rdS f.sa.reg.toNat
      (v.toNat % 8 ≤ 4 → exec (.setwc h f) s = .next (x.after (.done (x.s.updWave x.c.k (fun w =>
        { w with wcw := (w.wcw &&& 0xFFFFFF00#32) ||| (v &&& 0xFF#32) })))))
      ∧ (4 < v.toNat % 8 → exec (.setwc h f) s = .next (x.after (.trap x.s { code := 0x02, det1 := 0x80000002 }))))
  ∧ (∀ h f s x, issued (.rdcnt h f) s = some x →
      exec (.rdcnt h f) s = .next (x.after (.alu { writes := x.c.dstAll true h.dst true (fun _ =>
        (if x.s.waveDesc x.c.w 501 501 = 0 then 0
         else [x.s.cyc, x.c.w.cntIss, x.c.w.cntRes].getD f.m.sub.toNat x.c.w.cntBlk) % 2 ^ 64) })))
  ∧ (∀ h f s x, issued (.amaxrd h f) s = some x →
      (x.c.lanes = [] ∨ amaxPending x.c.w (fun i => i == f.m.sub.toNat) = false →
        exec (.amaxrd h f) s = .next (x.after (x.each h f.m false (fun _ => (SMap.get 0#32 x.c.w.amax f.m.sub.toNat).toNat))))
      ∧ (x.c.lanes ≠ [] → amaxPending x.c.w (fun i => i == f.m.sub.toNat) = true →
        exec (.amaxrd h f) s = .next (x.after (.stall x.s))))
  ∧ (∀ h f s x, issued (.amaxclr h f) s = some x →
      (x.c.lanes = [] → exec (.amaxclr h f) s = .next (x.after (.done x.s)))
      ∧ (x.c.lanes ≠ [] → amaxPending x.c.w (fun i => f.m.sub.getLsbD i) = true →
        exec (.amaxclr h f) s = .next (x.after (.stall x.s))))
  ∧ (∀ h f s x, issued (.amaxclr h f) s = some x → x.c.lanes ≠ [] →
      amaxPending x.c.w (fun i => f.m.sub.getLsbD i) = false →
      ∃ t, exec (.amaxclr h f) s = .next (x.after (.done t)) ∧
        ∃ g : Wave → SMap Word, t = x.s.updWave x.c.k (fun w => { w with amax := g w }) ∧
          ∀ (w : Wave) (k : Nat), SMap.wf 0#32 w.amax = true →
            SMap.get 0#32 (g w) k = if f.m.sub.getLsbD k ∧ k < 4 then 0 else SMap.get 0#32 w.amax k)

/-- R85, R86, R165-R167, R186: instructions that combine lanes, and the shuffle.
The model's choices: a FRED with DS = 1 and no active lane writes +0 to its scalar (log 120). -/
def Obligations.Collectives : Prop :=
  (∀ h f s x, issued (.matchV h f) s = some x →
      let v := x.c.src 0 f.m.sa f.sa (f.m.ty == 7)
      let same := fun l => x.c.lanes.filter (fun j => v j == v l)
      exec (.matchV h f) s = .next (x.after (.alu { writes := x.c.dstAll false h.dst false (fun l =>
        [(same l).headD 0, ((same l).filter (· < l)).length].getD f.m.sub.toNat (same l).length) })))
  ∧ (∀ h f s x, issued (.shfl h f) s = some x →
      let wide := f.m.ty == 7
      exec (.shfl h f) s = .next (x.after (x.each h f.m wide (fun l =>
        let d := x.word f 1 l
        let j : Int := if f.m.sub.toNat = 0 then d else if f.m.sub.toNat = 1 then (l : Int) - d
          else if f.m.sub.toNat = 2 then l + d else ((l ^^^ d : Nat) : Int)
        x.c.src 0 f.m.sa f.sa wide (if 0 ≤ j ∧ j < x.c.w.width then j.toNat else l)))))
  ∧ (∀ h f s x, issued (.ired h f) s = some x →
      let ty := f.m.ty.toNat
      exec (.ired h f) s = .next (x.after (x.each h f.m (isWide ty) (fun _ =>
        extendElem ty (combine (f.m.sub.toNat % 8) ty f.m.sat (x.c.lanes.map (x.c.src 0 f.m.sa f.sa (isWide ty))))))))
  ∧ (∀ h f s x, issued (.iscan h f) s = some x →
      let ty := f.m.ty.toNat
      exec (.iscan h f) s = .next (x.after (.alu { writes := x.c.dstAll false h.dst (isWide ty) (fun l =>
        extendElem ty (combine (f.m.sub.toNat % 8) ty f.m.sat
          ((x.c.lanes.filter (fun j => if f.m.sub.getLsbD 4 then j < l else j ≤ l)).map
            (x.c.src 0 f.m.sa f.sa (isWide ty))))) })))
  ∧ (∀ ty sat l, 6 ≤ ty → ty ≤ 13 →
      combine 0 ty sat l = reduceInt ty sat (l.map (decodeInt ty)).sum
      ∧ (∀ v ∈ l, decodeInt ty (combine 1 ty sat l) ≤ decodeInt ty v ∧ decodeInt ty v ≤ decodeInt ty (combine 2 ty sat l))
      ∧ (l ≠ [] → (∃ v ∈ l, decodeInt ty (combine 1 ty sat l) = decodeInt ty v) ∧ ∃ v ∈ l, decodeInt ty (combine 2 ty sat l) = decodeInt ty v)
      ∧ (l = [] → decodeInt ty (combine 1 ty sat l) = intMax ty ∧ decodeInt ty (combine 2 ty sat l) = intMin ty)
      ∧ (∀ op ∈ [3, 4, 5], combine op ty sat l < 2 ^ codeWidth ty)
      ∧ (∀ i, i < codeWidth ty →
          (combine 3 ty sat l).testBit i = l.all (fun v => v.testBit i)
          ∧ (combine 4 ty sat l).testBit i = l.any (fun v => v.testBit i)
          ∧ (combine 5 ty sat l).testBit i = decide (l.countP (fun v => v.testBit i) % 2 = 1)))
  ∧ (∀ h f s x, issued (.fred h f) s = some x →
      let ty := f.m.ty.toNat
      let r := redTree f.m.sub.toNat ty (x.c.mode f.m.rnd.toNat) x.c.w.width x.c.lanes (x.c.fsrc f 0)
      exec (.fred h f) s = .next (x.after (.alu
        { writes :=
            if f.m.ds then dstWr true h.dst (isWide ty) 0 (if x.c.lanes = [] then 0 else extendElem ty r.1)
            else x.c.dstAll false h.dst (isWide ty) (fun _ => extendElem ty r.1)
          flags := if x.c.lanes = [] then 0 else r.2 })))
  ∧ (∀ h f s x, issued (.fscan h f) s = some x →
      let ty := f.m.ty.toNat
      exec (.fscan h f) s = .next (x.after (.alu (x.c.floatAlu false h.dst ty (fun l =>
        redTree f.m.sub.toNat ty (x.c.mode f.m.rnd.toNat) x.c.w.width (x.c.lanes.filter (· ≤ l)) (x.c.fsrc f 0))))))

/-- R77, R91, R173: the arithmetic that rounds once; its first-NaN trap.
The model's choices: the MASK of FP_NAN_VECTOR for a scalar destination is all active lanes (log 28).

R76, R78, R80, R174, R175, R177, R178: what comparison, minima and maxima, rounding to an integer, division and square root give.
A quotient is the exact quotient rounded once; a square root is what every pair of numbers around it rounds to. -/
def Obligations.FloatArithmetic : Prop :=
  (
    ∀ e ∈ ([
        (.fadd, fun m a b _ => fAdd m a b), (.fsub, fun m a b _ => fAdd m a b.negate), (.fmul, fun _ a b _ => fMul a b),
        (.ffma, fun m a b c => ((fAdd m (fMul a b).1 c).1, (fMul a b).2 ||| (fAdd m (fMul a b).1 c).2))] :
        List ((Hdr → FmtA → Instr) × (Nat → Val → Val → Val → Val × FlagBits))),
      ∀ h f s x, issued (e.1 h f) s = some x →
        let mode := x.c.mode f.m.rnd.toNat
        let exact := fun l => e.2 mode (x.c.fval f 0 l) (x.c.fval f 1 l) (x.c.fval f 2 l)
        let lanes := if f.m.ds then x.c.lanes.take 1 else x.c.lanes
        let nans := lanes.filter (fun l => (exact l).1.isNan)
        (x.c.w.wcw.getLsbD 3 = false ∨ nans = [] →
          exec (e.1 h f) s = .next (x.after (.alu (x.c.floatAlu f.m.ds h.dst f.m.ty.toNat (fun l =>
            roundRes f.m.ty.toNat mode f.m.sat (exact l))))))
        ∧ (∀ b rest, x.c.w.wcw.getLsbD 3 = true → nans = b :: rest →
            exec (e.1 h f) s = .next (x.after (.trap x.s
              { code := 0x31, mask := laneMask (if f.m.ds then x.c.lanes else nans), det1 := b }))))
  ∧ (
    (∀ ty x y sub, ty < 6 → sub < 8 →
      let a := decodeFloat ty x
      let b := decodeFloat ty y
      (a.isNan = true ∨ b.isNan = true →
        fCmp sub a b = (decide (sub = 1 ∨ sub = 6), if a.isSnan ∨ b.isSnan ∨ (2 ≤ sub ∧ sub ≤ 5) then Flag.iv else 0))
      ∧ (a.isNan = false → b.isNan = false →
        (fCmp sub a b).2 = 0
        ∧ ((fCmp sub a b).1 = true ↔
          match sub with
          | 0 => a.same b
          | 1 => ¬ a.same b
          | 2 => a.below b
          | 3 => a.below b ∨ a.same b
          | 4 => b.below a
          | 5 => b.below a ∨ a.same b
          | 6 => False
          | _ => True)))
    ∧ (∀ ty x y max num, ty < 6 →
      let a := decodeFloat ty x
      let b := decodeFloat ty y
      let r := fMinMax ty max num x y
      r.2 = (if a.isSnan ∨ b.isSnan then Flag.iv else 0)
      ∧ (a.isNan = true → b.isNan = true → r.1 = (floatFmt ty).nan)
      ∧ (a.isNan = true → b.isNan = false → r.1 = if num then y % 2 ^ codeWidth ty else (floatFmt ty).nan)
      ∧ (a.isNan = false → b.isNan = true → r.1 = if num then x % 2 ^ codeWidth ty else (floatFmt ty).nan)
      ∧ (a.isNan = false → b.isNan = false →
        (r.1 = x % 2 ^ codeWidth ty ∨ r.1 = y % 2 ^ codeWidth ty)
        ∧ (¬ a.same b → (r.1 = x % 2 ^ codeWidth ty ↔ if max then b.below a else a.below b))
        ∧ (a.same b → (decodeFloat ty r.1).neg = if max then a.neg && b.neg else a.neg || b.neg)))
    ∧ (∀ ty mode b, ty < 6 → mode < 5 → ∀ x : Bool,
      let r := fRnd ty mode x (decodeFloat ty b)
      (∀ q, decodeFloat ty b = .nan q → r = ((floatFmt ty).nan, if q then Flag.iv else 0))
      ∧ (∀ s, decodeFloat ty b = .inf s → r = (b % 2 ^ codeWidth ty, 0))
      ∧ (∀ s n d, decodeFloat ty b = .fin s n d →
        ∃ k m e, roundsTo mode s n d k ∧ m = k * e ∧ r.2 = (if x = true ∧ n % d ≠ 0 then Flag.nx else 0)
          ∧ decodeFloat ty r.1 = .fin (s && (decide (ty < 4) || decide (k ≠ 0))) m e))
    ∧ (∀ ty mode sat, ty < 4 → mode < 5 →
      (∀ a b : Val, a.isNan = true ∨ b.isNan = true →
        fDiv ty mode sat a b = ((floatFmt ty).nan, if a.isSnan ∨ b.isSnan then Flag.iv else 0))
      ∧ (∀ s t, fDiv ty mode sat (.inf s) (.inf t) = ((floatFmt ty).nan, Flag.iv))
      ∧ (∀ s t m e, fDiv ty mode sat (.inf s) (.fin t m e) = roundVal ty mode sat (.inf (s != t)))
      ∧ (∀ s n d t, fDiv ty mode sat (.fin s n d) (.inf t) = roundVal ty mode sat (.fin (s != t) 0 1))
      ∧ (∀ s n d t e, fDiv ty mode sat (.fin s n d) (.fin t 0 e) =
          if n = 0 then ((floatFmt ty).nan, Flag.iv)
          else ((roundVal ty mode sat (.inf (s != t))).1, (roundVal ty mode sat (.inf (s != t))).2 ||| Flag.dz))
      ∧ (∀ s n d t m e, 0 < m → fDiv ty mode sat (.fin s n d) (.fin t m e) = roundVal ty mode sat (.fin (s != t) (n * e) (d * m))))
    ∧ (∀ ty mode sat, ty < 4 → mode < 5 →
      (∀ q, fSqrt ty mode sat (.nan q) = ((floatFmt ty).nan, if q then Flag.iv else 0))
      ∧ fSqrt ty mode sat (.inf true) = ((floatFmt ty).nan, Flag.iv)
      ∧ fSqrt ty mode sat (.inf false) = roundVal ty mode sat (.inf false)
      ∧ (∀ s d, fSqrt ty mode sat (.fin s 0 d) = roundVal ty mode sat (.fin s 0 1))
      ∧ (∀ n d, 0 < n → fSqrt ty mode sat (.fin true n d) = ((floatFmt ty).nan, Flag.iv))
      ∧ (∀ x n d, decodeFloat ty x = .fin false n d → 0 < n →
        (∀ p q p' q', 0 < p → 0 < q → 0 < q' → p * p * d ≤ n * (q * q) → n * (q' * q') ≤ p' * p' * d →
          (roundVal ty mode sat (.fin false p q)).1 = (roundVal ty mode sat (.fin false p' q')).1 →
          (fSqrt ty mode sat (.fin false n d)).1 = (roundVal ty mode sat (.fin false p q)).1)
        ∧ ((∃ y m e, decodeFloat ty y = .fin false m e ∧ m * m * d = n * (e * e)) → (fSqrt ty mode sat (.fin false n d)).2 = 0)
        ∧ ((¬ ∃ y m e, decodeFloat ty y = .fin false m e ∧ m * m * d = n * (e * e)) →
          (fSqrt ty mode sat (.fin false n d)).2 = Flag.nx))))

/-- R84, R174-R179, R187, R188: minima and maxima, comparison, classification, rounding, division, square root, the
approximate functions and the dot products.

R70, R77: the value of an encoding that is no NaN rounds back to the encoding in every mode, exactly. -/
def Obligations.FloatFunctions : Prop :=
  (
    (∀ e ∈ ([(.fmin, false), (.fmax, true)] : List ((Hdr → FmtA → Instr) × Bool)),
      ∀ h f s x, issued (e.1 h f) s = some x →
        exec (e.1 h f) s = .next (x.after (.alu (x.c.floatAlu f.m.ds h.dst f.m.ty.toNat (fun l =>
          fMinMax f.m.ty.toNat e.2 (f.m.sub.getLsbD 0) (x.c.fsrc f 0 l) (x.c.fsrc f 1 l))))))
    ∧ (∀ e ∈ ([(.frcp, 0), (.frsq, 1), (.fexp2, 2), (.flog2, 3), (.fsin, 4), (.fcos, 5), (.ftanh, 6)] :
        List ((Hdr → FmtA → Instr) × Nat)),
      ∀ h f s x, issued (e.1 h f) s = some x →
        exec (e.1 h f) s = .next (x.after (.alu (x.c.floatAlu f.m.ds h.dst f.m.ty.toNat (fun l =>
          approxFn e.2 f.m.ty.toNat (x.c.fsrc f 0 l))))))
    ∧ (∀ h f s x, issued (.fcmp h f) s = some x →
        let r := fun l => fCmp f.m.sub.toNat (x.c.fval f 0 l) (x.c.fval f 1 l)
        exec (.fcmp h f) s = .next (x.after (.alu
          { writes := x.c.predAll h.dst.toNat (fun l => (r l).1), flags := orAll (x.c.lanes.map (fun l => (r l).2)) })))
    ∧ (∀ h f s x, issued (.fclass h f) s = some x →
        exec (.fclass h f) s = .next (x.after (x.each h f.m false (fun l => 2 ^ fClass f.m.ty.toNat (x.c.fsrc f 0 l)))))
    ∧ (∀ h f s x, issued (.frnd h f) s = some x →
        exec (.frnd h f) s = .next (x.after (.alu (x.c.floatAlu f.m.ds h.dst f.m.ty.toNat (fun l =>
          fRnd f.m.ty.toNat (x.c.mode f.m.rnd.toNat) (f.m.sub.getLsbD 0) (x.c.fval f 0 l))))))
    ∧ (∀ h f s x, issued (.fdiv h f) s = some x →
        exec (.fdiv h f) s = .next (x.after (.alu (x.c.floatAlu f.m.ds h.dst f.m.ty.toNat (fun l =>
          fDiv f.m.ty.toNat (x.c.mode f.m.rnd.toNat) f.m.sat (x.c.fval f 0 l) (x.c.fval f 1 l))))))
    ∧ (∀ h f s x, issued (.fsqrt h f) s = some x →
        exec (.fsqrt h f) s = .next (x.after (.alu (x.c.floatAlu f.m.ds h.dst f.m.ty.toNat (fun l =>
          fSqrt f.m.ty.toNat (x.c.mode f.m.rnd.toNat) f.m.sat (x.c.fval f 0 l))))))
    ∧ (∀ h f s x, issued (.fdot2 h f) s = some x →
        exec (.fdot2 h f) s = .next (x.after (.alu (x.c.floatAlu f.m.ds h.dst 1 (fun l =>
          let ty := f.m.ty.toNat
          let mode := x.c.mode f.m.rnd.toNat
          let lo := fMul (decodeFloat ty (x.word f 0 l)) (decodeFloat ty (x.word f 1 l))
          let hi := fMul (decodeFloat ty (x.word f 0 l / 2 ^ 16)) (decodeFloat ty (x.word f 1 l / 2 ^ 16))
          let u := fAdd mode lo.1 hi.1
          let r := fAdd mode u.1 (decodeFloat 1 (x.word f 2 l))
          roundRes 1 mode false (r.1, lo.2 ||| hi.2 ||| u.2 ||| r.2))))))
    ∧ (∀ h f s x, issued (.idot4 h f) s = some x →
        exec (.idot4 h f) s = .next (x.after (x.each h f.m false (fun l =>
          reduceInt 8 f.m.sat
            (decodeInt 8 (x.word f 2 l) + ((List.range 4).map (fun i =>
              decodeInt f.m.ty.toNat (x.word f 0 l / 2 ^ (8 * i)) * decodeInt f.m.sub.toNat (x.word f 1 l / 2 ^ (8 * i)))).sum))))))
  ∧ (
    ∀ c mode b : Nat, c < 6 → mode < 5 → b < 2 ^ codeWidth c → (decodeFloat c b).isNan = false →
      roundVal c mode false (decodeFloat c b) = (b, 0))

/-- R82, R83, R180-R183: conversion, packing and unpacking, with the amax register that a conversion updates.

R74, R75, R82, R83, R182, R183: what a conversion makes of one element, and how packed registers hold their elements. -/
def Obligations.Conversions : Prop :=
  (
    (∀ h f s x, issued (.cvt h f) s = some x →
        let dc := f.m.ty.toNat
        let sc := f.m.sub.toNat
        let bits := x.c.src 0 f.m.sa f.sa (isWide sc)
        let scale := x.c.src 2 f.m.sc f.sc false
        let lanes := if f.m.ds then x.c.lanes.take 1 else x.c.lanes
        let reg := if f.sb.k.getLsbD 2 then some (f.sb.k.toNat % 4)
          else if x.c.w.wcw.getLsbD 7 then some (x.c.w.wcw.extractLsb' 5 2).toNat else none
        let am := reg.elim [] (fun k =>
          lanes.map (fun l => amaxUpdate k (scaleIn sc (decodeFloat 1 (scale l)) (decodeElem sc (bits l))).1))
        let a := x.c.floatAlu f.m.ds h.dst dc (fun l =>
          convertElem dc sc (x.c.mode f.m.rnd.toNat) f.m.sat (scale l) (bits l))
        exec (.cvt h f) s = .next (x.after (.alu
          { writes := a.writes, flags := a.flags ||| orAll (am.map (·.2)), amax := (am.map (·.1)).flatten })))
    ∧ (∀ h f s x, issued (.pack h f) s = some x →
        let dc := f.m.ty.toNat
        let sc := f.m.sub.toNat
        let r := fun l => packLane dc sc (x.c.mode f.m.rnd.toNat) f.m.sat (x.word f 2 l)
          ((List.range (packCount dc)).map (fun i => x.c.winElem f sc i l))
        exec (.pack h f) s = .next (x.after (.alu
          { writes := x.c.dstAll false h.dst (isWide dc) (fun l => (r l).1), flags := orAll (x.c.lanes.map (fun l => (r l).2)) })))
    ∧ (∀ h f s x, issued (.unpk h f) s = some x →
        let dc := f.m.ty.toNat
        let sc := f.m.sub.toNat
        let d := if isWide dc then 2 else 1
        let r := fun l => unpkLane dc sc (x.c.mode f.m.rnd.toNat) f.m.sat (x.word f 2 l) (x.c.src 0 f.m.sa f.sa (isWide sc) l)
        exec (.unpk h f) s = .next (x.after (.alu
          { writes := x.c.lanes.flatMap (fun l => (r l).zipIdx.flatMap (fun p =>
              dstWr false (h.dst + BitVec.ofNat 8 (d * p.2)) (isWide dc) l (extendElem dc p.1.1)))
            flags := orAll (x.c.lanes.flatMap (fun l => (r l).map (·.2))) }))))
  ∧ (
    (∀ dc sc mode sat scale bits, dc < 16 → sc < 16 → mode < 5 →
      let r := convertElem dc sc mode sat scale bits
      let i := if sc = 15 ∧ bits % 16 = 8 then 0 else decodeInt sc bits
      (sc < 6 → dc < 6 → r = roundVal dc mode sat (decodeFloat sc bits))
      ∧ (6 ≤ sc → dc < 6 → r = roundVal dc mode sat (Val.ofInt i))
      ∧ (sc < 6 → 6 ≤ dc →
        (∀ q, decodeFloat sc bits = .nan q → r = (0, Flag.iv))
        ∧ (∀ s, decodeFloat sc bits = .inf s → decodeInt dc r.1 = (if s then intMin dc else intMax dc) ∧ r.2 = Flag.iv)
        ∧ (∀ s n d, decodeFloat sc bits = .fin s n d → ∃ k, roundsTo mode s n d k
            ∧ decodeInt dc r.1 = max (intMin dc) (min (intMax dc) (signed s k))
            ∧ r.2 = (if signed s k < intMin dc ∨ intMax dc < signed s k then Flag.iv else 0) ||| (if n % d ≠ 0 then Flag.nx else 0)))
      ∧ (6 ≤ sc → 6 ≤ dc →
        r.2 = 0
        ∧ (sat = true ∨ dc = 15 → decodeInt dc r.1 = max (intMin dc) (min (intMax dc) i))
        ∧ (sat = false → dc ≠ 15 → (decodeInt dc r.1 - i) % 2 ^ codeWidth dc = 0)))
    ∧ (∀ dc sc mode sat scale bits, dc < 32 → sc < 32 → mode < 5 → dc % 16 < 6 → ∀ s n d t m e,
      decodeElem sc bits = .fin s n d → decodeFloat 1 scale = .fin t m e →
      let r := convertElem dc sc mode sat scale bits
      (16 ≤ sc → dc < 16 → r = roundVal dc mode sat (.fin (s != t) (n * m) (d * e)))
      ∧ (sc < 16 → 16 ≤ dc → 0 < m → r = roundVal dc mode sat (.fin (s != t) (n * e) (d * m)))
      ∧ (sc < 16 → 16 ≤ dc → m = 0 → r =
          if n = 0 then ((floatFmt dc).nan, Flag.iv)
          else ((roundVal dc mode sat (.inf (s != t))).1, (roundVal dc mode sat (.inf (s != t))).2 ||| Flag.dz))
      ∧ (16 ≤ sc → 16 ≤ dc → 0 < m → r = roundVal dc mode sat (.fin ((s != t) != t) (n * m * e) (d * e * m))))
    ∧ (∀ dc sc mode sat scale bits q, dc < 32 → sc < 32 → dc % 16 < 6 → 16 ≤ dc ∨ 16 ≤ sc → decodeFloat 1 scale = .nan q →
      (convertElem dc sc mode sat scale bits).1 = (floatFmt dc).nan
      ∧ (q = true → (convertElem dc sc mode sat scale bits).2.getLsbD 0 = true))
    ∧ (∀ dc sc mode sat scale x, dc < 32 → dc % 16 ≠ 15 → x.length = packCount dc →
      let r := packLane dc sc mode sat scale x
      let one := fun i => convertElem dc sc mode sat scale (x.getD i 0)
      r.2 = orAll (x.map (fun b => (convertElem dc sc mode sat scale b).2))
      ∧ (codeWidth dc ≤ 16 → r.1 < 2 ^ 32
        ∧ ∀ i, i < packCount dc → r.1 / 2 ^ (codeWidth dc * i) % 2 ^ codeWidth dc = (one i).1 % 2 ^ codeWidth dc)
      ∧ (16 < codeWidth dc → r.1 = (one 0).1))
    ∧ (∀ dc sc mode sat scale bits, sc < 32 → sc % 16 ≠ 15 →
      (unpkLane dc sc mode sat scale bits).length = packCount sc
      ∧ ∀ i, i < packCount sc →
        (unpkLane dc sc mode sat scale bits)[i]? = some (convertElem dc sc mode sat scale (bits / 2 ^ (codeWidth sc * i))))
    ∧ (∀ g : Nat, let slot := fun i : Nat => g / 16 ^ (i % 4) % 16
      let plain := fun i : Nat => Val.ofInt (if slot i < 8 then slot i else (slot i : Int) - 16)
      ((∀ i, i < 4 → slot i ≠ 8) → ∀ i, i < 4 → (decodeI4x g)[i]? = some (plain i, false))
      ∧ (∀ j, j < 4 → slot j = 8 → (∀ i, i < j → slot i ≠ 8) →
        (decodeI4x g)[j]? = some (decodeFloat 4 (slot (j + 2) * 16 + slot (j + 1)), true)
        ∧ (decodeI4x g)[(j + 1) % 4]? = some (.posZero, false) ∧ (decodeI4x g)[(j + 2) % 4]? = some (.posZero, false)
        ∧ (decodeI4x g)[(j + 3) % 4]? = some (if slot (j + 3) = 8 then .posZero else plain (j + 3), false)))
    ∧ (∀ mode s n d, mode < 5 → 0 < d → ∃ k, roundsTo mode s n d k ∧ roundedOf mode (.fin s n d) = (signed s k, n % d != 0))
    ∧ (∀ mode x, x.length = 4 → (∀ s n d, .fin s n d ∈ x → 0 < d) →
      let v := fun i => x.getD (i % 4) Val.posZero
      let k := fun i => (roundedOf mode (v i)).1
      let slot := fun i => (encodeI4x mode x).1 / 16 ^ (i % 4) % 16
      ((∀ i, -7 ≤ k i ∧ k i ≤ 7) →
        (∀ i, decodeInt 14 (slot i) = k i)
        ∧ (encodeI4x mode x).2 = (if x.any Val.isNan then Flag.iv else 0) ||| (if x.any (fun y => (roundedOf mode y).2) then Flag.nx else 0))
      ∧ (¬ (∀ i, -7 ≤ k i ∧ k i ≤ 7) → ∀ j, j < 4 → (∀ i, i < 4 → ¬ (v j).size.below (v i).size) →
        (∀ i, i < j → (v i).size.below (v j).size) →
        let o := (roundVal 4 mode true (v j)).1
        let b := if j = 3 ∧ o % 16 = 8 then o - 1 else o
        slot j = 8 ∧ slot (j + 2) = b / 16 ∧ slot (j + 1) = b % 16
          ∧ decodeInt 14 (slot (j + 3)) = max (-7) (min 7 (k (j + 3))))))

/-- R191, R193-R199: the small-matrix instructions, lane by lane.

R191, R195, R196, R198: the elements of a product, of a Cholesky factor and of the triangular solves, each with its order of
operations; every step rounds once. -/
def Obligations.SmallMatrices : Prop :=
  (
    (∀ h f s x, issued (.mxmov h f) s = some x →
        let n := f.m.aux.toNat
        exec (.mxmov h f) s = .next (x.after (.alu (mxAlu x.c h f (fun l =>
          let a := x.c.window (mxWide f) f.sa.reg.toNat (n * n) l
          ((cells n).map (fun q =>
            if f.m.sub3.toNat = 0 then a.at_ n q.1 q.2
            else if f.m.sub3.toNat = 1 then (if q.1 = q.2 then (x.c.mxFmt f).one else 0)
            else if f.m.sub3.toNat = 2 then 0
            else a.at_ n (max q.1 q.2) (min q.1 q.2)), 0))))))
    ∧ (∀ h f s x, issued (.mxtrn h f) s = some x →
        let n := f.m.aux.toNat
        exec (.mxtrn h f) s = .next (x.after (.alu (mxAlu x.c h f (fun l =>
          ((cells n).map (fun q => (x.c.window (mxWide f) f.sa.reg.toNat (n * n) l).at_ n q.2 q.1), 0))))))
    ∧ (∀ e ∈ ([(.mxmul, false), (.mxmad, true)] : List ((Hdr → FmtX → Instr) × Bool)),
      ∀ h f s x, issued (e.1 h f) s = some x →
        let n := f.m.aux.toNat
        let o := if f.m.sub3.getLsbD 2 then n else n * n
        exec (e.1 h f) s = .next (x.after (.alu (mxAlu x.c h f (fun l =>
          let c := if e.2 then x.c.window (mxWide f) f.sc.reg.toNat o l else List.replicate o 0
          let r := mxProduct (x.c.mxFmt f) n f.m.sub3.toNat (x.c.window (mxWide f) f.sa.reg.toNat (n * n) l)
            (x.c.window (mxWide f) f.sb.reg.toNat o l) c
          (r.map (·.1), orAll (r.map (·.2))))))))
    ∧ (∀ e ∈ ([(.mxchol, mxChol, false), (.mxlu, mxLu, true), (.mxinv, mxInverse, false)] :
        List ((Hdr → FmtX → Instr) × (MxFmt → Nat → Mat → Val → Factor) × Bool)),
      ∀ h f s x, issued (e.1 h f) s = some x →
        let n := f.m.aux.toNat
        let p := x.c.mxFmt f
        let r := fun l => e.2.1 p n (x.c.window (mxWide f) f.sa.reg.toNat (n * n) l)
          (p.dec (x.c.src 2 f.m.sc f.sc (mxWide f) l))
        exec (e.1 h f) s = .next (x.after (.alu
          { writes := x.c.lanes.flatMap (fun l =>
              winWr (mxWide f) h.dst.toNat l (r l).m
                ++ (if e.2.2 then [⟨.vec, h.dst.toNat + mxRegs f (n * n), l, BitVec.ofNat 32 (permWord (r l).perm)⟩] else [])
                ++ [predWr f.sb.reg.toNat l (r l).failed])
            flags := orAll (x.c.lanes.map (fun l => (r l).flags)) })))
    ∧ (∀ h f s x, issued (.mxsolv h f) s = some x →
        let n := f.m.aux.toNat
        exec (.mxsolv h f) s = .next (x.after (.alu (mxAlu x.c h f (fun l =>
          let w := (x.c.w.rdV (f.sa.reg.toNat + mxRegs f (n * n)) l).toNat
          mxSolve (x.c.mxFmt f) n f.m.sub3.toNat (x.c.window (mxWide f) f.sa.reg.toNat (n * n) l)
            ((List.range n).map (fun i => w / 8 ^ i % 8)) (x.c.window (mxWide f) f.sb.reg.toNat n l)))))))
  ∧ (
    ∀ p : MxFmt, ∀ n,
      let fma := fun (neg : Bool) (a b c : Nat) =>
        (roundRes p.ty p.mode false (fFma p.mode (if neg then (p.dec a).negate else p.dec a) (p.dec b) (p.dec c)))
      let sub := fun (m : Nat) (a b : Nat → Nat) (c : Nat) => (List.range m).foldl (fun t k => (fma true (a k) (b k) t).1) c
      let div := fun a b => (fDiv p.ty p.mode false (p.dec a) (p.dec b)).1
      (∀ form (a b c : Mat), form < 6 → ∀ i j, i < n → j < n → (4 ≤ form → j = 0) →
        let x := fun k => if form % 2 = 1 then a.at_ n k i else a.at_ n i k
        let y := fun k => if 4 ≤ form then b.getD k 0 else if form / 2 % 2 = 1 then b.at_ n j k else b.at_ n k j
        let place := if 4 ≤ form then i else n * i + j
        ∃ s : Nat → FRes, s 0 = (c.getD place 0, 0)
          ∧ (∀ k, k < n → s (k + 1) = ((fma false (x k) (y k) (s k).1).1, (fma false (x k) (y k) (s k).1).2 ||| (s k).2))
          ∧ (mxProduct p n form a b c)[place]? = some (s n))
      ∧ (∀ (a : Mat) tol,
        let r := mxChol p n a tol
        let L := fun i k => r.m.at_ n i k
        let pivot := fun j => sub j (L j) (L j) (a.at_ n j j)
        let column := fun j => pivotFails (p.dec (pivot j)) tol = false
          ∧ L j j = (fSqrt p.ty p.mode false (p.dec (pivot j))).1
          ∧ ∀ i, j < i → i < n → L i j = div (sub j (L i) (L j) (a.at_ n i j)) (L j j)
        (∀ i j, i < n → j < n → i < j → L i j = 0)
        ∧ (r.failed = false → ∀ j, j < n → column j)
        ∧ (r.failed = true → ∃ j, j < n ∧ (∀ k, k < j → column k) ∧ pivotFails (p.dec (L j j)) tol = true ∧ L j j = pivot j
          ∧ ∀ i k, i < n → k ≤ i → j ≤ k → (i, k) ≠ (j, j) → L i k = p.nan))
      ∧ (∀ (m : Mat) perm (b : Mat), b.length = n →
        let x := fun form i => (mxSolve p n form m perm b).1.getD i 0
        ∀ i, i < n →
          x 2 i = div (sub i (m.at_ n i) (x 2) (b.getD i 0)) (m.at_ n i i)
          ∧ x 4 i = sub i (m.at_ n i) (x 4) (b.getD i 0)
          ∧ x 3 i = div (sub (n - 1 - i) (fun k => m.at_ n i (i + 1 + k)) (fun k => x 3 (i + 1 + k)) (b.getD i 0)) (m.at_ n i i))
      ∧ (∀ q tol : Nat, pivotFails (p.dec q) (p.dec tol) = true ↔
        (p.dec q).isNan = true ∨ (p.dec tol).isNan = true ∨ ¬ ((p.dec tol).below (p.dec q) ∧ Val.posZero.below (p.dec q))))

/-! ## Traps -/

/-- R371, R374: a trap raised at issue parks its wave at the instruction with nothing of it counted; a trap raised after an
instruction parks the wave behind it. The record names the instruction, and what software can see of the wave stays. -/
def Obligations.TrapsParkTheWave : Prop :=
  ∀ (x : Issued) (t0 : State) (w0 : Wave) (i : TrapInfo), t0.wave? x.c.k = some w0 → w0.section? = false →
    (∃ w, (x.after (.trap t0 i)).wave? x.c.k = some w ∧ w.trap = some (i.at_ x.c.pc) ∧ w.sched = .trapped ∧ w.sameRegs w0
      ∧ w.quads = w0.quads ∧ w.cntIss = w0.cntIss ∧ w.gangs.map (·.quads) = w0.gangs.map (·.quads))
    ∧ (¬ w0.splitEnd x.c.pc →
      ∃ w, (x.after (.trapAfter t0 i)).wave? x.c.k = some w ∧ w.trap = some (i.at_ x.c.pc) ∧ w.sched = .trapped
        ∧ w.sameRegs w0 ∧ x.flows w0 w ∧ w.cntIss = w0.cntIss + 1)

/-- R260, R374: the taking of a trap. The record is saved with the wave, every gang stops, and an entry with the record, the wave and
the time goes to the core's trap queue when it has room and the entry's line may be written (R209), else waits. A shipped section aborts instead, with
STATUS 0x100 plus the code.
The model's choices: a trap-queue entry waits for its line like any other write at a home (log 33).

R370, R374: the fields of a trap record and of a trap-queue entry, read back from their words. -/
def Obligations.TrapQueueEntries : Prop :=
  (
    ∀ (s : State) (k : WaveKey) (w : Wave) (r : TrapRec), s.wave? k = some w → k.core < s.cores.length →
      (w.section? = true → w.info.map (·.outcome) = some none →
        ∃ v, (park s k r).wave? k = some v ∧ v.info.map (·.outcome) = some (some (0x100 + r.code.toNat, []))
          ∧ v.finished = true ∧ (park s k r).cores = s.cores ∧ (park s k r).mem = s.mem)
      ∧ (w.section? = false →
        let t := park s k r
        let c := s.core k.core
        let e : TrapEntry :=
          { record := r, gtb := s.gtb, team := w.team, grid := w.grid, ctx := w.ctx, kind := 0, place := k.place, slot := k.slot }
        (∃ v, t.wave? k = some v ∧ v.trap = some r ∧ v.sched = .trapped ∧ v.gangs = w.gangs.map Gang.unissue
          ∧ v.quads = w.quads ∧ v.sameRegs w ∧ v.stale = [])
        ∧ (c.tqWait = [] → (c.tqTail - c.tqHead).toNat < ringCapacity c.tqCfg →
            let a := c.tqBase.toNat + 64 * (c.tqTail.toNat % ringCapacity c.tqCfg)
            (s.lineFree a = true → (t.core k.core).tqTail = c.tqTail + 1 ∧ (t.core k.core).tqWait = []
              ∧ t.mem = s.mem.writeNat a 64 e.bits)
            ∧ (s.lineFree a = false → (t.core k.core).tqTail = c.tqTail ∧ (t.core k.core).tqWait = [e] ∧ t.mem = s.mem))
        ∧ (ringCapacity c.tqCfg ≤ (c.tqTail - c.tqHead).toNat →
            (t.core k.core).tqTail = c.tqTail ∧ (t.core k.core).tqWait = c.tqWait ++ [e] ∧ t.mem = s.mem)))
  ∧ (
    ∀ e : TrapEntry, Pc.slot e.record.pc < 5 → e.record.pc.toNat / 8 % 8 = 0 → e.slot < 4 → e.place < 32 → e.kind < 4 →
      e.ctx < 1024 → e.grid < 2 ^ 40 → e.team < 2 ^ 32 → e.gtb < 2 ^ 64 →
      let b := e.bits
      b < 2 ^ 512
      ∧ field b 7 0 = e.record.code.toNat ∧ field b 10 8 = Pc.slot e.record.pc ∧ field b 52 11 = e.record.pc.toNat / 64
      ∧ field b 63 53 = e.record.det2.toNat ∧ field b 95 64 = e.record.det1.toNat ∧ field b 159 96 = e.record.addr.toNat
      ∧ field b 255 160 = e.record.mask.toNat ∧ field b 356 256 = 0 ∧ field b 358 357 = e.slot ∧ field b 363 359 = e.place
      ∧ field b 365 364 = e.kind ∧ field b 375 366 = e.ctx ∧ field b 415 376 = e.grid ∧ field b 447 416 = e.team
      ∧ field b 511 448 = e.gtb)

/-- R108: the decode traps in their order, for every instruction of a wave: an opcode that the wave's core lacks, then the first
illegal field, then a register outside the window or an unbound port, then in check mode an uncovered result. Nothing of
the instruction takes effect.
The model's choices: a decode trap has MASK 0 (log 17); of several uncovered results the one that was issued first is named (log 105). -/
def Obligations.DecodeTraps : Prop :=
  (∀ (i : Instr) (s : State) (h : Hdr) (ok : Ctx → Bool) (sig : Ctx → Sig) (c : Ctx) (pair : Bool) (t : TrapInfo),
    issueOf i s = some (h, ok, sig) → ctxOf h s = some (c, pair) →
    decodeTrap { s with cur := none } c (ok c) (sig c) = some t →
    exec i s = .next (trapOut { s with cur := none } c t))
  ∧ (∀ (s : State) (c : Ctx) (ok : Bool) (g : Sig),
    (ok = false → decodeTrap s c ok g = some { code := 0x01 })
    ∧ (ok = true → ∀ b, firstIllegal g.legal = some b → decodeTrap s c ok g = some { code := 0x02, det1 := b })
    ∧ (ok = true → firstIllegal g.legal = none →
        (∀ n, rangeFault s c.w g.ranged = some n → decodeTrap s c ok g = some { code := 0x08, det1 := n })
        ∧ (rangeFault s c.w g.ranged = none →
            (c.w.sbm = 1 → ∀ x l, (c.judged g).filter (·.lanes != 0) = x :: l →
              decodeTrap s c ok g = some { code := 0x05, det1 := x.key.det, det2 := x.need - x.dist })
            ∧ (c.w.sbm ≠ 1 ∨ (c.judged g).filter (·.lanes != 0) = [] → decodeTrap s c ok g = none))))
  ∧ (∀ (i : Instr) (s : State) (h : Hdr) (ok : Ctx → Bool) (sig : Ctx → Sig) (c : Ctx) (b : Nat),
    issueOf i s = some (h, ok, sig) → firstIllegal (sig c).legal = some b →
    (b, false) ∈ (sig c).legal ∧ b < 96 ∧ ∀ p ∈ (sig c).legal, p.2 = false → p.1 ≤ b)

/-! ## Control -/

/-- R131, R135, R142, R143, R168, R240: instructions that change no register. NOP, a prefetch and BKPT without debugging only go on; YIELD
passes the issue on; SLEEP waits; EXIT ends the lanes of `active()`, and a quad with its last lane.
The model's choices: a prefetch is always dropped (log 44); YIELD offers its next cycle by a mark (log 89).

R144, R168: TRAP, ECALL and BKPT raise USER_TRAP after themselves, with the immediate and the kind. -/
def Obligations.PlainControl : Prop :=
  (
    (∀ h f s x, issued (.nop h f) s = some x → exec (.nop h f) s = .next (x.after (.done x.s)))
    ∧ (∀ h f s x, issued (.prf h f) s = some x → exec (.prf h f) s = .next (x.after (.done x.s)))
    ∧ (∀ h f s x, issued (.yieldV h f) s = some x →
        exec (.yieldV h f) s = .next (x.after (.done (x.s.updWave x.c.k (fun w =>
          { w with rot := x.c.g.quads.headD 0, consec := 32, offers := true })))))
    ∧ (∀ h f s x, issued (.sleep h f) s = some x →
        exec (.sleep h f) s = .next (x.after
          (if x.c.lanes = [] then .done x.s else .block x.s (.sleep (x.s.gtb + f.imm.toNat)))))
    ∧ (∀ h f s x, issued (.exit h f) s = some x → x.c.w.section? = true →
        exec (.exit h f) s = .next (x.after (if x.c.lanes = [] then .done x.s else .jump (endSection x.s x.c.k 0 []))))
    ∧ (∀ h f s x w0, issued (.exit h f) s = some x → x.c.w.section? = false → x.s.wave? x.c.k = some w0 →
        ∃ t w, exec (.exit h f) s = .next (x.after (.done t)) ∧ t.wave? x.c.k = some w
          ∧ w.ended = w0.ended ||| laneMask x.c.lanes ∧ w.act = w0.act &&& ~~~ laneMask x.c.lanes
          ∧ (∀ q, w.quadLive q = (w0.quadLive q && w.ended.extractLsb' (4 * q) 4 != 0xF#4))
          ∧ (∀ q, q < w0.quads.length → w.maskOf q = w0.maskOf q &&& ~~~ w.ended.extractLsb' (4 * q) 4)
          ∧ (∀ g ∈ w.gangs, ∀ q ∈ g.quads, w.quadLive q = true)
          ∧ w.vregs = w0.vregs ∧ w.preds = w0.preds ∧ w.sregs = w0.sregs ∧ t.mem = x.s.mem))
  ∧ (
    (∀ e ∈ ([(.trap, 0), (.ecall, 1)] : List ((Hdr → FmtI → Instr) × Nat)),
      ∀ h f s x, issued (e.1 h f) s = some x →
        exec (e.1 h f) s = .next (x.after (if x.c.lanes = [] then .done x.s else .trapAfter x.s
          { code := 0x09, mask := laneMask x.c.lanes, det1 := f.imm.toNat, det2 := e.2 })))
    ∧ (∀ h f s x, issued (.bkpt h f) s = some x →
        exec (.bkpt h f) s = .next (x.after (if x.c.lanes = [] ∨ x.s.waveDesc x.c.w 500 500 = 0 then .done x.s else .trapAfter x.s
          { code := 0x09, mask := laneMask x.c.lanes, det1 := f.imm.toNat, det2 := 2 }))))

/-- R20 in one quad: `m` its live lanes, `taken` those that take the branch, `again` whether some of the others take it with
another target. Where the quad goes, its mask, and what it pushes, the join entry last to be popped.

R20, R100, R132-R134: a branch whose targets pass their check and whose quads all resolve. When some lane takes it, every quad
is where R20 sends it; when none does, the instruction goes on in sequence with the pushes made. Calls write the PC of the
next slot to their link register, in vector registers or in a scalar pair. A target that fails its check raises its trap.
The model's choices: the PC of the entry that N is pushed with (log 10); the MASK of RET and of the other BRANCH_TARGET traps is the live lanes (log 17). -/
def Obligations.Branches : Prop :=
  (
    ∀ (w : Wave) (pc : Pc) (live lanes : List Nat) (tgt : Nat → Nat) (join : Option Nat) (q : Nat) (x : Quad),
      w.quads[q]? = some x →
      let m := nibble live q
      let d := x.mask &&& ~~~m
      let mine := lanes.filter (fun l => l / 4 == q)
      let goal := tgt (mine.headD 0)
      let t := nibble (mine.filter (fun l => tgt l == goal)) q
      let entries := match join with | none => [] | some j => [(BitVec.ofNat 48 j, x.mask)]
      (mine = [] →
        branchQuad w pc live lanes tgt join q =
          if 8 < x.stack.length + entries.length ∧ join ≠ none then .overflow 0 else .move ⟨q, 0, entries, nextPc pc, x.mask⟩)
      ∧ (mine ≠ [] → t = m →
        branchQuad w pc live lanes tgt join q =
          if 8 < x.stack.length + entries.length ∧ join ≠ none then .overflow 0
          else .move ⟨q, t, entries, BitVec.ofNat 48 goal, x.mask⟩)
      ∧ (mine ≠ [] → t ≠ m → join = none → branchQuad w pc live lanes tgt join q = .overflow 1)
      ∧ (mine ≠ [] → t ≠ m → ∀ j, join = some j →
        branchQuad w pc live lanes tgt join q =
          if 8 < x.stack.length + 2 then .overflow 0
          else .move ⟨q, t, (if mine.all (fun l => tgt l == goal) then nextPc pc else pc, m &&& ~~~t) :: entries,
            BitVec.ofNat 48 goal, t ||| d⟩))
  ∧ (
    (∀ (c : Ctx) (s s1 : State) (check : List Nat) (tgt : Nat → Nat) (join : Option Nat) (link : State → List QuadMove → State)
        (l : List QuadMove), checkTargets s c check = (none, s1) →
      branchAll c.w c.pc c.live c.lanes tgt join (c.g.quads.filter c.w.quadLive) = .ok l →
      branchBody c s check tgt join link = moveQuads c link s1 l)
    ∧ (∀ (c : Ctx) (s : State) (l : List QuadMove) (w0 : Wave), s.wave? c.k = some w0 → (l.map (·.q)).Nodup → (∀ m ∈ l, m.q ∈ c.g.quads) →
      (∀ t, moveQuads c noLink s l = .jump t → (∃ m ∈ l, m.taken ≠ 0) ∧
        ∃ w, t.wave? c.k = some w ∧ w.sameRegs w0 ∧ w.lc = w0.lc
          ∧ w.levels = (l.filter (fun m => m.taken != 0)).foldl (fun v m => closeOutside m.pc v) w0.levels
          ∧ (∀ q, w.quads[q]? = match l.find? (fun m => m.q == q) with
              | some m => (w0.quads[q]?).map (fun y => { y with pc := m.pc, mask := m.mask, stack := m.push ++ y.stack })
              | none => w0.quads[q]?)
          ∧ (∀ g ∈ w.gangs, ∀ p ∈ g.quads, ∀ q ∈ g.quads, w.pcOf p = w.pcOf q))
      ∧ (∀ t, moveQuads c noLink s l = .done t → (∀ m ∈ l, m.taken = 0) ∧
        ∃ w, t.wave? c.k = some w ∧ w.sameRegs w0 ∧ w.gangs = w0.gangs ∧ w.levels = w0.levels
          ∧ ∀ q, w.quads[q]? = (w0.quads[q]?).map (fun (y : Quad) =>
              ({ y with pc := if q ∈ c.g.quads then c.pc else y.pc,
                        mask := ((l.find? (fun m => m.q == q)).map (·.mask)).getD y.mask,
                        stack := ((l.find? (fun m => m.q == q)).map (·.push)).getD [] ++ y.stack } : Quad))))
    ∧ (∀ e ∈ ([(.bra, fun _ _ _ => noLink), (.call, fun h f => writeLink h f.m.ds)] :
        List ((Hdr → FmtB → Instr) × (Hdr → FmtB → Ctx → State → List QuadMove → State))),
      ∀ h f s x, issued (e.1 h f) s = some x →
        let goal := relTarget x.c.pc 24 f.lofs.toNat f.tslot.toNat
        let join := if f.m.sub.getLsbD 0 then some (relTarget x.c.pc 16 f.jofs.toNat f.jslot.toNat) else none
        exec (e.1 h f) s = .next (x.after (branchBody x.c x.s (goal :: join.toList) (fun _ => goal) join (e.2 h f x.c))))
    ∧ (∀ e ∈ ([(.brx, fun _ _ _ => noLink), (.callx, fun h f => writeLink h f.m.ds)] :
        List ((Hdr → FmtBi → Instr) × (Hdr → FmtBi → Ctx → State → List QuadMove → State))),
      ∀ h f s x, issued (e.1 h f) s = some x →
        let goal := x.c.src 0 f.m.sa f.sa true
        let join := if f.m.sub.getLsbD 0 then some (relTarget x.c.pc 16 f.jofs.toNat f.jslot.toNat) else none
        exec (e.1 h f) s = .next (x.after (branchBody x.c x.s (x.c.lanes.map goal ++ join.toList) goal join (e.2 h f x.c))))
    ∧ (∀ h f s x, issued (.ret h f) s = some x →
        let goal := x.c.src 0 f.m.sa f.sa true
        ((∀ l ∈ x.c.lanes, pcFormed (goal l) = true) →
          exec (.ret h f) s = .next (x.after (branchBody x.c x.s [] goal none noLink)))
        ∧ (∀ l, x.c.lanes.find? (fun l => !pcFormed (goal l)) = some l →
          exec (.ret h f) s = .next (x.after (.trap x.s { code := 0x04, mask := laneMask x.c.live, addr := goal l }))))
    ∧ (∀ (h : Hdr) (c : Ctx) (s : State) (l : List QuadMove),
        let link (f : RegFile) (i : Nat) : List RegWr :=
          [⟨f, h.dst.toNat, i, BitVec.ofNat 32 (nextPc c.pc).toNat⟩,
           ⟨f, h.dst.toNat + 1, i, BitVec.ofNat 32 ((nextPc c.pc).toNat / 2 ^ 32)⟩]
        writeLink h false c s l = s.updWave c.k (fun w => w.wrAll ((l.flatMap lanesOf).flatMap (link .vec)))
        ∧ writeLink h true c s l =
            s.updWave c.k (fun w => w.wrAll (if l.any (fun m => m.taken != 0) then link .sca 0 else [])))
    ∧ (∀ (c : Ctx) (s s1 : State) (check : List Nat) (tgt : Nat → Nat) (join : Option Nat) (link : State → List QuadMove → State),
        (∀ t, checkTargets s c check = (some t, s1) → branchBody c s check tgt join link = .trap s1 t)
        ∧ (∀ d, checkTargets s c check = (none, s1) →
          branchAll c.w c.pc c.live c.lanes tgt join (c.g.quads.filter c.w.quadLive) = .error d →
          branchBody c s check tgt join link = .trap s1 { code := 0x06, mask := laneMask c.live, det1 := d }))
    ∧ (∀ (c : Ctx) (s s1 : State) (a : Nat) (l : List Nat),
        (checkTarget s c.core c.w.ctx a = (.ok, s1) → checkTargets s c (a :: l) = checkTargets s1 c l)
        ∧ (checkTarget s c.core c.w.ctx a = (.bad, s1) →
          checkTargets s c (a :: l) = (some { code := 0x04, mask := laneMask c.live, addr := a }, s1))
        ∧ (∀ n, checkTarget s c.core c.w.ctx a = (.fault n, s1) →
          checkTargets s c (a :: l) = (some { code := 0x10, mask := laneMask c.live, addr := a, det1 := n }, s1))
        ∧ (∀ n, checkTarget s c.core c.w.ctx a = (.secure n, s1) →
          checkTargets s c (a :: l) = (some { code := 0x14, mask := laneMask c.live, addr := a, det1 := n }, s1))
        ∧ (checkTarget s c.core c.w.ctx a = (.poisoned, s1) →
          checkTargets s c (a :: l) = (some { code := 0x50, mask := laneMask c.live, det1 := 1 }, s1))
        ∧ checkTargets s c [] = (none, s))
    ∧ (∀ (s s1 : State) (core ctx a : Nat),
        (a < 2 ^ 48 ∧ a % 8 < 5 ∧ a / 8 % 8 = 0 → ∀ l, fetchLine s core ctx (a / 64 * 64) = (.line l, s1) →
          checkTarget s core ctx a = (if lineTgt l (a % 8) then .ok else .bad, s1))
        ∧ (a < 2 ^ 48 ∧ a % 8 < 5 ∧ a / 8 % 8 = 0 →
          (∀ n, fetchLine s core ctx (a / 64 * 64) = (.fault n, s1) → checkTarget s core ctx a = (.fault n, s1))
          ∧ (∀ n, fetchLine s core ctx (a / 64 * 64) = (.secure n, s1) → checkTarget s core ctx a = (.secure n, s1))
          ∧ (fetchLine s core ctx (a / 64 * 64) = (.poisoned, s1) → checkTarget s core ctx a = (.poisoned, s1)))
        ∧ (¬ (a < 2 ^ 48 ∧ a % 8 < 5 ∧ a / 8 % 8 = 0) → checkTarget s core ctx a = (.bad, s))))

/-- R21, R136, R257: JOIN pops to the first entry with a lane left, and ends the quads that have none; a shipped section with none left
ends. -/
def Obligations.Joins : Prop :=
  (∀ (w : Wave) (q : Nat) (x : Quad) (n : Nat) (e : Pc × BitVec 4), w.quads[q]? = some x → x.stack[n]? = some e → e.2 ≠ 0 →
    (∀ d ∈ x.stack.take n, d.2 = 0) →
    (joinQuad w q).quads = w.quads.set q { x with pc := e.1, mask := e.2, stack := x.stack.drop (n + 1) })
  ∧ (∀ h f s x, issued (.join h f) s = some x →
      let mine := x.c.g.quads.filter x.c.w.quadLive
      let ends := mine.filter (fun q => ∀ y, x.c.w.quads[q]? = some y → ∀ e ∈ y.stack, e.2 = 0)
      let t := x.s.updWave x.c.k (fun w => ((x.c.g.quads.filter w.quadLive).foldl joinQuad w).resplit)
      (x.c.w.section? = true → ends = mine →
        exec (.join h f) s = .next (x.after (.jump (endSection x.s x.c.k 0 []))))
      ∧ (x.c.w.section? = false ∨ ends ≠ mine →
        exec (.join h f) s = .next (x.after (.jump
          (if ends = [] then t
           else endLanes t x.c.k (laneMask (ends.flatMap (fun q => (List.range 4).map (4 * q + ·)))))))))

/-- R22, R137: REGANG. Quads that its mask does not name go on; the named ones wait for each other. A mask above 24 bits is an illegal field. -/
def Obligations.Regangs : Prop :=
  ∀ h f s x, issued (.regang h f) s = some x →
    let v : Nat := if f.m.sub.getLsbD 0 then (x.c.w.rdS f.sa.reg.toNat).toNat else 2 ^ 24 - 1
    let n := BitVec.ofNat 24 v
    let mine := x.c.g.quads.filter x.c.w.quadLive
    (2 ^ 24 ≤ v →
      exec (.regang h f) s = .next (x.after (.trap x.s { code := 0x02, det1 := 0x80000000 + Nat.log2 v })))
    ∧ (v < 2 ^ 24 → mine ≠ [] → (∀ q ∈ mine, n.getLsbD q = true) →
      exec (.regang h f) s = .next (x.after (.block x.s (.regang n))))
    ∧ (∀ w0, v < 2 ^ 24 → x.s.wave? x.c.k = some w0 → ¬ w0.splitEnd x.c.pc → w0.levels = [] →
      (∃ q ∈ mine, n.getLsbD q = false) → w0.quads = x.c.w.quads →
      ∃ t w, exec (.regang h f) s = .next (x.after (.jump t)) ∧ t.wave? x.c.k = some w ∧ w.sameRegs w0
        ∧ (∀ q ∈ mine, n.getLsbD q = false → (∃ g, w0.gangOf q = some g ∧ g.quads = x.c.g.quads ∧ g.wait = .none) →
            w.pcOf q = nextPc x.c.pc)
        ∧ (∀ q ∈ mine, n.getLsbD q = true → (∃ g, w0.gangOf q = some g ∧ g.quads = x.c.g.quads) → w.pcOf q = w0.pcOf q))

/-- R138-R140: hardware loops. LOOP enters a level with its counter, or skips the body when the count is 0; at the end of a
body the counter falls, and the loop goes round until it is 0; LBRK leaves the innermost level.
The model's choices: the MASK of LOOP_BODY is the live lanes (log 17). -/
def Obligations.HardwareLoops : Prop :=
  (∀ h f s x, issued (.loop h f) s = some x →
    let len := f.imm.toNat % 512
    let e := pcAfter x.c.pc len
    let n : Word := if f.m.sa then x.c.w.rdS f.sa.reg.toNat else f.imm >>> 16
    let bad (d : Nat) := exec (.loop h f) s = .next (x.after (.trap x.s { code := 0x07, mask := laneMask x.c.live, det1 := d }))
    (x.c.lanes = [] → exec (.loop h f) s = .next (x.after (.done x.s)))
    ∧ (x.c.lanes ≠ [] → (x.c.lanes ≠ x.c.live ∨ x.c.w.gangs.length ≠ 1) → bad 3)
    ∧ (x.c.lanes ≠ [] → x.c.lanes = x.c.live → x.c.w.gangs.length = 1 →
      (len = 0 ∨ 256 < len → bad 0)
      ∧ (1 ≤ len → len ≤ 256 →
        (x.c.w.levels.length = 3 → bad 1)
        ∧ (x.c.w.levels.length ≠ 3 →
          (∀ p l, x.c.w.levels = p :: l → pcOrder p.2 < pcOrder e → bad 2)
          ∧ ((∀ p l, x.c.w.levels = p :: l → pcOrder e ≤ pcOrder p.2) →
            (n = 0 → exec (.loop h f) s = .next (x.after (.jump
              (x.s.updWave x.c.k (fun w => w.setPcs x.c.g.quads (nextPc e))))))
            ∧ (n ≠ 0 → exec (.loop h f) s = .next (x.after (.jump (x.s.updWave x.c.k (fun w =>
                { w with lc := SMap.set 0#32 w.lc w.levels.length n, levels := (nextPc x.c.pc, e) :: w.levels }.setPcs
                  x.c.g.quads (nextPc x.c.pc)))))))))))
  ∧ (∀ h f s x, issued (.lbrk h f) s = some x →
    let bad (d : Nat) := exec (.lbrk h f) s = .next (x.after (.trap x.s { code := 0x07, mask := laneMask x.c.live, det1 := d }))
    (x.c.lanes = [] → exec (.lbrk h f) s = .next (x.after (.done x.s)))
    ∧ (x.c.lanes ≠ [] → x.c.w.levels = [] → bad 4)
    ∧ (∀ p l, x.c.lanes ≠ [] → x.c.w.levels = p :: l →
      (x.c.lanes ≠ x.c.live ∨ x.c.w.gangs.length ≠ 1 → bad 3)
      ∧ (x.c.lanes = x.c.live → x.c.w.gangs.length = 1 →
        exec (.lbrk h f) s = .next (x.after (.jump (x.s.updWave x.c.k (fun w =>
          { w with levels := l, lc := SMap.set 0#32 w.lc l.length 0 }.setPcs x.c.g.quads (nextPc p.2))))))))
  ∧ (∀ (pc st : Pc) (l : List (Pc × Pc)) (lc : SMap Word), SMap.wf 0#32 lc = true →
    let n := SMap.get 0#32 lc l.length
    (n ≠ 1 → loopEnd pc ((st, pc) :: l) lc = ((st, pc) :: l, SMap.set 0#32 lc l.length (n - 1), st))
    ∧ (n = 1 → (∀ p m, l = p :: m → p.2 ≠ pc) → loopEnd pc ((st, pc) :: l) lc = (l, SMap.set 0#32 lc l.length 0, nextPc pc))
    ∧ (n = 1 → ∀ p m, l = p :: m → p.2 = pc → loopEnd pc ((st, pc) :: l) lc = loopEnd pc l (SMap.set 0#32 lc l.length 0)))
  ∧ (∀ (x : Issued) (t0 : State) (w0 : Wave), t0.wave? x.c.k = some w0 → w0.section? = false → w0.splitEnd x.c.pc →
    x.c.g.quads.filter w0.quadLive ≠ [] →
    ∃ w, (x.after (.done t0)).wave? x.c.k = some w ∧ w.sched = .trapped ∧ w.sameRegs w0 ∧ w.levels = w0.levels ∧ w.lc = w0.lc
      ∧ w.trap = some (({ code := 0x07, mask := laneMask x.c.live, det1 := 3 } : TrapInfo).at_ (nextPc x.c.pc))
      ∧ ∀ q ∈ x.c.g.quads, w0.quadLive q = true → w.pcOf q = nextPc x.c.pc)
  ∧ (∀ (goal : Pc) (l : List (Pc × Pc)),
    let within (p : Pc × Pc) := pcOrder p.1 ≤ pcOrder goal ∧ pcOrder goal ≤ pcOrder p.2
    ∃ n, closeOutside goal l = l.drop n ∧ (∀ p ∈ l.drop n, within p) ∧ (n = 0 ∨ ∃ p, l[n - 1]? = some p ∧ ¬ within p))

/-- R145-R147: a barrier is a release, then a wait.
The model's choices: the MASK of ILLEGAL_WAIT is the live lanes (log 17).

R22, R29, R146, R151, R263, R271, R316: the waits that end by themselves after a step. A barrier completes when every live gang of
every wave of its members has arrived. The quads that a REGANG names leave as one gang when they all wait at one PC; a set of waiting
quads of which none can proceed raises ILLEGAL_WAIT. Which gang's PC and lanes that record names is the model's choice (log 106). -/
def Obligations.Barriers : Prop :=
  (
    ∀ e ∈ ([(.bar, 0, 1), (.barc, 1, 2), (.barg, 2, 4)] : List ((Hdr → FmtA → Instr) × Nat × Nat)),
      ∀ h f s x, issued (e.1 h f) s = some x →
        let fenced := x.c.g.released = true ∨ fenceReady x.s x.c.w e.2.2 x.c.w.opSeq = true
        let open_ := x.c.w.section? = false ∧ (e.2.1 = 2 → x.s.waveClass x.c.w = 0)
        (open_ → fenced →
          exec (e.1 h f) s = .next (x.after (.block (x.s.updWave x.c.k (fun w => { w with starv := 0 }))
            (.barrier e.2.1 f.m.sub.toNat))))
        ∧ (open_ → ¬ fenced → exec (e.1 h f) s = .next (x.after (.wait x.s (.release e.2.2 x.c.w.opSeq))))
        ∧ (x.c.w.section? = true →
          exec (e.1 h f) s = .next (x.after (.trap x.s { code := 0x20, mask := laneMask x.c.live, det1 := 5 })))
        ∧ (x.c.w.section? = false → e.2.1 = 2 → x.s.waveClass x.c.w ≠ 0 →
          ∃ a, exec (e.1 h f) s = .next (x.after (.trap x.s { code := 0x20, mask := laneMask x.c.live, addr := a, det1 := 2 }))))
  ∧ (
    (∀ (s : State) (w : Wave) (g : Gang), w ∈ s.waves → (s.waves.map (·.key)).Nodup → w.gangs = [g] → g.quads ≠ [] →
      w.sched ≠ .trapped → w.section? = false → (∀ x ∈ s.waves, ∀ h ∈ x.gangs, h.wait.named = none) →
      (waitDone s w g = true → ∃ v, (settle s).wave? w.key = some v ∧ v.wentOn w g (g.quads.headD 0))
      ∧ (waitDone s w g = false → (settle s).wave? w.key = some w))
    ∧ (∀ (s : State) (w : Wave) (g : Gang),
      (∀ kind n, g.wait = .barrier kind n → waitDone s w g = barrierDone s w kind n)
      ∧ (∀ n, g.wait = .waitb n → (waitDone s w g = true ↔ ∀ b ∈ w.batches, 32768 ≤ (n + 65536 - b.1.toNat) % 65536))
      ∧ (∀ t p a, g.wait = .tbwait t p a → (waitDone s w g = true ↔ (s.byteAt t).getLsbD 0 ≠ p))
      ∧ (∀ t a, g.wait = .launch t a → (waitDone s w g = true ↔ s.byteAt t ≠ 0))
      ∧ (∀ id, g.wait = .ship id → (waitDone s w g = true ↔ ∀ o ∈ s.ships, o.id ≠ id)))
    ∧ (∀ (s : State) (w : Wave) (t : Team) (n : Nat), s.team? w.grid w.team = some t →
      let here (kind : Nat) (u : Team) : Prop :=
        u.terminated = true ∨ ∀ x ∈ teamWaves s u, ∀ h ∈ x.gangs, h.wait = .barrier kind n
      (barrierDone s w 0 n = true ↔ here 0 t)
      ∧ (barrierDone s w 1 n = true ↔
        ∀ u ∈ s.teams, u.gid = t.gid → u.num / s.clusterSize w = t.num / s.clusterSize w → here 1 u)
      ∧ (barrierDone s w 2 n = true ↔ ∀ u ∈ s.teams, u.gid = t.gid → here 2 u))
    ∧ (∀ (s : State) (t : Team), teamWaves s t =
        if t.res = .resident then s.waves.filter (fun w => !w.section? && w.grid == t.gid && w.team == t.num)
        else if t.res = .ended then [] else t.saved)
    ∧ (∀ (s : State) (k : WaveKey) (w : Wave), s.wave? k = some w → w.section? = false →
      let waits (l : List Nat) : Prop := ∀ q ∈ l, ∃ g n, w.gangOf q = some g ∧ g.wait = .regang n
      let level (l : List Nat) : Prop := ∀ q ∈ l, ∀ p ∈ l, w.pcOf q = w.pcOf p
      ((∀ g ∈ w.gangs, ∀ n, g.wait = .regang n → ¬ waits (w.namedLive n)) → settleRegang s k = s)
      ∧ (∀ g n, g ∈ w.gangs → g.wait = .regang n → w.namedLive n ≠ [] → waits (w.namedLive n) → level (w.namedLive n) →
        (∀ h ∈ w.gangs, ∀ m, h.wait = .regang m → waits (w.namedLive m) → level (w.namedLive m) → w.namedLive m = w.namedLive n) →
        ¬ (w.regroup (w.namedLive n)).splitEnd (w.pcOf ((w.namedLive n).headD 0)) →
        ∃ v h, (settleRegang s k).wave? k = some v ∧ h ∈ v.gangs ∧ h.quads = w.namedLive n ∧ h.wait = .none ∧ v.sameRegs w
          ∧ (∀ q ∈ w.namedLive n, v.pcOf q = w.flowPc (w.pcOf ((w.namedLive n).headD 0)))
          ∧ (∀ q, q ∉ w.namedLive n → v.pcOf q = w.pcOf q)
          ∧ ∀ q : Nat, (v.quads[q]?).map (fun x => (x.mask, x.stack)) = (w.quads[q]?).map (fun x => (x.mask, x.stack)))
      ∧ (∀ g n, g ∈ w.gangs → g.wait = .regang n → waits (w.namedLive n) →
        (∀ h ∈ w.gangs, ∀ m, h.wait = .regang m → ¬ (waits (w.namedLive m) ∧ level (w.namedLive m))) →
        ∃ v h, (settleRegang s k).wave? k = some v ∧ v.sched = .trapped ∧ h ∈ w.gangs
          ∧ v.trap = some (({ code := 0x20, mask := laneMask (w.liveLanes h), det1 := 1 } : TrapInfo).at_ (w.pcOf (h.quads.headD 0))))))

/-- R149-R152: device-side launch, its wait, and the range tasks. A push that finds the launch queue and its ring full leaves the
predicate false and submits nothing.
The model's choices: MASK of ILLEGAL_WAIT (log 17); LAUNCH.wait is judged also when its grid is complete already (log 18). -/
def Obligations.Launches : Prop :=
  (∀ h f s x v s1 d s2, issued (.launch h f) s = some x → x.c.lanes ≠ [] →
    x.fenced 4 →
    (∃ t s0, oneAccess x.c .load 0 64 (x.c.src 0 true f.sa true 0) 64 x.s = .at_ t s0 ∧ readOne x.c t 64 s0 = .ok v ∧
      donePlace x.c (descOf v).done s0 = .at_ d s1) → s1.writable d 32 = true → walkerBusy s1 x.c.w.ctx = false →
    s2 = s1.part (s1.partOf x.c.core) → (∀ a, s2.ringSlot = some a → s1.lineFree a = true) →
    let p := s1.partOf x.c.core
    let pred (b : Bool) (w : Wave) := (w.wrAll (x.c.predAll h.dst.toNat (fun _ => b))).progress
    (1024 ≤ s2.lq.length → s2.ringCap ≤ s2.ring.length →
      exec (.launch h f) s = .next (x.after (.done (s1.updWave x.c.k (pred false)))))
    ∧ (s2.lq.length < 1024 →
      ∃ (t : State) (g : Grid), exec (.launch h f) s = .next (x.after (.done (t.updWave x.c.k (pred true))))
        ∧ t.grids = s1.grids ++ [g] ∧ g.desc = descOf v ∧ g.gid = gridHandle p s2.gidNext ∧ g.part = p ∧ g.ctx = x.c.w.ctx
        ∧ g.prio = (descOf v).prio % 4 ∧ g.started = false ∧ g.complete = false ∧ g.doneTarget = d
        ∧ t.waves = s1.waves
        ∧ (p < s1.parts.length → (t.part p).lq = s2.lq ++ [{ gid := g.gid, prio := g.prio }])
        ∧ t.mem = (s1.writeAt d 32
            (recordBits g.gid x.c.w.grid (((s1.waveTeam x.c.w).map (·.seq)).getD 0) true false false g.cls * 2 ^ 128)).mem)
    ∧ (1024 ≤ s2.lq.length → s2.ring.length < s2.ringCap →
      ∃ (t : State) (g : Grid) (l : List Byte), exec (.launch h f) s = .next (x.after (.done (t.updWave x.c.k (pred true))))
        ∧ t.grids = s1.grids ++ [g] ∧ g.desc = descOf v ∧ g.gid = gridHandle p s2.gidNext ∧ g.prio = (descOf v).prio % 4
        ∧ (p < s1.parts.length → (t.part p).lq = s2.lq ∧ (t.part p).ring = s2.ring ++ [{ gid := g.gid, prio := g.prio }])
        ∧ l.length = 128
        ∧ t.mem = (({ s1 with mem := s1.mem.write (field s2.lqCfg.toNat 63 12 * 4096 + 128 * (s2.ringTail % s2.ringCap)) l } : State).writeAt d 32
            (recordBits g.gid x.c.w.grid (((s1.waveTeam x.c.w).map (·.seq)).getD 0) true false false g.cls * 2 ^ 128)).mem))
  ∧ (∀ h f s x, issued (.launch h f) s = some x →
    (x.c.lanes = [] → exec (.launch h f) s = .next (x.after (.done x.s)))
    ∧ (x.c.lanes ≠ [] → ¬ x.fenced 4 → exec (.launch h f) s = .next (x.after (.wait x.s (.release 4 x.c.seq))))
    ∧ (∀ t s0 v, x.c.lanes ≠ [] → x.fenced 4 →
      oneAccess x.c .load 0 64 (x.c.src 0 true f.sa true 0) 64 x.s = .at_ t s0 → readOne x.c t 64 s0 = .ok v →
      let a := (descOf v).done
      (a % 32 ≠ 0 → exec (.launch h f) s = .next (x.after (.trap s0 { code := 0x12, mask := laneMask x.c.lanes, addr := a })))
      ∧ (∀ n s1, a % 32 = 0 → translateG s0 x.c.core x.c.w.ctx .store false a = (.fault n, s1) →
        exec (.launch h f) s = .next (x.after (.trap s1 { code := 0x10, mask := laneMask x.c.lanes, addr := a, det1 := n })))))
  ∧ (∀ h f s x t s1 v, issued (.launchWait h f) s = some x → x.c.lanes ≠ [] →
    let a := x.c.src 0 true f.sa true 0
    oneAccess x.c .load 0 32 a 32 x.s = .at_ t s1 → readOne x.c t 32 s1 = .ok v →
    (∀ d, judge s1 x.c.w h.yld (field v 255 128) = some d →
      exec (.launchWait h f) s = .next (x.after
        (.trap s1 { code := 0x20, mask := laneMask x.c.live, addr := a, det1 := d })))
    ∧ (judge s1 x.c.w h.yld (field v 255 128) = none →
      exec (.launchWait h f) s = .next (x.after (if field v 7 0 = 0 then .block s1 (.launch t a) else .done s1))))
  ∧ (∀ h f s x, issued (.tknext h f) s = some x →
    (∀ t, x.s.waveTeam x.c.w = some t → t.lo < t.hi → x.c.lanes = [] → exec (.tknext h f) s = .next (x.after (.done x.s)))
    ∧ (∀ t, x.s.waveTeam x.c.w = some t → t.lo < t.hi → x.c.lanes ≠ [] → t.splitAt = some x.s.cyc →
      exec (.tknext h f) s = .next (x.after (.stall x.s)))
    ∧ (∀ t, x.s.waveTeam x.c.w = some t → t.lo < t.hi → x.c.lanes ≠ [] → t.splitAt ≠ some x.s.cyc →
      let e := min (t.lo + ((x.s.grid? x.c.w.grid (x.s.partOf t.core)).map (·.desc.chunk)).getD 1) t.hi
      ∃ (u : State) (p : Pend), exec (.tknext h f) s = .next (x.after (.done (u.updWave x.c.k (fun w => { w with pend := w.pend ++ [p] }))))
        ∧ u = x.s.updTeam t.gid t.num (fun t => { t with lo := e })
        ∧ p.writes = [⟨.sca, h.dst.toNat, 0, BitVec.ofNat 32 t.lo⟩, ⟨.sca, h.dst.toNat + 1, 0, BitVec.ofNat 32 (t.lo / 2 ^ 32)⟩,
            ⟨.sca, (h.dst + 2).toNat, 0, BitVec.ofNat 32 e⟩, ⟨.sca, (h.dst + 2).toNat + 1, 0, BitVec.ofNat 32 (e / 2 ^ 32)⟩]
            ++ x.c.predAll f.sb.reg.toNat (fun _ => true) ∧ p.flags = 0)
    ∧ ((∀ t, x.s.waveTeam x.c.w = some t → t.hi ≤ t.lo) →
      exec (.tknext h f) s = .next (x.after (.alu { writes := x.c.predAll f.sb.reg.toNat (fun _ => false) }))))

/-! ## Memory instructions at issue -/

/-- R192, R201, R235-R239: a load that passes its checks, with a place for every element, has its elements in flight. LDS loads
once for its issue; MXLD loads a window row by row. -/
def Obligations.LoadsIssue : Prop :=
  (∀ h f s x good s1, issued (.ld h f) s = some x → x.c.lanes ≠ [] →
    let n := 2 ^ (f.m.sub.toNat / 4 % 4)
    let size := codeWidth f.m.ty.toNat / 8
    let step := if 32 < codeWidth f.m.ty.toNat then 2 else 1
    x.reached .load f.m.space.toNat (size * n) (x.elems f n size h.dst.toNat step x.c.lanes (fun _ _ => 0)) = some (good, s1) →
    ∃ t, exec (.ld h f) s = .next (x.after (.done t)) ∧ x.loading good (f.m.order == 1) s1 t)
  ∧ (∀ h f s x good s1 l rest, issued (.lds h f) s = some x → x.c.lanes = l :: rest →
    let n := 2 ^ (f.m.sub.toNat / 4 % 4)
    let size := codeWidth f.m.ty.toNat / 8
    let step := if 32 < codeWidth f.m.ty.toNat then 2 else 1
    x.reached .load f.m.space.toNat (size * n) (x.elems f n size h.dst.toNat step [l] (fun _ _ => 0)) = some (good, s1) →
    ∃ t, exec (.lds h f) s = .next (x.after (.done t)) ∧ x.loading good (f.m.order == 1) s1 t)
  ∧ (∀ h f s x good s1, issued (.mxld h f) s = some x → x.c.lanes ≠ [] →
    let n := f.m.sub.toNat % 8
    let e := if f.m.ty = 0 then 8 else 4
    x.reached .load f.m.space.toNat e (x.c.lanes.flatMap (fun l =>
      (List.range (if f.m.sub.getLsbD 3 then n else n * n)).map (fun i =>
        { lane := l, va := (x.c.addr f l + e * i) % (if f.m.space = 1 then 2 ^ 32 else 2 ^ 64), size := e,
          dst := h.dst.toNat + e / 4 * i }))) = some (good, s1) →
    ∃ t, exec (.mxld h f) s = .next (x.after (.done t)) ∧ x.loading good false s1 t)
  ∧ (∀ (c : Ctx) (f : FmtM) (l : Nat),
      (f.m.space ≠ 1 → c.addr f l = (((c.src 0 f.m.sbase f.sa true l : Int) + f.ofs.toInt) % 2 ^ 64).toNat)
      ∧ (f.m.space = 1 → c.addr f l = (((c.src 0 f.m.sbase f.sa false l : Int) + f.ofs.toInt) % 2 ^ 32).toNat))

/-- R192, R201, R205, R227, R237-R239: a store that passes checks 1 and 2 has left its elements, unchecked, on their way; no byte of
memory changes at issue, and its core's L1 no longer holds what it covers. One that releases waits for its fence first. -/
def Obligations.StoresIssue : Prop :=
  (∀ h f s x, issued (.st h f) s = some x → x.c.lanes ≠ [] →
    let n := 2 ^ (f.m.sub.toNat / 4 % 4)
    let size := codeWidth f.m.ty.toNat / 8
    let accs := x.elems f n size 0 (lsStep f) x.c.lanes (stData x.c f false)
    (accessChecks x.s x.c true f.m.space.toNat (size * n) accs = none →
      (f.m.order.toNat < 2 ∨ x.fenced (actScope f.m.space.toNat f.m.scope.toNat)) →
      ∃ t, exec (.st h f) s = .next (x.after (.done t)) ∧ x.storing f.m.space.toNat accs f.m.scope.toNat x.s t)
    ∧ (2 ≤ f.m.order.toNat → ¬ x.fenced (actScope f.m.space.toNat f.m.scope.toNat) →
      exec (.st h f) s = .next (x.after
        (.wait x.s (.release (actScope f.m.space.toNat f.m.scope.toNat) x.c.seq)))))
  ∧ (∀ h f s x l rest, issued (.sts h f) s = some x → x.c.lanes = l :: rest →
    let n := 2 ^ (f.m.sub.toNat / 4 % 4)
    let size := codeWidth f.m.ty.toNat / 8
    let accs := x.elems f n size 0 (lsStep f) [l] (stData x.c f true)
    accessChecks x.s x.c true f.m.space.toNat (size * n) accs = none →
      (f.m.order.toNat < 2 ∨ x.fenced (actScope f.m.space.toNat f.m.scope.toNat)) →
      ∃ t, exec (.sts h f) s = .next (x.after (.done t)) ∧ x.storing f.m.space.toNat accs f.m.scope.toNat x.s t)
  ∧ (∀ h f s x, issued (.mxst h f) s = some x → x.c.lanes ≠ [] →
    let n := f.m.sub.toNat % 8
    let k := if f.m.sub.getLsbD 3 then n else n * n
    let e := if f.m.ty = 0 then 8 else 4
    let accs : List Acc := x.c.lanes.flatMap (fun l => (List.range k).map (fun i =>
        { lane := l, va := (x.c.addr f l + e * i) % (if f.m.space = 1 then 2 ^ 32 else 2 ^ 64), size := e,
          dst := e / 4 * i, data := (x.c.window (f.m.ty == 0) f.sb.reg.toNat k l).getD i 0 }))
    accessChecks x.s x.c true f.m.space.toNat e accs = none →
      ∃ t, exec (.mxst h f) s = .next (x.after (.done t)) ∧ x.storing f.m.space.toNat accs (if f.m.space = 1 then 2 else 4) x.s t)

/-- R242, R243: an atomic that passes its checks, with a place for every element, has its elements on their way home, with its
operands; what each does there is the second part. RED asks for no value. -/
def Obligations.AtomicsIssue : Prop :=
  (∀ e ∈ ([(.atom, true), (.red, false)] : List ((Hdr → FmtM → Instr) × Bool)),
    ∀ h f s x good s1, issued (e.1 h f) s = some x → x.c.lanes ≠ [] →
    let size := codeWidth f.m.ty.toNat / 8
    x.reached .store f.m.space.toNat size (x.c.lanes.map (fun l =>
      { lane := l, va := x.c.addr f l, size := size, dst := h.dst.toNat,
        data := x.c.src 1 false f.sb (decide (32 < codeWidth f.m.ty.toNat)) l })) = some (good, s1) →
    (f.m.order.toNat < 2 ∨ x.fenced (actScope f.m.space.toNat f.m.scope.toNat)) →
    ∃ t, exec (e.1 h f) s = .next (x.after (.done t))
      ∧ x.updating good (.atomic f.m.sub.toNat f.m.ty.toNat e.2) f.m.scope.toNat s1 t)
  ∧ (∀ e ∈ ([(.cas, fun f => if 32 < codeWidth f.m.ty.toNat then 2 else 1), (.cas128, fun _ => 4)] :
      List ((Hdr → FmtM → Instr) × (FmtM → Nat))),
    ∀ h f s x good s1, issued (e.1 h f) s = some x → x.c.lanes ≠ [] →
    let n := e.2 f
    x.reached .store f.m.space.toNat (4 * n) (x.c.lanes.map (fun l =>
      { lane := l, va := x.c.addr f l, size := 4 * n, dst := h.dst.toNat, data := winWord x.c f n n l,
        cmp := winWord x.c f 0 n l })) = some (good, s1) →
    (f.m.order.toNat < 2 ∨ x.fenced (actScope f.m.space.toNat f.m.scope.toNat)) →
    ∃ t, exec (e.1 h f) s = .next (x.after (.done t)) ∧ x.updating good .cas f.m.scope.toNat s1 t)
  ∧ (∀ ty old b : Nat, ty = 8 ∨ ty = 9 → old < 2 ^ 32 → b < 2 ^ 32 →
    let v (n : Nat) : Int := if ty = 8 then (BitVec.ofNat 32 n).toInt else n
    atomicNew ty 0 old b = b ∧ atomicNew ty 1 old b = (old + b) % 2 ^ 32
    ∧ v (atomicNew ty 2 old b) = min (v old) (v b) ∧ v (atomicNew ty 3 old b) = max (v old) (v b)
    ∧ atomicNew ty 4 old b = old &&& b ∧ atomicNew ty 5 old b = old ||| b ∧ atomicNew ty 6 old b = old ^^^ b
    ∧ (ty = 9 → atomicNew ty 7 old b = (if b ≤ old then 0 else old + 1)
        ∧ atomicNew ty 8 old b = if old = 0 ∨ b < old then b else old - 1))

/-- R219, R229, R241, R245, R246: fences wait with what they wait for; FENCE and DRAINST send the wave's dirty sectors home.
FLUSH drops the lines that its lanes name from the L1 or the instruction cache of its core, and changes no byte of memory.
The model's choices: a fence with no active lane only goes on (logs 30, 35); FLUSH meets the range locks as a read of one byte (log 44). -/
def Obligations.FencesAndFlush : Prop :=
  (∀ e ∈ ([(.fence, false), (.fencet, true)] : List ((Hdr → FmtM → Instr) × Bool)),
    ∀ h f s x, issued (e.1 h f) s = some x →
      exec (e.1 h f) s = .next (x.after (if x.c.lanes = [] then .done x.s else
        .block (transmit x.s x.c.k (fun _ => true)) (.fence f.m.scope.toNat x.c.w.opSeq e.2))))
  ∧ (∀ h f s x, issued (.drainst h f) s = some x →
      exec (.drainst h f) s = .next (x.after (if x.c.lanes = [] then .done x.s else
        .block (transmit x.s x.c.k (fun _ => true)) (.drainst x.c.w.opSeq))))
  ∧ (∀ (s : State) (k : WaveKey), (transmit s k (fun _ => true)).mops = s.mops.map (fun o => if o.w = k then
        { o with elems := o.elems.map (fun e => match e.phase with
            | .dirty _ => if e.target = none then e else { e with phase := .sent }
            | _ => e) } else o)
      ∧ transmit s k (fun _ => true) = { s with mops := (transmit s k (fun _ => true)).mops })
  ∧ (∀ (x : Issued) (s : State) (scope n : Nat),
      (x.after (.wait s (.release scope n))).mops = (transmit s x.c.k (fun _ => true)).mops)
  ∧ (∀ h f s x good s1, issued (.flush h f) s = some x →
    let accs : List Acc := x.c.lanes.map (fun l => { lane := l, va := x.c.addr f l, size := 1 })
    accessChecks x.s x.c false f.m.space.toNat 1 accs = none → x.placed .user f.m.space.toNat accs = some (good, s1) →
    x.c.k.core < 256 →
    let lines := good.map (fun p => p.2.1.line)
    ∃ t, exec (.flush h f) s = .next (x.after (.done t)) ∧ t.mem = s1.mem ∧ t.hostMem = s1.hostMem ∧ t.peerMem = s1.peerMem
      ∧ (f.m.sub = 1 → (t.core x.c.k.core).icache =
            (s1.core x.c.k.core).icache.filter (fun e => !lines.contains e.place.line) ∧ t.mops = s1.mops)
      ∧ (f.m.sub ≠ 1 → (t.core x.c.k.core).l1 = (s1.core x.c.k.core).l1.filter (fun l => !lines.contains l.line)
          ∧ (t.core x.c.k.core).comb = (s1.core x.c.k.core).comb
          ∧ t.mops = s1.mops.map (fun o => { o with elems := o.elems.map (fun e => match e.phase, e.target with
              | .dirty _, some u => if o.w = x.c.k ∧ lines.contains u.line then { e with phase := .sent } else e
              | _, _ => e) })))

/-! ## Queues -/

/-- R247: queues are first in, first out. A pop takes the oldest element and a push adds one behind the others; on a ring in
device memory HEAD or TAIL rises by one.

R248: QINIT makes a ring out of a header of legal form, with HEAD and TAIL 0, the instruction's scope, V set and its wave's
records; a header of another form raises LOAD_FAULT with cause 5. Its FIFO form takes a bank in FIFO mode. -/
def Obligations.QueuesInOrder : Prop :=
  (
    (∀ (s : State) (core c b : Nat) (f : Fifo), s.fifo? c b = some f → c < s.cores.length →
      (∀ n, n ≤ f.elems.length →
        (popMany s core (.fifo c b) n).1 = f.elems.take n
        ∧ (popMany s core (.fifo c b) n).2.fifo? c b = some { f with elems := f.elems.drop n, head := f.head + n })
      ∧ (∀ x, (pushOne s core (.fifo c b) x).fifo? c b = some { f with elems := f.elems ++ [x], tail := f.tail + 1 }))
    ∧ (∀ (s s1 : State) (core ctx pa : Nat) (h : QHead),
      let q : QueueRef := .ring ctx none pa
      readQueue s q = some h → readQueue s1 q = some h →
      (∀ e, elemPlace s core q h h.head .load = (some e, s1) → s1.isTainted q = false → h.head + 1 < 2 ^ 64 →
        (popOne s core q).1 = s1.readAt e h.size
        ∧ readQueue (popOne s core q).2 q = some { h with head := h.head + 1 })
      ∧ (∀ b x, elemPlace s core q h h.tail .store = (some (.dev b), s1) → h.tail + 1 < 2 ^ 64 →
        (b + h.size ≤ pa ∨ pa + 64 ≤ b) →
        readQueue (pushOne s core q x) q = some { h with tail := h.tail + 1 }
        ∧ (pushOne s core q x).readAt (.dev b) h.size = x % 256 ^ h.size)))
  ∧ (
    (∀ h f s x t s1 v, issued (.qinit h f) s = some x → f.m.sub.getLsbD 2 = false → x.c.lanes ≠ [] →
      x.fenced (actScope f.m.space.toNat f.m.scope.toNat) →
      let a := x.c.addr f (x.c.lanes.headD 0)
      oneAccess x.c .store f.m.space.toNat 64 a 64 x.s = .at_ t s1 → ownPending s1 x.c.k t 64 = false →
      walkerBusy s1 x.c.w.ctx = false → s1.writable t 64 = true →
      readOne x.c t 64 s1 = .ok v →
      (headerBad v = true →
        exec (.qinit h f) s = .next (x.after (.trap s1 { code := 0x10, mask := laneMask x.c.lanes, addr := a, det1 := 5 })))
      ∧ (∀ q, headerBad v = false → queueAt s1 x.c.w.ctx t = some q →
        ∃ u hdr, exec (.qinit h f) s = .next (x.after (.done u))
          ∧ u = { s1.writeAt t 64 hdr with queues := u.queues, tainted := u.tainted, fabric := u.fabric }
          ∧ (t.isPeer = false → u.fabric = s1.fabric)
          ∧ u.queues.head? = some { q := q, w := x.c.k, sect := x.c.w.sectionId, gid := x.c.w.grid, team := x.c.w.team, wnum := x.c.w.wnum }
          ∧ q ∉ u.tainted ∧ hdr < 2 ^ 512 ∧ field hdr 111 0 = field v 111 0 ∧ field hdr 114 112 = f.m.scope.toNat
          ∧ field hdr 119 119 = field v 119 119 ∧ field hdr 120 120 = 1 ∧ field hdr 255 128 = 0
          ∧ field hdr 383 256 = queueRecord s1 x.c.w (v.testBit 119)
          ∧ field hdr 511 384 = queueRecord s1 x.c.w (v.testBit 119)))
    ∧ (∀ h f s x, issued (.qinit h f) s = some x → f.m.sub.getLsbD 2 = true → x.c.lanes ≠ [] →
      x.fenced (actScope 1 f.m.scope.toNat) →
      let b := (x.c.w.rdS f.sa.reg.toNat).toNat % 64
      (f.m.sub.toNat % 4 ≠ 3 → fifoReady x.s x.c.k.core b = true → x.c.k.core < x.s.cores.length →
        ∃ u q, exec (.qinit h f) s = .next (x.after (.done u)) ∧ u.fifo? x.c.k.core b = some q
          ∧ q.elems = [] ∧ q.scope = f.m.scope.toNat ∧ q.esz = f.m.sub.toNat % 4 ∧ q.hw = f.m.sub.getLsbD 3
          ∧ q.head = 0 ∧ q.tail = 0 ∧ q.bank = b)
      ∧ (f.m.sub.toNat % 4 = 3 ∨ fifoReady x.s x.c.k.core b = false →
        exec (.qinit h f) s = .next (x.after (.trap x.s
          { code := 0x10, mask := laneMask x.c.lanes, addr := (x.c.w.rdS f.sa.reg.toNat).toNat, det1 := 5 }))))
    ∧ (∀ x : Nat, headerBad x = false ↔
        (∃ i, 1 ≤ i ∧ i ≤ 24 ∧ field x 95 64 = 2 ^ i) ∧ field x 97 96 ≠ 3 ∧ field x 63 0 % 64 = 0 ∧ field x 111 98 = 0
          ∧ field x 118 115 = 0 ∧ field x 127 121 = 0))

/-- R249, R251: QBIND binds and unbinds a port of its wave. QTRY moves what there is, up to one element for each active lane,
and its predicate says which lanes moved one. -/
def Obligations.PortsAndTries : Prop :=
  (∀ h f s x, issued (.qbind h f) s = some x → x.c.lanes ≠ [] →
    let n := h.dst.toNat - 240
    let bound (q : Option (QueueRef × Nat)) (w : Wave) : Wave :=
      { w with ports := (q.map (fun q => (n, q))).toList ++ w.ports.filter (fun p => p.1 != n) }
    (f.m.sub.getLsbD 4 = true →
      exec (.qbind h f) s = .next (x.after (.done (x.s.updWave x.c.k (bound Option.none)))))
    ∧ (f.m.sub.getLsbD 4 = false → f.m.sub.getLsbD 2 = true →
      let a := (x.c.w.rdS f.sa.reg.toNat).toNat
      (x.s.fifo? x.c.k.core (a % 64)).isSome → fifoReady x.s x.c.k.core (a % 64) = true →
      exec (.qbind h f) s = .next (x.after (.done (x.s.updWave x.c.k (bound (some (.fifo x.c.k.core (a % 64), a)))))))
    ∧ (∀ t s1 v, f.m.sub.getLsbD 4 = false → f.m.sub.getLsbD 2 = false →
      let a := x.c.addr f (x.c.lanes.headD 0)
      oneAccess x.c .load f.m.space.toNat 64 a 64 x.s = .at_ t s1 → readOne x.c t 64 s1 = .ok v →
      (∀ q, v.testBit 120 = true → queueAt s1 x.c.w.ctx t = some q →
        exec (.qbind h f) s = .next (x.after (.done (s1.updWave x.c.k (bound (some (q, a)))))))
      ∧ (v.testBit 120 = false →
        exec (.qbind h f) s = .next (x.after
          (.trap s1 { code := 0x10, mask := laneMask x.c.lanes, addr := a, det1 := 5 })))))
  ∧ (∀ h f s x q v, issued (.qtry h f) s = some x → x.c.lanes ≠ [] →
    x.c.w.portQueue f.sa.reg.toNat = some q → readQueue x.s q = some v → queueScopeOk x.s x.c.w q v.scope = true →
    let push := f.m.sub.getLsbD 0
    let blocks := f.m.sub.getLsbD 1
    let count := x.c.lanes.length
    let n := portRegs s x.c.w f.sa.reg.toNat
    let a := x.c.w.portAddr f.sa.reg.toNat
    let legal := judge x.s x.c.w h.yld (if push then v.crec else v.prec)
    let pred (moved : List Nat) := x.c.predAll f.sb.reg.toNat (fun l => moved.contains l)
    let sc := actScope q.space v.scope
    let popped (moved : List Nat) : State :=
      let r := popMany x.s x.c.k.core q moved.length
      x.after (.done (commitAlu r.2 x.c (sigQtry h f n x.c)
        { writes := (moved.zip r.1).flatMap (fun p => (List.range n).map (fun i =>
            ⟨.vec, h.dst.toNat + i, p.1, BitVec.ofNat 32 (p.2 / 2 ^ (32 * i))⟩)) ++ pred moved }))
    let pushed (moved : List Nat) : State :=
      x.after (.done
        ((sendPush x.s x.c.w x.c.pc q (moved.map (elemOf x.c f n))).updWave x.c.k (fun w => w.wrAll (pred moved))))
    let next (t : State) : Prop := exec (.qtry h f) s = .next t
    (push = false → orderHeld x.s x.c.k x.c.seq = true → next (x.after (.stall x.s)))
    ∧ ((push = false → orderHeld x.s x.c.k x.c.seq = false) →
      (∀ d, blocks = true → legal = some d →
        next (x.after (.trap x.s { code := 0x20, mask := laneMask x.c.live, addr := a, det1 := d })))
      ∧ ((blocks = true → legal = none) →
        (∀ d, queuePoison x.s x.c.k.core q (if push then 0 else count) = some d →
          next (x.after (.trap x.s { code := 0x50, mask := laneMask x.c.lanes, det1 := d })))
        ∧ (queuePoison x.s x.c.k.core q (if push then 0 else count) = none →
          (push = false → (blocks = false ∨ count ≤ v.count) → next (popped (x.c.lanes.take (min count v.count))))
          ∧ (push = false → blocks = true → v.count < count → next (x.after (.wait x.s (.queue false q count a))))
          ∧ (push = true → blocks = true → roomOf x.s q v < count → next (x.after (.wait x.s (.queue true q count a))))
          ∧ (push = true → (blocks = false ∨ count ≤ roomOf x.s q v) →
            (x.fenced sc → next (pushed (x.c.lanes.take (min count (roomOf x.s q v)))))
            ∧ (¬ x.fenced sc → next (x.after (.wait x.s (.release sc x.c.seq)))))))))

/-- R40-R42, R252: COMBCFG. A change that the allocator refuses, or that changes nothing, answers with its reason, 0 when granted; a
granted change empties the bank of its old use and waits for COMB_MODE_CHANGE_DONE, which sets the mode, clears a bank that
was OFF and answers 0, once every sector that the bank held dirty has reached its home.
The model's choices: reason 4 in a shipped section (log 46). -/
def Obligations.BankModes : Prop :=
  (∀ h f s x, issued (.combcfg h f) s = some x → x.c.lanes ≠ [] →
    let bank := if f.m.sa then (x.c.w.rdS f.sa.reg.toNat).toNat % 64 else f.imm.toNat % 64
    let mode := field f.imm.toNat 10 8
    let c := x.c.k.core
    (∀ y ∈ (x.s.core c).changes, y.bank ≠ bank) →
    let r := bankReason x.s c bank mode (x.s.waveDesc x.c.w 498 498 == 1 && !x.c.w.section?)
    (r ≠ 0 ∨ x.s.bankMode c bank = mode →
      exec (.combcfg h f) s = .next (x.after (.done (commitAlu x.s x.c (sigCombcfg h f x.c)
        { writes := [⟨.sca, h.dst.toNat, 0, BitVec.ofNat 32 r⟩] }))))
    ∧ (r = 0 → x.s.bankMode c bank ≠ mode → c < x.s.cores.length →
      ∃ t, exec (.combcfg h f) s = .next (x.after (.block t (.comb bank h.dst.toNat)))
        ∧ (t.core c).changes = (x.s.core c).changes
            ++ [{ bank := bank, mode := mode, taken := x.s.cyc, ready := x.s.cyc + if x.s.bankMode c bank = 0 then 512 else 0 }]
        ∧ (t.core c).l1 = (x.s.core c).l1.filter (fun l => l.bank != bank)
        ∧ (t.core c).fifos = (x.s.core c).fifos.filter (fun q => q.bank != bank) ∧ (t.core c).comb = (x.s.core c).comb))
  ∧ (∀ (s : State) (core bank : Nat) (b : BankChange), (s.core core).changes.find? (fun x => x.bank == bank) = some b →
    b.taken < s.cyc → b.ready ≤ s.cyc → wayBusy s core bank (fun _ => true) = false → core < s.cores.length →
    SMap.wf 0 (s.core core).modes = true → (s.core core).comb.wf = true →
    ∃ t, exec (.combModeChangeDone core bank) s = .next t ∧ t.bankMode core bank = b.mode
      ∧ (∀ y ∈ (t.core core).changes, y.bank ≠ bank)
      ∧ (∃ u : State, (u.core core).modes = (t.core core).modes ∧ (u.core core).fifos = (s.core core).fifos ∧ u.waves = s.waves
          ∧ (∀ a, (u.core core).comb.get a = if s.bankMode core bank = 0 ∧ a / 0x8000 = bank then 0 else (s.core core).comb.get a)
          ∧ (t.core core).comb =
              ((((s.core core).combWait.filter (fun p => p.1 / 0x8000 == bank)).foldl (fun v p => rawCombSet v core p.1 p.2) u).core core).comb)
      ∧ (t.core core).combWait = (s.core core).combWait.filter (fun p => p.1 / 0x8000 != bank)
      ∧ (∀ w g d, s.waves = [w] → (s.core core).combWait = [] → w.key.core = core → w.gangs = [g] → g.wait = .comb bank d →
          ∃ v, t.waves = [v] ∧ v.sameRegs w
            ∧ v.pend = w.pend ++ [{ writes := [⟨.sca, d, 0, 0⟩], flags := 0, amax := [], keys := [⟨.sca, d⟩], push := none }]
            ∧ (g.quads ≠ [] → v.gangs.map (·.wait) = [.none])))

/-! ## Shipped sections -/

/-- R253-R259: SHIP and SHIPT send one request for each active lane to the home of its lock; SHIP blocks its gang, SHIPT goes on with
tokens in its destination. SRET ends its section with the results of the lowest active lane. -/
def Obligations.SectionInstructions : Prop :=
  (∀ e ∈ ([(.ship, false), (.shipt, true)] : List ((Hdr → FmtX → Instr) × Bool)),
    ∀ h f s x kern s1, issued (e.1 h f) s = some x → x.c.lanes ≠ [] → x.c.w.section? = false →
    let entry := x.c.src 0 true f.sa true 0
    sectionAt x.s x.c.w.ctx entry = some kern → checkTarget x.s x.c.k.core x.c.w.ctx entry = (.ok, s1) →
    let reqs := shipReqs f e.2 x.c s1
    (∀ r ∈ reqs, r.slotAddr % 32 = 0) →
    (∀ q v, e.2 = true → x.c.w.portQueue (240 + f.m.tile.toNat) = some q → readQueue s1 q = some v →
      queueScopeOk s1 x.c.w q v.scope = true) →
    x.c.g.released = true ∨ fenceReady s1 x.c.w (if reqs.all (fun r => r.rank != s1.fabric.rank) then 5 else 4) x.c.seq = true →
    ∃ (t : State) (o : ShipOp), t.ships = s1.ships ++ [o] ∧ o.w = x.c.k ∧ o.entry = entry ∧ o.kernel = kern ∧ o.reqs = reqs
      ∧ o.nres = f.m.tile.toNat % 4 + 1 ∧ o.dst = h.dst.toNat ∧ o.id = s1.nextId
      ∧ (e.2 = false → exec (e.1 h f) s = .next (x.after (.block t (.ship o.id))) ∧ o.tokens = none)
      ∧ (e.2 = true → exec (e.1 h f) s = .next (x.after (.done t))
          ∧ o.tokens = x.c.w.portQueue (240 + f.m.tile.toNat)
          ∧ ∀ w0 w, s1.wave? x.c.k = some w0 → t.wave? x.c.k = some w → w.shipCtr = w0.shipCtr + BitVec.ofNat 16 reqs.length))
  ∧ (∀ (f : FmtX) (tokens : Bool) (c : Ctx) (s : State),
    (shipReqs f tokens c s).map (·.lane) = c.lanes
    ∧ ∀ r ∈ shipReqs f tokens c s, r.lock = c.src 1 f.m.sb f.sb true r.lane ∧ (r.home, r.rank) = lockHome s (f.m.sub3.getLsbD 0) r.lock
      ∧ r.args.length = f.m.aux.toNat ∧ r.arrived = false ∧ r.result = none
      ∧ ∀ i, c.lanes[i]? = some r.lane → c.lanes.Nodup → r.token = c.w.shipCtr + BitVec.ofNat 16 i)
  ∧ (∀ (s : State) (fab : Bool) (a : Nat),
    let x := field a 47 7
    let y := field x 15 0 ^^^ field x 31 16 ^^^ field x 40 32
    lockHome s fab a =
      if fab then (y % (48 * s.fabric.clique) % 48, y % (48 * s.fabric.clique) / 48) else (y % 48, s.fabric.rank))
  ∧ (∀ h f s x, issued (.sret h f) s = some x →
    (x.c.lanes = [] → exec (.sret h f) s = .next (x.after (.done x.s)))
    ∧ (∀ l rest, x.c.lanes = l :: rest →
      exec (.sret h f) s = .next (x.after (.jump (endSection x.s x.c.k 0
        ((List.range (f.m.sub.toNat % 4 + 1)).map (fun i => x.c.regAt 0 false f.sa i l)))))))
  ∧ (∀ (s : State) (k : WaveKey) (w : Wave) (i : SectionInfo) (status : Nat) (l : List Word), s.wave? k = some w →
    w.info = some i → i.outcome = none →
    ∃ v, (endSection s k status l).wave? k = some v ∧ v.info = some { i with outcome := some (status, l) } ∧ v.finished = true
      ∧ v.act = 0 ∧ v.gangs = [] ∧ (endSection s k status l).mem = s.mem ∧ (endSection s k status l).cores = s.cores)

/-! ## The copy engine -/

/-- R261-R264, R269: COPY starts a transfer under its locks; BATCH closes the wave's open operations under its next number; WAITB waits for a
number; CHAIN starts or queues a list of records; CHSTAT reads a channel, and clears its error.
The model's choices: a COPY on a channel in error waits (log 48); MASK of a COPY that faults by no lane of its own is the active lanes (log 17). -/
def Obligations.CopyInstructions : Prop :=
  (∀ h f s x s1, issued (.copy h f) s = some x → x.c.lanes ≠ [] →
    let d := copyDesc f x.c
    (d.xb % d.elem = 0 ∧ d.dst % d.elem = 0 ∧ d.src % d.elem = 0 →
      addLocks x.s x.c.k.core x.c.w.ctx x.c.w.grid x.c.w.team x.s.nextId 0x123 d.ranges = some s1 →
      x.c.k.core < s1.cores.length → f.m.aux.toNat % 4 < (s1.core x.c.k.core).chans.length →
      ∃ (t : State) (y : Xfer), exec (.copy h f) s = .next (x.after (.done t)) ∧ y.desc = d ∧ y.w = x.c.k ∧ y.landed = []
        ∧ y.recAddr = 0 ∧ y.fault = none ∧ t.mem = x.s.mem
        ∧ (t.chan x.c.k.core (f.m.aux.toNat % 4)).xfers = (s1.chan x.c.k.core (f.m.aux.toNat % 4)).xfers ++ [y]
        ∧ ∀ w0 w, s1.wave? x.c.k = some w0 → t.wave? x.c.k = some w → w.batchOpen = w0.batchOpen ++ [y.id])
    ∧ (¬ (d.xb % d.elem = 0 ∧ d.dst % d.elem = 0 ∧ d.src % d.elem = 0) →
      ∃ a, exec (.copy h f) s = .next (x.after (.trap x.s { code := 0x12, mask := laneMask x.c.lanes, addr := a }))))
  ∧ (∀ h f s x, issued (.batch h f) s = some x → x.c.lanes ≠ [] → x.c.w.batches.length < 2 ^ 15 →
    exec (.batch h f) s = .next (x.after (.done (x.s.updWave x.c.k (fun w =>
      { w.wrAll [⟨.sca, h.dst.toNat, 0, BitVec.ofNat 32 w.batchSeq.toNat⟩] with
        batchSeq := w.batchSeq + 1, batchOpen := [],
        batches := if w.batchOpen.isEmpty then w.batches else w.batches ++ [(w.batchSeq, w.batchOpen)] })))))
  ∧ (∀ h f s x, issued (.waitb h f) s = some x →
    exec (.waitb h f) s = .next (x.after (if x.c.lanes = [] then .done x.s else
      .block x.s (.waitb (if f.m.sa then (x.c.w.rdS f.sa.reg.toNat).toNat % 2 ^ 16 else f.imm.toNat % 2 ^ 16)))))
  ∧ (∀ h f s x, issued (.chain h f) s = some x → x.c.lanes ≠ [] →
    let a := x.c.src 0 true f.sa true 0
    let n := f.m.aux.toNat % 4
    let ch := x.s.chan x.c.k.core n
    (a % 64 ≠ 0 → exec (.chain h f) s = .next (x.after (.trap x.s { code := 0x12, mask := laneMask x.c.lanes, addr := a })))
    ∧ (a % 64 = 0 → ch.err = true →
      exec (.chain h f) s = .next (x.after (.trap x.s { code := 0x40, det1 := ch.code.toNat, det2 := n })))
    ∧ (a = 0 → ch.err = false → exec (.chain h f) s = .next (x.after (.done x.s)))
    ∧ (a % 64 = 0 → ch.err = false → a ≠ 0 → x.c.k.core < x.s.cores.length → n < (x.s.core x.c.k.core).chans.length →
      (ch.walking = none → ch.heads = [] →
        ∃ t y, exec (.chain h f) s = .next (x.after (.done t)) ∧ y.addr = a ∧ y.w = x.c.k
          ∧ t.chan x.c.k.core n = { ch with walking := some y })
      ∧ ((ch.walking ≠ none ∨ ch.heads ≠ []) → ch.heads.length < 4 →
        ∃ t y, exec (.chain h f) s = .next (x.after (.done t)) ∧ y.addr = a ∧ y.w = x.c.k
          ∧ t.chan x.c.k.core n = { ch with heads := ch.heads ++ [y] })))
  ∧ (∀ h f s x, issued (.chstat h f) s = some x → x.c.lanes ≠ [] →
    let n := f.m.sub.toNat % 4
    let ch := x.s.chan x.c.k.core n
    let word := (if ch.walking.isSome || !ch.xfers.isEmpty then 1 else 0) + (if ch.err then 2 else 0) + 4 * (ch.heads.length % 8)
      + 32 * ch.code.toNat + 2 ^ 16 * ch.done.toNat
    let read := x.s.updWave x.c.k (fun w => w.wr ⟨.sca, h.dst.toNat, 0, BitVec.ofNat 32 word⟩)
    exec (.chstat h f) s = .next (x.after (.done (if f.m.sub.getLsbD 2 = true ∧ (∀ t, ch.errTeam = some t → t = (x.c.w.grid, x.c.w.team)) then
      read.updChan x.c.k.core n (fun ch => { ch with err := false, errTeam := none, code := 0 }) else read))))

/-! ## Transaction barriers -/

/-- R270: the barrier's word. An arrival lowers PARR, an expectation raises PSEC, landed sectors lower it; when both are 0 the phase
advances and PARR takes EARR again. An arrival with PARR 0 is discarded.

R271, R272: TBINIT, TBARR and TBEXP send one update of the barrier at its address; TBARR releases first. TBWAIT is judged by its class
and floor, then waits while the phase's parity is its operand's.
The model's choices: the MASK of the traps (log 17); TBWAIT is judged also when its phase has passed (log 18); TBEXP counts, and TBINIT with EARR 0 advances at once (log 47). -/
def Obligations.TransactionBarriers : Prop :=
  (
    ∀ x : Nat, x < 2 ^ 128 →
      let ph := field x 3 0
      let earr := field x 27 8
      let parr := field x 47 28
      let ptx := field x 95 64
      let same (y : Nat) := y < 2 ^ 128 ∧ field y 27 4 = field x 27 4 ∧ field y 63 48 = field x 63 48
        ∧ field y 127 96 = field x 127 96
      let is (y p a t : Nat) := field y 3 0 = p ∧ field y 47 28 = a ∧ field y 95 64 = t
      (parr = 0 → tbArrive x = x)
      ∧ (0 < parr → same (tbArrive x) ∧
          if parr = 1 ∧ ptx = 0 then is (tbArrive x) ((ph + 1) % 16) earr 0 else is (tbArrive x) ph (parr - 1) ptx)
      ∧ (∀ n, n < 2 ^ 32 → same (tbExpect x n) ∧
          if parr = 0 ∧ (ptx + n) % 2 ^ 32 = 0 then is (tbExpect x n) ((ph + 1) % 16) earr 0
          else is (tbExpect x n) ph parr ((ptx + n) % 2 ^ 32))
      ∧ (∀ n, n ≤ ptx → same (tbLand x n) ∧
          if parr = 0 ∧ ptx = n then is (tbLand x n) ((ph + 1) % 16) earr 0 else is (tbLand x n) ph parr (ptx - n)))
  ∧ (
    (∀ h f s x t s1, issued (.tbinit h f) s = some x → x.c.lanes ≠ [] →
      let a := x.c.addr f (x.c.lanes.headD 0)
      oneAccess x.c .store f.m.space.toNat 16 a 16 x.s = .at_ t s1 →
      ∃ u word, exec (.tbinit h f) s = .next (x.after (.done u))
        ∧ x.updating [({ lane := x.c.lanes.headD 0, va := a, size := 16, data := word }, t, 7)] (.barrier 0) f.m.scope.toNat s1 u
        ∧ (let earr := (x.c.w.rdS f.sb.reg.toNat).toNat % 2 ^ 20
           field word 27 8 = earr ∧ field word 47 28 = earr ∧ field word 95 64 = 0 ∧ field word 127 96 = 0
           ∧ field word 3 0 = (if earr = 0 then 1 else 0)
           ∧ field word 5 4 = (if f.m.sub.getLsbD 0 then 3 else if x.c.w.section? then 2 else s1.waveClass x.c.w % 4)
           ∧ tbScope word = f.m.scope.toNat
           ∧ field word 63 48 = (((s1.waveTeam x.c.w).map (·.seq)).getD 0) % 2 ^ 16))
    ∧ (∀ e ∈ ([(.tbarr, 1), (.tbexp, 2)] : List ((Hdr → FmtM → Instr) × Nat)),
      ∀ h f s x t s1 v, issued (e.1 h f) s = some x → x.c.lanes ≠ [] →
      let a := x.c.addr f (x.c.lanes.headD 0)
      oneAccess x.c .store f.m.space.toNat 16 a 16 x.s = .at_ t s1 → ownPending s1 x.c.k t 16 = false →
      readOne x.c t 16 s1 = .ok v →
      (e.2 = 1 → x.c.g.released = true ∨ fenceReady s1 x.c.w (actScope f.m.space.toNat (tbScope v)) x.c.seq = true) →
      ∃ u, exec (e.1 h f) s = .next (x.after (.done u))
        ∧ x.updating [({ lane := x.c.lanes.headD 0, va := a, size := 16, data :=
            if e.2 = 2 then (x.c.w.rdS f.sb.reg.toNat).toNat else 0 }, t, 7)] (.barrier e.2) (tbScope v) s1 u)
    ∧ (∀ h f s x t s1 v, issued (.tbwait h f) s = some x → x.c.lanes ≠ [] → x.c.w.section? = false →
      let a := x.c.addr f (x.c.lanes.headD 0)
      oneAccess x.c .load f.m.space.toNat 16 a 16 x.s = .at_ t s1 → ownPending s1 x.c.k t 16 = false →
      readOne x.c t 16 s1 = .ok v →
      (∀ d, judgeBarrier s1 x.c.w h.yld (field v 5 4) (field v 63 48) = some d →
        exec (.tbwait h f) s = .next (x.after (.trap s1 { code := 0x20, mask := laneMask x.c.live, addr := a, det1 := d })))
      ∧ (judgeBarrier s1 x.c.w h.yld (field v 5 4) (field v 63 48) = none →
        exec (.tbwait h f) s = .next (x.after
          (if v.testBit 0 = f.m.sub.getLsbD 0 then .block s1 (.tbwait t (f.m.sub.getLsbD 0) a) else .done s1)))))

/-! ## Embedding tables and device-thread I/O -/

/-- R273-R278: a table instruction with a handle that is not stale. GATHER loads the row of each lane whose index names one, and zeros for the
others; SCATTER stores the rows, or sends one add for each element of each distinct row; the predicate of either tells the lanes that were
dropped, and the drop counter counts them. The memory forms start an operation of the table unit; TBLSTAT reads the version and the
counters. A stale handle traps. The counter is written at the issue, once its line may be written, which is the model's choice (logs 13
and 33). -/
def Obligations.TableInstructions : Prop :=
  (∀ e ∈ ([.gather, .scatter] : List (Hdr → FmtX → Instr)), ∀ h f s x t, issued (e h f) s = some x → x.c.lanes ≠ [] →
    useHandle x.s x.c (handleOf x.c f.sa) = .error t → exec (e h f) s = .next (x.after (.trap x.s t)))
  ∧ (∀ h f s x d good s1, issued (.gather h f) s = some x → x.c.lanes ≠ [] → f.m.sub3.getLsbD 0 = false →
    useHandle x.s x.c (handleOf x.c f.sa) = .ok d → d.rowBytes ≤ 64 → (∀ o ∈ s.loads, o.id < s.nextId) →
    let rows := laneRows x.c f d
    let drops := droppedLanes rows
    let n := d.rowBytes / 4
    let p := if f.m.sub3.getLsbD 1 then f.sc.reg.toNat else 0
    x.reached .load 0 4 ((keptRows rows).flatMap (fun p => (List.range n).map (fun i =>
      { lane := p.1, va := d.base + p.2 * d.rowBytes + 4 * i, size := 4, dst := h.dst.toNat + i }))) = some (good, s1) →
    (drops = [] ∨ x.s.writable (.dev (d.at_ + 40)) 8 = true ∧ s1.writable (.dev (d.at_ + 40)) 8 = true) →
    ∃ (t : State), exec (.gather h f) s = .next (x.after (.done t))
      ∧ t.mem = (if drops = [] then s1.mem else
          s1.mem.writeNat (d.at_ + 40) 8 ((s1.mem.readNat (d.at_ + 40) 8 + drops.length) % 2 ^ 64))
      ∧ (keptRows rows ≠ [] → ∃ o : LOp, t.loads = s1.loads ++ [o] ∧ o.w = x.c.k
        ∧ ∀ y, y ∈ o.elems ↔
          (∃ p ∈ good, y = { lane := p.1.lane, va := p.1.va, size := p.1.size, target := p.2.1, lease := p.2.2, dst := p.1.dst,
                             done := false, value := 0 })
          ∨ ∃ l ∈ drops, ∃ i < n, y = { lane := l, va := 0, size := 4, target := .dev 0, lease := 7,
                                        dst := h.dst.toNat + i, done := true, value := 0 })
      ∧ (keptRows rows = [] → t.loads = s1.loads)
      ∧ ∀ w0, s1.wave? x.c.k = some w0 → ∃ w zeros told, t.wave? x.c.k = some w ∧ w.sameRegs w0 ∧ w.pend = w0.pend ++ zeros ++ told
        ∧ (keptRows rows ≠ [] → zeros = [])
        ∧ (keptRows rows = [] → ∃ z : Pend, zeros = [z] ∧ z.push = none ∧ z.flags = 0
            ∧ ∀ y, y ∈ z.writes ↔ ∃ l ∈ drops, ∃ i < n, y = ⟨.vec, h.dst.toNat + i, l, 0⟩)
        ∧ told = if p = 0 then [] else
            [{ writes := x.c.predAll p (fun l => drops.contains l), flags := 0, amax := [], keys := [⟨.pred, p⟩], push := none }])
  ∧ (∀ h f s x d, issued (.scatter h f) s = some x → x.c.lanes ≠ [] → f.m.sub3.getLsbD 0 = false →
    useHandle x.s x.c (handleOf x.c f.sa) = .ok d → d.rowBytes ≤ 64 →
    let add := f.m.sub3.getLsbD 2
    let e := if add then codeWidth d.fmt / 8 else 4
    let rows := laneRows x.c f d
    let drops := droppedLanes rows
    let whole := (keptRows rows).map (fun p => (p.1, p.2, splitElems e (d.rowBytes / e) (laneRow x.c f (d.rowBytes / 4) p.1)))
    let accs : List Acc := (if add then combineRows d.fmt [] whole else whole).flatMap (fun p =>
      p.2.2.zipIdx.map (fun q => { lane := p.1, va := d.base + p.2.1 * d.rowBytes + e * q.2, size := e, data := q.1 }))
    (add = true → addFmt d.fmt = false →
      exec (.scatter h f) s = .next (x.after (.trap x.s { code := 0x34, mask := laneMask x.c.lanes, det1 := 6 })))
    ∧ ((add = true → addFmt d.fmt = true) → accessChecks x.s x.c true 0 e accs = none →
      (drops = [] ∨ x.s.writable (.dev (d.at_ + 40)) 8 = true) →
      ∃ t, exec (.scatter h f) s = .next (x.after (.done t)) ∧ x.covered 0 accs x.s t
        ∧ t = { x.s with mem := t.mem, mops := t.mops, waves := t.waves, teams := t.teams, cores := t.cores, nextId := t.nextId }
        ∧ t.mem = (if drops = [] then x.s.mem else
            x.s.mem.writeNat (d.at_ + 40) 8 ((x.s.mem.readNat (d.at_ + 40) 8 + drops.length) % 2 ^ 64))
        ∧ (accs = [] → t.mops = x.s.mops)
        ∧ (accs ≠ [] → ∃ o : MOp, t.mops = x.s.mops ++ [o] ∧ o.w = x.c.k
            ∧ o.kind = (if add then .atomic 1 d.fmt false else .store) ∧ o.checked = false ∧ o.scope = 4 ∧ o.pc = x.c.pc
            ∧ o.elems.map (fun e => (e.lane, e.va, e.size, e.data)) = accs.map (fun a => (a.lane, a.va, a.size, a.data))
            ∧ ∀ e ∈ o.elems, e.phase = .unchecked)
        ∧ ∀ w0, x.s.wave? x.c.k = some w0 → ∃ w, t.wave? x.c.k = some w ∧ w.sameRegs
            (if f.m.sub3.getLsbD 1 = true ∧ h.dst ≠ 0 then w0.wrAll (x.c.predAll h.dst.toNat (fun l => drops.contains l)) else w0)))
  ∧ (∀ (fmt i : Nat) (l : List (Nat × Nat × List Nat)), (combineRows fmt [] l).filter (fun p => p.2.1 == i) =
      match l.filter (fun p => p.2.1 == i) with
      | [] => []
      | p :: r => [(p.1, i, r.foldl (fun y q => (y.zip q.2.2).map (fun z => atomicNew fmt 1 z.1 z.2)) p.2.2)])
  ∧ (∀ e ∈ ([(.gather, false), (.scatter, true)] : List ((Hdr → FmtX → Instr) × Bool)),
    ∀ h f s x d t s1 v idx rows count stride tb s2, issued (e.1 h f) s = some x → x.c.lanes ≠ [] → f.m.sub3.getLsbD 0 = true →
    useHandle x.s x.c (handleOf x.c f.sa) = .ok d → (f.m.sub3.getLsbD 2 = true → addFmt d.fmt = true) →
    oneAccess x.c .load 0 32 (x.c.src 1 true f.sb true 0) 32 x.s = .at_ t s1 → readOne x.c t 32 s1 = .ok v →
    memForm d v = some (idx, rows, count, stride, tb) →
    addLocks s1 x.c.k.core x.c.w.ctx x.c.w.grid x.c.w.team s1.nextId (if e.2 then 0x12D else 0x12C)
      (tableRanges e.2 (f.m.ty == 6) d.rowBytes idx rows count stride) = some s2 → x.c.k.core < s2.cores.length →
    ∃ (t : State) (o : TableOp), exec (e.1 h f) s = .next (x.after (.done t))
      ∧ (t.core x.c.k.core).tableOps = (s2.core x.c.k.core).tableOps ++ [o]
      ∧ o.scatter = e.2 ∧ o.wide = (f.m.ty == 6) ∧ o.add = f.m.sub3.getLsbD 2 ∧ o.base = d.base ∧ o.rowBytes = d.rowBytes
      ∧ o.idx = idx ∧ o.rowsAddr = rows ∧ o.count = count ∧ o.stride = stride ∧ o.tb = tb ∧ o.w = x.c.k ∧ t.mem = s2.mem)
  ∧ (∀ (d : TableDesc) (v : Nat), (memForm d v).isSome = true ↔
    (let count := field v 159 128
     let stride := field v 191 160
     field v 63 62 < 2 ∧ field v 127 126 < 2 ∧ field v 255 254 < 2 ∧ 1 ≤ count ∧ count ≤ 2 ^ 20 ∧ d.rowBytes ≤ stride
     ∧ stride % 4 = 0 ∧ (field v 255 192 = 0 ∨ d.rowBytes % 32 = 0 ∧ field v 253 192 % 16 = 0)))
  ∧ (∀ h f s x d, issued (.tblstat h f) s = some x → x.c.lanes ≠ [] → useHandle x.s x.c (handleOf x.c f.sa) = .ok d →
    let v := if f.m.sub.getLsbD 0 then d.version + 2 ^ 32 * d.rows else d.drops
    let answer (s : State) := commitAlu s x.c (sigTblstat h f x.c) { writes := [⟨.sca, h.dst.toNat, 0, BitVec.ofNat 32 v⟩,
        ⟨.sca, h.dst.toNat + 1, 0, BitVec.ofNat 32 (v / 2 ^ 32)⟩] }
    (f.m.sub.getLsbD 1 = false → exec (.tblstat h f) s = .next (x.after (.done (answer x.s))))
    ∧ (f.m.sub.getLsbD 1 = true → x.s.writable (.dev (d.at_ + 40)) 8 = false →
      exec (.tblstat h f) s = .next (x.after (.stall (contestAll x.s (.dev (d.at_ + 40)) 8))))
    ∧ (f.m.sub.getLsbD 1 = true → x.s.writable (.dev (d.at_ + 40)) 8 = true →
      exec (.tblstat h f) s = .next (x.after (.done (answer { x.s with mem := x.s.mem.writeNat (d.at_ + 40) 8 0 })))))

/-- R279-R282, R414: IORD, IOWR and IOPOST, with every descriptor readable, legal for the instruction and on a connection of the wave's
context, and a completion queue of 16-byte elements: one request for each lane, in ascending order. A read holds a range lock
on its buffer; a post waits in the receive list. While the lock table is full the lanes not begun wait at the issue, and the issue waits
for the wave's unchecked stores and for the acquires and fences before it. -/
def Obligations.IoInstructions : Prop :=
  (∀ e ∈ ([(.iord, [0, 2]), (.iowr, [1, 3, 4]), (.iopost, [5])] : List ((Hdr → FmtX → Instr) × List Nat)),
    ∀ h f s x good s1 ds q t0, issued (e.1 h f) s = some x → x.c.lanes ≠ [] →
    x.reached .load 0 64 (x.c.lanes.map (fun l => { lane := l, va := x.c.src 0 f.m.sa f.sa true l, size := 64 })) =
      some (good, s1) →
    ((orderHeld s1 x.c.k x.c.seq = true ∨ ∃ o ∈ s1.mops, o.w = x.c.k ∧ o.checked = false) →
      exec (e.1 h f) s = .next (x.after (.stall s1)))
    ∧ (orderHeld s1 x.c.k x.c.seq = false → (∀ o ∈ s1.mops, o.w = x.c.k → o.checked = true) →
    good.map (fun p => readOne x.c p.2.1 64 s1) = ds.map (fun d => .ok d) →
    (∀ d ∈ ds, ioCause s1 x.c e.2 d = none) → ioQueue s1 x.c (240 + f.m.tile.toNat) = some q →
    (beginAll x.c q (x.c.lanes.zip ds) s1 = ([], t0) →
      ∃ t, exec (e.1 h f) s = .next (x.after (.done t)) ∧ t.io = t0.io ∧ t.cores = t0.cores ∧ t.mem = t0.mem)
    ∧ (∀ left, left ≠ [] → beginAll x.c q (x.c.lanes.zip ds) s1 = (left, t0) →
      ∃ t, exec (e.1 h f) s = .next (x.after (.stall t)) ∧ t.io = t0.io ∧ t.cores = t0.cores ∧ t.mem = t0.mem
        ∧ ∀ w g, t.wave? x.c.k = some w → w.gangOf x.c.q = some g → g.replay = some (laneMask left))))
  ∧ (∀ (c : Ctx) (q : QueueRef) (l d : Nat) (s : State), isBroken s (s.partOf c.k.core) (field d 143 128) = false →
    let r := ioReq s c q d s.nextId
    (kindOf d = 5 → ∃ t, beginAll c q [(l, d)] s = ([], t) ∧ t.io = { s.io with posted := s.io.posted ++ [r] } ∧ t.cores = s.cores)
    ∧ (kindOf d = 1 ∨ kindOf d = 3 ∨ kindOf d = 4 →
      ∃ t, beginAll c q [(l, d)] s = ([], t) ∧ t.io = { s.io with reqs := s.io.reqs ++ [r] } ∧ t.cores = s.cores)
    ∧ (kindOf d = 0 ∨ kindOf d = 2 → (s.core c.k.core).locks.length < 64 → c.k.core < s.cores.length →
      ∃ t y, beginAll c q [(l, d)] s = ([], t) ∧ t.io = { s.io with reqs := s.io.reqs ++ [r] }
        ∧ (t.core c.k.core).locks = (s.core c.k.core).locks ++ [y] ∧ y.lo = field d 63 0
        ∧ y.hi = field d 63 0 + field d 95 64 ∧ y.write = true ∧ y.space = 0 ∧ y.owner = s.nextId ∧ y.ctx = c.w.ctx))
  ∧ (∀ (s : State) (c : Ctx) (kinds : List Nat) (d : Nat),
    let e := connEntry s (s.partOf c.k.core) (field d 143 128)
    ioCause s c kinds d = none ↔
      (field d 143 128 < 4096 ∧ field e 0 0 = 1 ∧ field e 143 134 = c.w.ctx ∧ field d 163 160 ∈ kinds
        ∧ (field e 124 124 = 1 → field d 163 160 ≤ 1) ∧ (field e 124 124 = 0 → 2 ≤ field d 163 160)))

/-! ## The matrix engine -/

/-- R291-R299: the baton and the B buffers' commands. BTAKE takes a free baton or waits for it; BPASS gives it up; an engine
instruction without it traps. BLOAD and BSWAP enter the engine's list, behind the commands before them.

R294, R298, R299, R304, R392: the B buffers at work, and the hold budget. BLOAD fills b1 whole and makes it valid for the team; BSWAP
changes the buffers with their poison; a long MMA does both for every block. A holder past its budget is told and the baton goes to the
head of the queue. -/
def Obligations.BatonAndBuffers : Prop :=
  (
    (∀ h f s x, issued (.btake h f) s = some x → x.c.lanes ≠ [] →
      let e := x.s.engineCore x.c.w
      ((x.s.core e).eng.baton = some x.c.k → exec (.btake h f) s = .next (x.after (.done x.s)))
      ∧ ((x.s.core e).eng.baton = none → exec (.btake h f) s = .next (x.after (.done (grantBaton x.s e x.c.k))))
      ∧ (∀ k, (x.s.core e).eng.baton = some k → k ≠ x.c.k → e < x.s.cores.length →
        ∃ t, exec (.btake h f) s = .next (x.after (.block t .baton)) ∧ (t.core e).eng.baton = some k
          ∧ (t.core e).eng.queue = if (x.s.core e).eng.queue.any (fun y => y.1 == x.c.k) then (x.s.core e).eng.queue
              else joinQueue x.c.k x.s.cyc (x.s.core e).eng.queue))
    ∧ (∀ (k : WaveKey) (cyc : Nat) (l : List (WaveKey × Nat)),
        let order (k : WaveKey) : Nat := (k.core * 4 + k.slot) * 32 + k.place
        ((∀ y ∈ l, y.2 = cyc → order y.1 ≤ order k) → joinQueue k cyc l = l ++ [(k, cyc)])
        ∧ (∀ y r, l = y :: r → y.2 = cyc → order k < order y.1 → joinQueue k cyc l = (k, cyc) :: l))
    ∧ (∀ (s : State) (c : Nat) (k : WaveKey) (w : Wave), s.wave? k = some w → c < s.cores.length →
        (∀ g ∈ w.gangs, g.wait ≠ .baton) →
        ((grantBaton s c k).core c).eng.baton = some k ∧ (grantBaton s c k).mem = s.mem
        ∧ ∃ v, (grantBaton s c k).wave? k = some v ∧ v.sameRegs w ∧ v.quads = w.quads ∧ v.gangs = w.gangs)
    ∧ (∀ h f s x, issued (.bpass h f) s = some x → x.c.lanes ≠ [] →
      let e := x.s.engineCore x.c.w
      ((x.s.core e).eng.baton = some x.c.k →
        exec (.bpass h f) s = .next (x.after (.done (passBaton x.s e
          (if f.m.sub = 1 then passTo x.s x.c (x.c.w.rdS f.sa.reg.toNat).toNat else none)))))
      ∧ ((x.s.core e).eng.baton ≠ some x.c.k →
        exec (.bpass h f) s = .next (x.after (.trap x.s { code := 0x33, mask := laneMask x.c.lanes, det1 := 3 }))))
    ∧ (∀ (s : State) (c n : Nat) (named : Option WaveKey) (k : WaveKey) (rest : List (WaveKey × Nat)),
        (s.core c).eng.queue = (k, n) :: rest → (∀ j, named = some j → ∀ y ∈ (s.core c).eng.queue, y.1 ≠ j) →
        passBaton s c named = grantBaton s c k)
    ∧ (∀ e ∈ ([.bload, .bswap, .mma, .accz, .accrd, .accwr, .acccvt, .accst, .accwait] : List (Hdr → FmtX → Instr)),
      ∀ h f s x, issued (e h f) s = some x → x.c.lanes ≠ [] → (x.s.core (x.s.engineCore x.c.w)).eng.baton ≠ some x.c.k →
        exec (e h f) s = .next (x.after (.trap x.s { code := 0x33, mask := laneMask x.c.lanes, det1 := 1 })))
    ∧ (∀ h f s x, issued (.bswap h f) s = some x → x.c.lanes ≠ [] →
      (x.s.core (x.s.engineCore x.c.w)).eng.baton = some x.c.k →
      exec (.bswap h f) s = .next (x.after (enterCommand x.c 0x143 [] .bswap x.s)))
    ∧ (∀ h f s x, issued (.bload h f) s = some x → x.c.lanes ≠ [] →
      (x.s.core (x.s.engineCore x.c.w)).eng.baton = some x.c.k →
      let comb := f.m.sub3.getLsbD 0
      let fmt := f.m.ty.toNat
      let src := x.c.src 0 true f.sa (!comb) 0
      let stride := x.c.src 1 true f.sb false 0
      let scales := if 16 ≤ fmt then x.c.src 2 true f.sc (!comb) 0 else 0
      let locks := bloadLocks (if comb then 1 else 0) src stride fmt scales
      (src % 32 = 0 → scales % 32 = 0 → stride % 32 = 0 → 8 * codeWidth fmt ≤ stride →
        commandCheck x.s x.c false (if comb then 1 else 0) 1
          (locks.map (fun r => { lane := x.c.lanes.headD 0, va := r.lo, size := r.hi - r.lo })) = none →
        exec (.bload h f) s = .next (x.after (enterCommand x.c 0x142 locks (.bload comb src stride scales f.m.ty) x.s)))
      ∧ (src % 32 = 0 → scales % 32 = 0 → (stride % 32 ≠ 0 ∨ stride < 8 * codeWidth fmt) →
        exec (.bload h f) s = .next (x.after (.trap x.s { code := 0x32, mask := laneMask x.c.lanes, det1 := 4 }))))
    ∧ (∀ (c : Ctx) (opcode : Nat) (locks : List Range) (k : CmdKind) (s s1 : State),
      let core := s.engineCore c.w
      engineFull (s.core core).eng = false → core < s.cores.length →
      addLocks s core c.w.ctx c.w.grid c.w.team s.nextId opcode locks = some s1 →
      ∃ (t : State) (y : Cmd), enterCommand c opcode locks k s = .done t ∧ y.kind = k ∧ y.w = c.k ∧ y.gid = c.w.grid ∧ y.team = c.w.team
        ∧ y.pc = c.pc ∧ y.started = false ∧ (t.core core).eng.cmds = (s.core core).eng.cmds ++ [y]
        ∧ (t.core core).locks = (s1.core core).locks ∧ t.mem = s.mem))
  ∧ (
    (∀ (s : State) (core : Nat) (c : Cmd) (comb : Bool) (src stride scales : Nat) (fmt : BitVec 5) (long : Option LongMma)
        (l : List (List Target)) (s1 : State),
      s.engHead core = some c → engineSettled s c.w c.seq = true →
      (match long with
        | none => c.kind = .bload comb src stride scales fmt
        | some g => (∃ ty t z cb n rows sc, c.kind = .mma ty t z cb n rows sc (some g)) ∧ g.stage = 0 ∧ comb = g.sp ∧ fmt = g.bfmt
            ∧ src = g.bsrc + g.block * g.bblk ∧ stride = g.bstr ∧ scales = g.bscl) →
      let f := fmt.toNat
      engReach s core c .load (if comb then 1 else 0)
        ((List.range (depthOf f)).map (fun i => (0, src + i * stride, brow f)) ++ if 16 ≤ f then [(0, scales, 256)] else []) = .ok l s1 →
      core < s1.cores.length →
      ∃ t : State, exec (.bloadRun core) s = .next t ∧ t.mem = s1.mem
        ∧ (let b := (t.core core).eng.b1
           b.valid = true ∧ b.owner = some (c.gid, c.team) ∧ b.fmt = fmt
           ∧ (∀ k j, k < depthOf f → j < brow f → SMap.get 0 b.data (k * brow f + j) = ((l.getD k []).map s1.byteAt).getD j 0)
           ∧ (∀ i, i < 64 → SMap.get 0x3F800000#32 b.scales i =
                if f < 16 then 0x3F800000#32
                else BitVec.ofNat 32 (bytesToNat ((((l.getD (depthOf f) []).map s1.byteAt).drop (4 * i)).take 4))))
        ∧ (t.core core).eng.b0 = (s1.core core).eng.b0 ∧ (t.core core).eng.tiles = (s1.core core).eng.tiles
        ∧ PoisonLoc.engineBuffer core 1 ∉ t.poison ∧ (long = none → s1.retired core c t))
    ∧ (∀ (s : State) (core : Nat) (c : Cmd), s.engHead core = some c → core < s.cores.length →
      (c.kind = .bswap ∨ ∃ ty t z cb n rows sc g, c.kind = .mma ty t z cb n rows sc (some g) ∧ g.stage = 1) →
      ∃ t : State, exec (.bswapRun core) s = .next t ∧ t.mem = s.mem ∧ (t.core core).eng.b0 = (s.core core).eng.b1
        ∧ (t.core core).eng.b1 = (s.core core).eng.b0 ∧ (t.core core).eng.tiles = (s.core core).eng.tiles
        ∧ (PoisonLoc.engineBuffer core 0 ∈ t.poison ↔ PoisonLoc.engineBuffer core 1 ∈ s.poison)
        ∧ (PoisonLoc.engineBuffer core 1 ∈ t.poison ↔ PoisonLoc.engineBuffer core 0 ∈ s.poison)
        ∧ (c.kind = .bswap → s.retired core c t))
    ∧ (∀ (s : State) (core : Nat) (k : WaveKey) (w : Wave), (s.core core).eng.baton = some k → s.wave? k = some w →
        (∀ y ∈ (s.core core).eng.queue, y.1 ≠ k) → (∀ j, (s.core core).eng.queue.head? = some j → (s.wave? j.1).isSome) → core < s.cores.length →
      (s.core core).eng.grantedAt + 1000 * (s.core core).eng.budget < s.gtb →
      ∃ t v, exec (.batonBudgetExpire core) s = .next t ∧ t.wave? k = some v
          ∧ (t.core core).eng.baton = (s.core core).eng.queue.head?.map (·.1)
        ∧ ∃ r, v.async = w.async ++ [r] ∧ r.record.code = Trap.baton ∧ r.record.det1 = 2))

/-- R301-R317: the accumulator instructions of a wave that holds the baton, with nothing of its team left to do on their tile. The
engine's commands enter the list with what they captured; a tile stands with its partner where the two are an F64 pair; ACCRD and ACCCVT read the tile; ACCWAIT waits for the commands
before it, on the tiles that the interlock of ACCCVT looks at; MMACFG changes the wave's engine bits and the next baton budget. -/
def Obligations.Accumulators : Prop :=
  (∀ h f s x, issued (.mma h f) s = some x → x.c.lanes ≠ [] → f.m.sub3.getLsbD 2 = false →
    (x.s.core (x.s.engineCore x.c.w)).eng.baton = some x.c.k →
    let comb := f.m.sub3.getLsbD 1
    let ty := f.m.ty.toNat
    let len := rowLength x.s x.c ty none
    let rows := x.c.lanes.map (fun l => (l, x.c.src 0 false f.sa (!comb) l))
    let scales := if 16 ≤ ty then x.c.lanes.map (fun l => (l, BitVec.ofNat 32 (x.c.src 1 f.m.sb f.sb false l))) else []
    commandCheck x.s x.c false (if comb then 1 else 0) 32 (rows.map (fun p => { lane := p.1, va := p.2, size := len })) = none →
    ∃ lo hi, (∀ p ∈ rows, lo ≤ p.2 ∧ p.2 + len ≤ hi) ∧ (∃ p ∈ rows, lo = p.2) ∧ (∃ p ∈ rows, hi = p.2 + len)
      ∧ exec (.mma h f) s = .next (x.after (enterCommand x.c 0x144
          [{ space := if comb then 1 else 0, lo := lo, hi := hi, write := false }]
          (.mma f.m.ty f.m.tile.toNat (f.m.sub3.getLsbD 0) comb f.m.aux.toNat rows scales none) x.s)))
  ∧ (∀ h f s x t s1 v l, issued (.mma h f) s = some x → x.c.lanes ≠ [] → f.m.sub3.getLsbD 2 = true →
    (x.s.core (x.s.engineCore x.c.w)).eng.baton = some x.c.k →
    oneAccess x.c .load 0 32 (x.c.src 2 true f.sc true 0) 32 x.s = .at_ t s1 → readOne x.c t 32 s1 = .ok v →
    (∀ n, longOf v = .error n →
      exec (.mma h f) s = .next (x.after (.trap s1 { code := 0x32, mask := laneMask x.c.lanes, det1 := n })))
    ∧ (longOf v = .ok l → exec (.mma h f) s = .next (x.after (mmaPass f (some l) x.c s1))))
  ∧ (∀ h f s x, issued (.accz h f) s = some x → x.c.lanes ≠ [] → (x.s.core (x.s.engineCore x.c.w)).eng.baton = some x.c.k →
    tileBusy x.s x.c.w.grid x.c.w.team (interlockTiles x.s x.c f.m.tile.toNat (f.m.ty == 0)) x.s.nextId true = false →
    exec (.accz h f) s = .next (x.after (enterCommand x.c 0x145 []
      (.accz f.m.tile.toNat (if f.m.ty = 1 then 0 else if f.m.ty = 8 then 1 else 2)) x.s)))
  ∧ (∀ (e : Hdr → FmtX → Instr) (wide : Bool), (e, wide) ∈ [(.accrd, true), (.accwr, true), (.acccvt, false)] →
    ∀ h f s x p tag, issued (e h f) s = some x → x.c.lanes ≠ [] →
    (x.s.core (x.s.engineCore x.c.w)).eng.baton = some x.c.k →
    tileBusy x.s x.c.w.grid x.c.w.team
      (interlockTiles x.s x.c f.m.tile.toNat (wide && f.m.ty == 0)) x.s.nextId true = false →
    let row0 := tileScalar x.c f.m.sa f.sa 7
    let c0 := tileScalar x.c f.m.sb f.sb 6
    let m := 2 ^ f.m.aux.toNat
    let elem := fun l i => (x.s.core (x.s.engineCore x.c.w)).eng.elem (tag == 2#2) p ((row0 + l) * 64 + c0 + i)
    (e = .accrd → windowCheck x.s x.c f.m.tile.toNat row0 c0 m (tagOf f.m.ty) = .ok (p, tag) →
      tilePoison x.s x.c p (tag == 2) = none →
      exec (e h f) s = .next (x.after (.done (commitAlu x.s x.c (sigAccrd h f s x.c)
        { writes := x.c.lanes.flatMap (fun l => (List.range m).flatMap (fun i =>
          dstWr false (h.dst + BitVec.ofNat 8 ((if tag = 2 then 2 else 1) * i)) (tag == 2) l (elem l i))) }))))
    ∧ (e = .acccvt → windowCheck x.s x.c f.m.tile.toNat row0 c0 m none = .ok (p, tag) →
      tilePoison x.s x.c p (tag == 2) = none →
      ∃ am : List ((Nat × Word) × FlagBits),
        let r := fun l => packAcc f.m.ty.toNat x.c.w.rm tag (if 16 ≤ f.m.ty.toNat then x.c.w.rdS f.sc.reg.toNat else 0)
          ((List.range m).map (elem l))
        exec (e h f) s = .next (x.after (.done (commitAlu x.s x.c (sigAcccvt h f s x.c)
          { writes := x.c.lanes.flatMap (fun l => (List.range (cvtRegs f)).map (fun i =>
              ⟨.vec, h.dst.toNat + i, l, BitVec.ofNat 32 ((r l).1 / 2 ^ (32 * i))⟩)),
            flags := orAll (x.c.lanes.map (fun l => (r l).2)) ||| orAll (am.map (·.2)), amax := am.map (·.1) }))))
    ∧ (e = .accwr → windowCheck x.s x.c f.m.tile.toNat row0 c0 m (tagOf f.m.ty) = .ok (p, tag) →
      let word := fun l i => (x.c.regAt 2 false f.sc i l).toNat
      exec (e h f) s = .next (x.after (enterCommand x.c 0x147 [] (.accwr f.m.tile.toNat (tag == 2)
        (x.c.lanes.flatMap (fun l => (List.range m).map (fun i => ((row0 + l) * 64 + c0 + i,
          if tag = 2 then word l (2 * i) + word l (2 * i + 1) * 2 ^ 32 else word l i))))) x.s))))
  ∧ (∀ h f s x r, issued (.accst h f) s = some x → x.c.lanes ≠ [] → (x.s.core (x.s.engineCore x.c.w)).eng.baton = some x.c.k →
    tileBusy x.s x.c.w.grid x.c.w.team (interlockTiles x.s x.c f.m.tile.toNat false) x.s.nextId true = false →
    let comb := f.m.sub3.getLsbD 0
    let row0 := tileScalar x.c f.m.sb f.sb 7
    let rows := x.c.lanes.map (fun l => (l, x.c.src 0 false f.sa (!comb) l))
    windowCheck x.s x.c f.m.tile.toNat row0 0 64 none = .ok r →
    commandCheck x.s x.c true (if comb then 1 else 0) 32
      (rows.map (fun p => { lane := p.1, va := p.2, size := 8 * codeWidth f.m.ty.toNat })) = none →
    exec (.accst h f) s = .next (x.after (enterCommand x.c 0x149 [] (.accst f.m.ty f.m.tile.toNat comb row0 rows x.c.w.rm
      (if 16 ≤ f.m.ty.toNat then x.c.w.rdS f.sc.reg.toNat else 0)) x.s)))
  ∧ (∀ h f s x, issued (.accwait h f) s = some x → x.c.lanes ≠ [] → (x.s.core (x.s.engineCore x.c.w)).eng.baton = some x.c.k →
    let tiles : BitVec 16 := if f.m.sub3.getLsbD 0 then 0xFFFF else interlockTiles x.s x.c f.m.tile.toNat false
    exec (.accwait h f) s = .next (x.after
      (if tileBusy x.s x.c.w.grid x.c.w.team tiles x.s.nextId false then .block x.s (.acc tiles x.s.nextId)
       else .done x.s)))
  ∧ (∀ (s : State) (c : Ctx) (tile : Nat) (wide : Bool),
    let pair := wide = true ∨ ∃ p, tileOf s c.w.grid c.w.team tile = some p ∧ ((s.core (s.engineCore c.w)).eng.tile p).tag = 2
    (pair → interlockTiles s c tile wide = (3#16) <<< (tile / 2 * 2)) ∧ (¬ pair → interlockTiles s c tile wide = (1#16) <<< tile))
  ∧ (∀ h f s x, issued (.mmacfg h f) s = some x → x.c.lanes ≠ [] →
    let budget := f.imm.toNat / 2 ^ 16
    ∃ g : Word → Word,
      (let t := x.s.updWave x.c.k (fun w => { w with wcw := g w.wcw })
       exec (.mmacfg h f) s = .next (x.after (.done (if budget = 0 then t else
         t.updEng (x.s.engineCore x.c.w) (fun e => { e with nextBudget := budget })))))
      ∧ ∀ v i, (g v).getLsbD i =
          if i = 4 ∧ f.imm.getLsbD 1 then f.imm.getLsbD 0
          else if i = 7 ∧ f.imm.getLsbD 5 then f.imm.getLsbD 2
          else if i = 5 ∧ f.imm.getLsbD 5 then f.imm.getLsbD 3
          else if i = 6 ∧ f.imm.getLsbD 5 then f.imm.getLsbD 4
          else v.getLsbD i)

/-! ## Events of waves and of memory -/

/-- R205, R210, R215-R218, R227, R232, R379: a load performs, a store is checked, and a store's data sit dirty and then leave.
No byte of memory changes before the element applies at its home.

R207, R212-R214, R218, R232, R242, R243, R247, R403: at the home. A store that arrives takes the T of its line, the largest of the time, of
every lease on the line and of the T before it; it applies at T in arrival order; an atomic operation's elements at one location apply together in lane
order. The GWCT returns into WCT of the scope. -/
def Obligations.AccessEvents : Prop :=
  (
    (∀ (s : State) (id el : Nat) (o : LOp) (e : LElem), s.loads.find? (fun o => o.id == id) = some o → o.elems[el]? = some e →
      loadMay s o e = true → s.unreached e.target = false → answerMay s o e = true → l1Find s o.w.core e.target = none →
      s.poisonedAt e.target = false →
      let x := bytesToNat (ownView s o.w o.seq e.va e.target ((answeredSector s e).bytesAt e.target e.size))
      let elems := o.elems.modify el (fun e => { e with done := true, value := x })
      ∃ t : State, exec (.loadReturn id el) s = .next t ∧ t.mem = s.mem ∧ t.hostMem = s.hostMem ∧ t.mops = s.mops
        ∧ t.peerMem = (answeredSector s e).peerMem
        ∧ (elems.all (·.done) = false → t.loads.find? (fun o => o.id == id) = some { o with elems := elems } ∧ t.waves = s.waves)
        ∧ (elems.all (·.done) = true → o.port = none → t.loads = s.loads.filter (fun p => p.id != id)
            ∧ ∀ w, s.wave? o.w = some w → ∃ v p, t.wave? o.w = some v ∧ v.sameRegs w ∧ v.pend = w.pend ++ [p] ∧ p.keys = o.keys
              ∧ p.writes = elems.flatMap (fun e => elemWrites (if o.scalar then .sca else .vec) o.ty e.size e.dst e.lane e.value)))
    ∧ (∀ (s : State) (id el : Nat) (o : MOp) (e : MElem) (n : Nat) (tt : Target), s.mop? id = some o → o.elems[el]? = some e →
      e.phase = .dirty n → e.target = some tt →
      ∃ (t : State) (o' : MOp), exec (.dirtySectorTransmit id el) s = .next t ∧ t = { s with mops := t.mops } ∧ t.mop? id = some o'
        ∧ o'.elems[el]? = some { e with phase := .sent }
        ∧ ∀ p ∈ t.mops, p.w = o.w → ∀ x ∈ p.elems, ∀ m u, x.phase = .dirty m → x.target = some u →
            ¬ (u.line = tt.line ∧ u.offset % 128 / 32 = tt.offset % 128 / 32))
    ∧ (∀ (s : State) (id : Nat) (o : MOp) (w : Wave), s.mop? id = some o → s.anyWave? o.w = some w → o.elems ≠ [] →
      firstUnchecked s o = true → fencetAhead s o = false → o.w.core < 256 →
      (s.core o.w.core).sfTail < (s.core o.w.core).sfHead + 32 →
      let who : Who := { whoOf s w with waiter := some (o.w, 1000 + o.id) }
      let r := placeAll s who .store o.space (o.elems.map (fun e => { lane := e.lane, va := e.va, size := e.size }))
      let s1 := hostSettle r.2 who .store o.space r.1
      (∀ p ∈ r.1, p.2 ≠ .wait) →
      ((∀ p ∈ r.1, ∃ tt n, p.2 = .ok tt n ∧ secureOf s1 o.w.core tt = none) →
        ∃ (t : State) (o' : MOp), exec (.storeCheck id) s = .next t ∧ t.mem = s1.mem ∧ t.mop? id = some o' ∧ o'.checked = true
          ∧ o'.elems.map (fun e => (e.va, e.size, e.data)) = o.elems.map (fun e => (e.va, e.size, e.data))
          ∧ (∀ e ∈ o'.elems, ∃ tt, e.target = some tt ∧ (e.phase = .sent ∨ e.phase = .dirty (dirtySince s1 o tt))))
      ∧ (∀ p c, r.1.find? (fun p => match p.2 with | .fault _ => true | _ => false) = some (p, .fault c) → o.w.core < s1.cores.length →
        ((s1.team? o.gid o.team).map (·.terminated)).getD false = true →
        ∃ t : State, exec (.storeCheck id) s = .next t ∧ t.mem = s1.mem ∧ (t.core o.w.core).retry = (s1.core o.w.core).retry
          ∧ (t.core o.w.core).sfTail = (s1.core o.w.core).sfTail)
      ∧ (∀ p c, r.1.find? (fun p => match p.2 with | .fault _ => true | _ => false) = some (p, .fault c) → o.w.core < s1.cores.length →
        (∀ p ∈ r.1, ∀ tt n, p.2 = .ok tt n → secureOf s1 o.w.core tt = none) → (∃ x ∈ w.quads, x.ended = false) →
        ((s1.team? o.gid o.team).map (·.terminated)).getD false = false →
        ∃ (t : State) (m : Mask) (a : Nat), exec (.storeCheck id) s = .next t ∧ t.mem = s1.mem
          ∧ (t.core o.w.core).sfTail = (s1.core o.w.core).sfTail + 1
          ∧ (t.core o.w.core).sfRec = SMap.set 0 (s1.core o.w.core).sfRec ((s1.core o.w.core).sfTail % 32) (faultRecord o m a c)
          ∧ ∃ f, (t.core o.w.core).retry = (s1.core o.w.core).retry ++ [f] ∧ f.valid = true ∧ f.w = o.w)))
  ∧ (
    ∀ (s : State) (id el : Nat) (o : MOp) (e : MElem) (tt : Target), s.mop? id = some o → o.elems[el]? = some e → e.target = some tt →
      (e.phase = .sent → arriveMay s o el e tt = true → s.unreached tt = false →
        (∀ i ∈ arriveGroup o el e, ∀ x, o.elems[i]? = some x → flitMay s o x tt = true) →
        let shared := if 512 ≤ o.w.core then sharedAny s tt else
          (sharedRegion s (s.partOf o.w.core) tt).map (fun n => (s.partOf o.w.core, n))
        (shared = none → arriveGroup o el e = [el] →
          ∃ t o' e', exec (.storeArrive id el) s = .next t ∧ t = { s with mops := t.mops, nextId := t.nextId } ∧ t.mop? id = some o'
            ∧ o'.elems[el]? = some e' ∧ e'.phase = .arrived (max s.gtb (max (s.leaseT tt) (lineT s tt))) s.nextId
            ∧ (e'.removal = .waiting ↔ needsRemoval s (s.partOf o.w.core) (actScope o.space o.scope) tt = true))
        ∧ (∀ p n, shared = some (p, n) → exec (.storeArrive id el) s = .next (autoContest s p n)))
      ∧ (o.kind = .store → applyMay s e tt = true →
        ∃ (t : State) (o' : MOp) (e' : MElem) (x n : Nat), exec (.storeApply id el) s = .next t ∧ e.phase = .arrived x n
          ∧ t.mem = (s.writeAt tt e.size e.data).mem ∧ t.cores = (s.writeAt tt e.size e.data).cores
          ∧ t.hostMem = (s.writeAt tt e.size e.data).hostMem ∧ t.mop? id = some o' ∧ o'.elems[el]? = some e'
          ∧ e'.phase = .applied (gwctOf o tt x) ∧ t.eDev = s.eDev ∧ t.loads = s.loads)
      ∧ (∀ pa, tt = .dev pa → (∃ op ty r, o.kind = .atomic op ty r) ∨ o.kind = .cas → applyMay s e tt = true →
        (∀ x ∈ o.elems, x.target = some tt → x.size = e.size ∧ (∃ y n, x.phase = .arrived y n ∧ y ≤ s.gtb) ∧ x.removal ≠ .waiting ∧ x.reply = none) →
        (∀ i x, i < el → o.elems[i]? = some x → x.target ≠ some tt) → s.poisonedAt tt = false → 0 < e.size → s.mem.wf = true →
        ∃ t : State, exec (.atomicApply id el) s = .next t
          ∧ t.readAt tt e.size = (o.elems.filter (fun x => x.target == some tt)).foldl
              (fun v x => atomicResult o.kind v x.data x.cmp % 256 ^ e.size) (s.readAt tt e.size)
          ∧ (∀ a, a < pa ∨ pa + e.size ≤ a → t.mem.get a = s.mem.get a)
          ∧ ∃ o' e', t.mop? id = some o' ∧ o'.elems[el]? = some e' ∧ e'.old = s.readAt tt e.size ∧ ∃ n, e'.phase = .applied n)
      ∧ (∀ n, e.phase = .applied n → (∀ p a, tt ≠ .host p a) → (∀ w, s.wave? o.w = some w → SMap.wf 0#64 w.wct = true) →
        let sc := actScope o.space o.scope
        ∃ t : State, exec (.gwctReturn id el) s = .next t
          ∧ t = { s with mops := t.mops, waves := t.waves, teams := t.teams, fabric := { s.fabric with posts := t.fabric.posts } }
          ∧ (e.flit = none → t.fabric = s.fabric)
          ∧ (∀ w, s.wave? o.w = some w → ∃ v, t.wave? o.w = some v ∧ v.sameRegs w ∧ v.quads = w.quads
              ∧ SMap.get 0#64 v.wct sc = BitVec.ofNat 64 (max (SMap.get 0#64 w.wct sc).toNat n)
              ∧ ∀ i, i ≠ sc → SMap.get 0#64 v.wct i = SMap.get 0#64 w.wct i)
          ∧ ((∃ i x, i ≠ el ∧ o.elems[i]? = some x ∧ x.phase.outstanding = true) →
              ∃ o', t.mop? id = some o' ∧ o'.elems[el]? = some { e with phase := .returned }))
      ∧ (∀ x n, e.removal = .waiting → e.phase = .arrived x n →
          ∃ t o', exec (.removalAcknowledgement id el) s = .next t ∧ t = { s with mops := t.mops } ∧ t.mop? id = some o'
            ∧ o'.elems[el]? = some { e with removal := .acknowledged s.gtb, phase := .arrived (max x s.gtb) n }
            ∧ ∀ p ∈ t.mops, ∀ y ∈ p.elems, ∀ u z m, y.target = some u → y.phase = .arrived z m → u.line = tt.line → n ≤ m → s.gtb ≤ z))

/-! ## Events of the engine -/

/-- R88, R284, R303, R304, R306, R307, R312, R313, R315: what the engine's commands do to the tiles. An MMA checks its buffer and its tile and
then commits whole granules, every element being updated group by group; of a word of A that two granules share it reads each byte once (R300). ACCZ sets a tile to 0, ACCWR writes elements, ACCST sends rows out as
stores of the wave. -/
def Obligations.TileEvents : Prop :=
  ∀ (s : State) (core : Nat) (c : Cmd) (p : Nat), s.engHead core = some c → core < s.cores.length → p + 1 < 16 →
    (s.core core).eng.tilesOk →
    let e := (s.core core).eng
    (∀ ty tile z comb split rows scales long, c.kind = .mma ty tile z comb split rows scales long → c.started = false →
      engineSettled s c.w c.seq = true → (∀ g, long = some g → g.stage = 2) → tileOf s c.gid c.team tile = some p →
      let zero := z && (match long with | some g => g.block == 0 | none => true)
      let stops := fun n : Nat => ∃ t : State, exec (.mmaRun core) s = .next t ∧ s.retired core c t ∧ (t.core core).eng.tiles = e.tiles
        ∧ s.engineTells c (({ code := Trap.matrixFormat, mask := laneMask (rows.map (·.1)), det1 := n } : TrapInfo).at_ c.pc) t
      ((e.b0.valid = false ∨ e.b0.owner ≠ some (c.gid, c.team)) → stops 2)
      ∧ (e.b0.valid = true → e.b0.owner = some (c.gid, c.team) →
        (pairing ty.toNat e.b0.fmt.toNat = none → stops 1)
        ∧ (∀ acc, pairing ty.toNat e.b0.fmt.toNat = some acc →
          (zero = false → (e.tile p).tag ≠ BitVec.ofNat 2 acc → stops 3)
          ∧ ((zero = true ∨ (e.tile p).tag = BitVec.ofNat 2 acc) →
            ∃ t : State, exec (.mmaRun core) s = .next t ∧ t.mem = s.mem ∧ (t.core core).eng.cmds.head? = some { c with started := true }
              ∧ ((t.core core).eng.tile p).tag = BitVec.ofNat 2 acc
              ∧ ∀ row col, row < 96 → col < 64 → (t.core core).eng.elem (acc == 2) p (row * 64 + col) =
                  if zero = true ∧ row ∈ rows.map (·.1) then 0 else e.elem (acc == 2) p (row * 64 + col)))))
    ∧ (∀ ty tile z comb split rows scales long places s1, c.kind = .mma ty tile z comb split rows scales long → c.started = true →
      tileOf s c.gid c.team tile = some p → (rows.map (·.1)).Nodup →
      let a := ty.toNat
      let fb := e.b0.fmt.toNat
      let g := groupSize a fb
      let groups := granuleGroups (depthOf fb / g) split c.granule
      let lo := groups.headD 0 * g / 4 * 4
      let hi := (groups.headD 0 * g + groups.length * g + 3) / 4 * 4
      let adv := (long.map (fun l => l.block * arow a fb)).getD 0
      let sp := if comb then 1 else 0
      let runs := rows.map (fun r => (r.1, r.2 + adv + lo * codeWidth a / 8, (hi - lo) * codeWidth a / 8))
      engReach s core c .load sp runs = .ok places s1 →
      let l := (runs.zip places).map (fun x => (spaceRun sp x.1.2.1 x.1.2.2).zip x.2)
      s1.poison.contains (.engineBuffer core 0) = false → s1.poison.contains (.engineTile core p) = false →
      ((e.tile p).tag = 2 → s1.poison.contains (.engineTile core (p + 1)) = false) → core < s1.cores.length → (s1.core core).eng = e →
      let tag := (e.tile p).tag
      let wide := tag == 2
      let new := fun i row col => groups.foldl (fun acc j => accUpdate tag acc
          ((List.range g).map (fun t => ((decodeArray a ((l.getD i []).map (c.aByte s1))).getD (j * g + t - lo) Val.posZero, e.b0.elem (j * g + t) col)))
          (((scales.find? (fun x => x.1 == row)).map (fun x => decodeFloat 1 x.2.toNat)).toList
            ++ if 16 ≤ fb then [decodeFloat 1 (SMap.get 0x3F800000#32 e.b0.scales col).toNat] else []))
        (e.elem wide p (row * 64 + col))
      c.ntm = false →
      ∃ t : State, exec (.mmaGranuleCommit core) s = .next t ∧ t.mem = s1.mem
        ∧ (∀ i row, (rows.map (·.1))[i]? = some row → ∀ col, col < 64 →
            (t.core core).eng.elem wide p (row * 64 + col) = new i row col % 2 ^ (if wide then 64 else 32))
        ∧ (∀ row col, row ∉ rows.map (·.1) → col < 64 → (t.core core).eng.elem wide p (row * 64 + col) = e.elem wide p (row * 64 + col))
        ∧ (if (c.granule + 1) * 2 ^ split < depthOf fb / g then
            ∃ c', (t.core core).eng.cmds.head? = some c' ∧ c' = { c with granule := c.granule + 1, seen := c'.seen }
              ∧ let words := l.flatMap (fun r =>
                  (r.drop (((groups.headD 0 * g + groups.length * g - lo) * codeWidth a + 7) / 8 - 1)).flatMap wordOf)
                (∀ v ∈ words, ∀ w ∈ words, v.1 = w.1 → v.2 = w.2) → ∀ w ∈ words, ∀ u : State, c'.aByte u w = c.aByte s1 w
           else match long with
            | some g =>
              if g.block + 1 < g.nb then
                ∃ c', (t.core core).eng.cmds.head? = some c' ∧ c'.kind = .mma ty tile z comb split rows scales
                  (some { g with block := g.block + 1, stage := 0 }) ∧ c'.started = false ∧ c'.granule = 0
              else s1.retired core c t
            | none => s1.retired core c t))
    ∧ (∀ tile tag, c.kind = .accz tile tag → tileOf s c.gid c.team tile = some p →
      ∃ t : State, exec (.acczRun core) s = .next t ∧ t.mem = s.mem ∧ s.retired core c t ∧ ((t.core core).eng.tile p).tag = tag
        ∧ (∀ i, (t.core core).eng.elem (tag == 2) p i = 0) ∧ PoisonLoc.engineTile core p ∉ t.poison
        ∧ ∀ q, q ≠ p → (tag = 2 → q ≠ p + 1) → (t.core core).eng.tile q = e.tile q)
    ∧ (∀ tile wide cells, c.kind = .accwr tile wide cells → tileOf s c.gid c.team tile = some p → (cells.map (·.1)).Nodup →
      ∃ t : State, exec (.accwrRun core) s = .next t ∧ t.mem = s.mem ∧ s.retired core c t
        ∧ (∀ i, (t.core core).eng.elem wide p i =
            match cells.find? (fun x => x.1 == i) with
            | some x => x.2 % 2 ^ (if wide then 64 else 32)
            | none => e.elem wide p i))
    ∧ (∀ ty tile comb row0 rows rm scale l s1, c.kind = .accst ty tile comb row0 rows rm scale → tileOf s c.gid c.team tile = some p →
      engineSettled s c.w c.seq = true →
      engReach s core c .store (if comb then 1 else 0) (rows.map (fun r => (r.1, r.2, 8 * codeWidth ty.toNat))) = .ok l s1 →
      s1.poison.contains (.engineTile core p) = false →
      ((e.tile p).tag = 2 → s1.poison.contains (.engineTile core (p + 1)) = false) → core < s1.cores.length → (s1.core core).eng = e →
      let packed := rows.map (fun r => packAcc ty.toNat rm (e.tile p).tag scale
        ((List.range 64).map (fun i => e.elem ((e.tile p).tag == 2) p ((row0 + r.1) * 64 + i))))
      ∃ (t : State) (o : MOp), exec (.accstRun core) s = .next t ∧ t.mem = s1.mem ∧ t.mops = s1.mops ++ [o] ∧ s1.retired core c t
        ∧ o.w = c.w ∧ o.kind = .store ∧ o.checked = true ∧ (∀ x ∈ o.elems, x.phase = .sent ∧ x.size = 32)
        ∧ o.elems.map (fun x => (x.lane, x.va, x.data)) = (rows.zip packed).flatMap (fun x =>
            (List.range (8 * codeWidth ty.toNat / 32)).map (fun i => (x.1.1, x.1.2 + 32 * i, x.2.1 / 2 ^ (256 * i) % 2 ^ 256)))
        ∧ ∀ w, s1.wave? c.w = some w → ∃ v, t.wave? c.w = some v ∧ v.fstat = w.fstat ||| orAll (packed.map (·.2)))

/-! ## Events of the copy engine and of the table unit -/

/-- R222, R223, R264-R269: a channel's own steps. It reads a record only while it runs, judges it, and lets a good one join; a bad one stops it with
its code; a record without OWN ends the chain.

R222, R261, R262, R266, R267: data move by whole pieces, and a transfer that is done leaves with its locks. A sector's bytes, or the results of a
reduction's elements, are in place after the event; the completion clears OWN, counts the record and closes the batch. -/
def Obligations.CopyEvents : Prop :=
  (
    ∀ (s : State) (core n : Nat), core < s.cores.length → n < (s.core core).chans.length →
      let c := s.chan core n
      (∀ x rest, c.walking = none → c.heads = x :: rest → c.running = true → (∀ y ∈ c.xfers, y.reread = false) →
        ∃ t, exec (.chainRecordRead core n) s = .next t ∧ (t.chan core n).walking = some x ∧ (t.chan core n).heads = rest
          ∧ (t.chan core n).xfers = c.xfers ∧ t.mem = s.mem)
      ∧ (∀ h, c.walking = some h → c.running = false → exec (.chainRecordRead core n) s = .next s)
      ∧ (∀ h l s1, c.walking = some h → c.running = true → s.ctxHeld core h.ctx = false → s.stops h.gid h.team = false →
        (∀ y ∈ c.xfers, y.reread = false) → engineSettled s h.w h.seq = true → (s.core core).locks.length ≤ 62 → h.addr % 64 = 0 →
        reach s (whoFor s core h.ctx h.gid h.team) .load 0 ((List.range 64).map (h.addr + ·)) = (.ok l, s1) →
        let d := recordOf (bytesToNat (l.map s1.byteAt))
        let stops := fun code : Nat => ∃ t : State, exec (.chainRecordRead core n) s = .next t ∧ (t.chan core n).err = true
          ∧ (t.chan core n).code = BitVec.ofNat 3 code ∧ (t.chan core n).errTeam = some (h.gid, h.team) ∧ (t.chan core n).walking = none
          ∧ (t.chan core n).xfers = c.xfers ∧ (t.chan core n).heads = c.heads
          ∧ ∀ w, s1.wave? h.w = some w → (liveWaves s1 h.gid h.team).find? (fun x => x.key == h.w) = some w →
              ∃ v a, t.wave? h.w = some v ∧ v.async = w.async ++ [a] ∧ a.record.code = Trap.copyFault
                ∧ a.record.det1 = BitVec.ofNat 32 code ∧ a.record.det2 = BitVec.ofNat 11 n ∧ a.record.pc = h.pc
        (d.own = false → ∃ t, exec (.chainRecordRead core n) s = .next t ∧ (t.chan core n).walking = c.heads.head?
          ∧ (t.chan core n).heads = c.heads.tail ∧ (t.chan core n).err = false ∧ (t.chan core n).xfers = c.xfers ∧ t.mem = s1.mem)
        ∧ (d.own = true → d.bad = true → stops 1)
        ∧ (d.own = true → d.bad = false → cbBad s1 h.gid h.team d.cb = true → stops 4)
        ∧ (d.own = true → d.bad = false → cbBad s1 h.gid h.team d.cb = false →
          ∃ (t : State) (x : Xfer), exec (.chainRecordRead core n) s = .next t ∧ (t.chan core n).xfers = c.xfers ++ [x] ∧ x.desc = d
            ∧ x.recAddr = h.addr ∧ x.landed = [] ∧ x.fault = none ∧ x.w = h.w
            ∧ (t.chan core n).walking = (if d.next = 0 then c.heads.head? else some { h with addr := d.next })
            ∧ ((t.core core).locks.filter (fun k => k.owner == x.id)).length
                = ((s.core core).locks.filter (fun k => k.owner == x.id)).length + d.ranges.length
            ∧ t.mem = s1.mem)))
  ∧ (
    ∀ (s : State) (core ch id : Nat) (x : Xfer), s.xfer? core ch id = some x → core < s.cores.length → ch < (s.core core).chans.length →
      (s.chan core ch).running = true → engineSettled s x.w x.seq = true →
      let d := x.desc
      let who := whoFor s core x.ctx x.gid x.team
      (∀ (p : Nat) (src : List Target) (s1 : State) (dst : List Target) (s2 s3 : State), x.landed.contains p = false → x.mayMove s core ch p = true →
        (if d.op = 0 then 32 * p < d.total else d.pieces.contains p = true) →
        reach s who .load d.sspc ((d.bytesOf p).map d.srcAt) = (.ok src, s1) →
        reach s1 who .store d.dspc ((d.bytesOf p).map d.dstAt) = (.ok dst, s2) → writableAll s2 x.ctx dst = true →
        (d.op ≠ 0 → ∀ t ∈ dst, s2.poisonedAt t = false) →
        signalBarrier s2 who d.cb (sectorsLanded d (x.landed ++ [p]) - x.counted) = .done s3 →
        dst.Nodup → s3.mem.wf = true → (∀ t ∈ dst, ∃ pa, t = .dev pa) → s3.cores.length = s.cores.length →
        (s3.chan core ch).xfers = (s.chan core ch).xfers → ch < (s3.core core).chans.length →
        ∃ t : State, exec (if d.op = 0 then .copySectorLand core ch id p else .reductionChunkCommit core ch id p) s = .next t
          ∧ (d.op = 0 → ∀ (i : Nat) (a b : Target), dst[i]? = some a → src[i]? = some b → t.byteAt a = s2.byteAt b)
          ∧ (d.op ≠ 0 → ∀ k, k < (d.bytesOf p).length / d.elem →
              ((dst.drop (k * d.elem)).take d.elem).map t.byteAt =
                natToBytes d.elem (reduceOp d.fmt d.op (bytesToNat (((dst.drop (k * d.elem)).take d.elem).map s2.byteAt))
                  (bytesToNat (((src.drop (k * d.elem)).take d.elem).map s2.byteAt))))
          ∧ (∀ a, Target.dev a ∉ dst → t.mem.get a = s3.mem.get a)
          ∧ ∃ y, t.xfer? core ch id = some y ∧ y.landed = x.landed ++ [p] ∧ y.desc = d ∧ y.fault = x.fault)
      ∧ (∀ (l : List Target) (s1 s2 : State), x.landedAll = true → x.reread = false → s2.mem.wf = true →
        (x.recAddr = 0 ∨ ((s.chan core ch).xfers.find? (fun y => y.recAddr != 0)).map (·.id) = some id) →
        reach s who .store 0 (if x.recAddr = 0 then [] else [x.recAddr + 8]) = (.ok l, s1) → writableAll s1 x.ctx l = true →
        signalBarrier s1 who d.cb (d.total / 32 - x.counted) = .done s2 → s2.cores = s1.cores → (s1.core core).chans = (s.core core).chans → s1.cores.length = s.cores.length →
        ∃ t : State, exec (.copyRecordComplete core ch id) s = .next t
          ∧ (t.chan core ch).xfers = (s.chan core ch).xfers.filter (fun y => y.id != id)
          ∧ (t.chan core ch).done = (s.chan core ch).done + (if x.recAddr = 0 then 0 else 1)
          ∧ (t.core core).locks = (s1.core core).locks.filter (fun k => k.owner != id)
          ∧ (∀ pa, l = [.dev pa] → t.mem.get pa = s2.mem.get pa &&& 0xFE#8 ∧ ∀ a, a ≠ pa → t.mem.get a = s2.mem.get a)
          ∧ (l = [] → t.mem = s2.mem)
          ∧ ∀ w, s2.wave? x.w = some w → ∃ v, t.wave? x.w = some v ∧ v.sameRegs w ∧ ∀ b ∈ v.batches, id ∉ b.2))

/-- R222, R225, R275-R277: a table operation whose rows can be reached moves them all at once. GATHER gives each destination row its table row, or zeros
for an index out of range; SCATTER writes the rows that are in range, and `.add` adds to what is there the sums of the rows of one index.
The model's choices: the rows of an operation move in one event (log 103); `.add` sums the rows of an index before it adds (log 97); the drop counter is at byte 40 of the descriptor (log 13). -/
def Obligations.TableEvents : Prop :=
  ∀ (s : State) (core id : Nat) (o : TableOp) (l : List Byte) (s1 : State),
    (s.core core).tableOps.find? (fun o => o.id == id) = some o → o.fault = none → s.ctxHeld core o.ctx = false →
    engineSettled s o.w o.seq = true → o.tb = 0 → core < s.cores.length →
    let e := if o.wide then 8 else 4
    let who := fun z : State => whoFor z core o.ctx o.gid o.team
    tableRead s core o (cbSpace o.idx) (byteRun (cbAddr o.idx) (e * o.count)) = .ok l s1 →
    let rows := (splitElems e o.count (bytesToNat l)).map (rowIndex o.wide o.rows)
    let kept := rows.zipIdx.filterMap (fun p => p.1.map (fun i => (p.2, i)))
    let drops := (rows.filter (·.isNone)).length
    let gone := fun t : State => ∀ p ∈ (t.core core).tableOps, p.id ≠ id
    (∀ (src : List Byte) (s2 : State) (dst : List Target) (s3 : State), o.scatter = false →
      tableRead s1 core o 0 (kept.flatMap (fun p => byteRun (o.base + p.2 * o.rowBytes) o.rowBytes)) = .ok src s2 →
      let h2 := readHot s2 core o (kept.map (·.2))
      reach h2 (who h2) .store (cbSpace o.rowsAddr)
        ((List.range o.count).flatMap (fun k => byteRun (cbAddr o.rowsAddr + k * o.stride) o.rowBytes)) = (.ok dst, s3) →
      writableAll s3 o.ctx dst = true → dst.Nodup → s3.mem.wf = true → (∀ t ∈ dst, ∃ pa, t = .dev pa) → core < s3.cores.length →
      (∀ i, i < 8 → Target.dev (o.descAt + 40 + i) ∉ dst) → s3.writable (.dev (o.descAt + 40)) 8 = true →
      ∃ t : State, exec (.tableOpComplete core id) s = .next t ∧ gone t
        ∧ ∀ k j, k < o.count → j < o.rowBytes → ∀ a, dst[k * o.rowBytes + j]? = some a →
            t.byteAt a = if (rows.getD k none).isSome then
                src.getD (((rows.take k).filter (·.isSome)).length * o.rowBytes + j) 0 else 0)
    ∧ (∀ (src : List Byte) (s2 : State) (dst : List Target) (s3 : State), o.scatter = true → o.add = false → drops = 0 →
      tableRead s1 core o (cbSpace o.rowsAddr)
        (kept.flatMap (fun p => byteRun (cbAddr o.rowsAddr + p.1 * o.stride) o.rowBytes)) = .ok src s2 →
      reach s2 (who s2) .store 0 (kept.flatMap (fun p => byteRun (o.base + p.2 * o.rowBytes) o.rowBytes)) = (.ok dst, s3) →
      writableAll s3 o.ctx dst = true → dst.Nodup → s3.mem.wf = true → (∀ t ∈ dst, ∃ pa, t = .dev pa) → core < s3.cores.length →
      ∃ t : State, exec (.tableOpComplete core id) s = .next t ∧ gone t
        ∧ (∀ (i : Nat) (a : Target), dst[i]? = some a → t.byteAt a = src.getD i 0)
        ∧ ∀ a, Target.dev a ∉ dst → t.mem.get a = s3.mem.get a)
    ∧ (∀ (src : List Byte) (s2 : State) (dst : List Target) (s3 : State), o.scatter = true → o.add = true → drops = 0 →
      tableRead s1 core o (cbSpace o.rowsAddr)
        (kept.flatMap (fun p => byteRun (cbAddr o.rowsAddr + p.1 * o.stride) o.rowBytes)) = .ok src s2 →
      let w := codeWidth o.fmt / 8
      let n := o.rowBytes / w
      let sums := combineRows o.fmt [] (kept.zipIdx.map (fun (p : (Nat × Nat) × Nat) =>
        (p.1.1, p.1.2, splitElems w n (bytesToNat ((src.drop (p.2 * o.rowBytes)).take o.rowBytes)))))
      reach s2 (who s2) .store 0 (sums.flatMap (fun p => byteRun (o.base + p.2.1 * o.rowBytes) (w * n))) = (.ok dst, s3) →
      (∀ t ∈ dst, s3.poisonedAt t = false) → writableAll s3 o.ctx dst = true → dst.Nodup → s3.mem.wf = true → (∀ t ∈ dst, ∃ pa, t = .dev pa) →
      core < s3.cores.length → 0 < w →
      ∃ t : State, exec (.tableOpComplete core id) s = .next t ∧ gone t
        ∧ (∀ k x, (sums.flatMap (·.2.2))[k]? = some x → (k + 1) * w ≤ dst.length →
            ((dst.drop (k * w)).take w).map t.byteAt =
              natToBytes w (atomicNew o.fmt 1 (bytesToNat (((dst.drop (k * w)).take w).map s3.byteAt)) x))
        ∧ ∀ a, Target.dev a ∉ dst → t.mem.get a = s3.mem.get a)

/-! ## Events of sections and of the I/O unit -/

/-- R253-R260: a section's request arrives at its home in order, its section starts there with the arguments, the lock and the sender in its
registers, is ended by its budget, and its results return: SHIP's into the registers of the lanes, SHIPT's into the result slot, with
the token pushed when its queue has room. -/
def Obligations.SectionEvents : Prop :=
  (∀ (s : State) (id lane : Nat) (o : ShipOp) (r : ShipReq), s.ship? id = some o → o.reqs.find? (fun r => r.lane == lane) = some r →
    (r.rank = s.fabric.rank → r.arrived = false → mayArrive s o r = true → (s.benuri r.home).queue.length < 512 → r.home < s.benuris.length →
      ∃ t : State, exec (.shipRequestArrive id lane) s = .next t ∧ (t.benuri r.home).queue = (s.benuri r.home).queue ++ [(id, lane)]
        ∧ t = { s with ships := t.ships, benuris := t.benuris }
        ∧ ∃ o', t.ship? id = some o' ∧ o'.reqs.find? (fun r => r.lane == lane) = some { r with arrived := true })
    ∧ (r.rank ≠ s.fabric.rank → s.reachable r.rank = true → r.arrived = false → mayArrive s o r = true →
      (s.flitGone o.ctx r.rank r.flit = false → exec (.shipRequestArrive id lane) s = .next s)
      ∧ (s.flitGone o.ctx r.rank r.flit = true →
        ∃ t o', exec (.shipRequestArrive id lane) s = .next t ∧ t = { s with ships := t.ships } ∧ t.ship? id = some o'
          ∧ o'.reqs.find? (fun r => r.lane == lane) = some { r with arrived := true }))
    ∧ (r.rank ≠ s.fabric.rank → r.result = none → s.reachable r.rank = false →
      ∃ t o', exec (.shipRequestArrive id lane) s = .next t ∧ t = { s with ships := t.ships } ∧ t.ship? id = some o'
        ∧ o'.reqs.find? (fun r => r.lane == lane) = some { r with arrived := true, result := some (0x100, []) }))
  ∧ (∀ (s : State) (b : Nat) (rest : List (Nat × Nat)) (id lane : Nat) (o : ShipOp) (r : ShipReq), s.wave? (sectionKey b) = none →
    (s.benuri b).held.length < 512 → (s.benuri b).queue = (id, lane) :: rest → s.ship? id = some o → b < s.benuris.length →
    o.reqs.find? (fun r => r.lane == lane) = some r →
    ∃ t w, exec (.sectionStart b) s = .next t ∧ t = { s with waves := s.waves ++ [w], benuris := t.benuris }
      ∧ (t.benuri b).queue = rest ∧ w.key = sectionKey b ∧ w.width = 1 ∧ w.ctx = o.ctx ∧ w.pcOf 0 = BitVec.ofNat 48 o.entry
      ∧ w.info = some { ship := id, lane := lane, start := s.gtb, outcome := none }
      ∧ (∀ i, i < r.args.length → w.rdV i 0 = r.args.getD i 0)
      ∧ w.rdS 2 = BitVec.ofNat 32 r.lock ∧ w.rdS 3 = BitVec.ofNat 32 (r.lock / 2 ^ 32)
      ∧ (o.sender = none → w.rdS 4 = BitVec.ofNat 32 (o.w.core % 256 + lane * 2 ^ 8 + o.w.place * 2 ^ 15 + o.w.slot % 4 * 2 ^ 20
          + s.fabric.rank % 16 * 2 ^ 22))
      ∧ (∀ n, o.sender = some n → w.rdS 4 = BitVec.ofNat 32 n))
  ∧ (∀ (s : State) (b : Nat) (w : Wave) (i : SectionInfo), s.wave? (sectionKey b) = some w → w.info = some i → i.outcome = none →
    i.start + 50000 ≤ s.gtb →
    ∃ t v, exec (.sectionBudgetExpire b) s = .next t ∧ t.wave? (sectionKey b) = some v ∧ v.info = some { i with outcome := some (0x200, []) }
      ∧ (∀ q ∈ v.quads, q.ended = true) ∧ v.gangs = [] ∧ t.mem = s.mem ∧ t.mops = s.mops)
  ∧ (∀ (s : State) (id : Nat) (o : ShipOp), s.ship? id = some o → o.tokens = none → o.sender.isSome = true →
    (∀ r ∈ o.reqs, r.result.isSome = true) →
    ∃ t : State, exec (.shipResultsReturn id) s = .next t ∧ t = { s with ships := t.ships, fabric := { s.fabric with posts := t.fabric.posts } }
      ∧ (∀ p ∈ t.ships, p.id ≠ id)
      ∧ t.fabric.posts = s.fabric.posts ++ o.reqs.filterMap (fun r => r.flit.bind (fun n => r.result.map (fun x =>
          { ctx := o.ctx, rank := o.w.slot, payload := Config.connEnded n x.1 x.2 }))))
  ∧ (∀ (s : State) (id q : Nat) (o : ShipOp) (w : Wave) (g : Gang), s.ship? id = some o → o.tokens = none → o.port = none → o.sender = none →
    (∀ r ∈ o.reqs, ∃ l, r.result = some (0, l)) → s.wave? o.w = some w → w.finished = false → w.sched ≠ .trapped →
    w.gangs.find? (fun g => g.wait == .ship id) = some g → g.quads.head? = some q → w.gangOf q = some g → ¬ w.splitEnd (w.pcOf q) →
    ∃ t v, exec (.shipResultsReturn id) s = .next t ∧ t.wave? o.w = some v ∧ t.ship? id = none
      ∧ (let w1 := w.wrAll (o.reqs.flatMap (fun r => (List.range o.nres).map (fun i =>
            ⟨.vec, o.dst + i, r.lane, (((r.result.map (·.2)).getD []).getD i 0)⟩)))
         v.wentOn w1 g q)
      ∧ t.mem = s.mem)
  ∧ (∀ (s : State) (id : Nat) (o : ShipOp) (w : Wave) (r : ShipReq) (code : Nat), s.ship? id = some o → o.tokens = none → o.port = none →
    o.sender = none →
    o.reqs = [r] → r.result = some (0x100 + code, []) → s.wave? o.w = some w → w.finished = false → w.sched ≠ .trapped → code < 0x100 →
    w.info = none → (w.trap = none) →
    ∃ t v tr, exec (.shipResultsReturn id) s = .next t ∧ t.wave? o.w = some v ∧ v.vregs = w.vregs ∧ v.sched = .trapped
      ∧ v.trap = some tr ∧ tr.code = Trap.shipAbort ∧ tr.mask = laneMask [r.lane] ∧ tr.det1 = BitVec.ofNat 32 code ∧ tr.pc = o.pc)
  ∧ (∀ (s : State) (b id lane : Nat) (rest : List (Nat × Nat)) (o : ShipOp) (r : ShipReq) (q : QueueRef) (s1 : State) (hd : QHead),
    (s.benuri b).held = (id, lane) :: rest → s.ship? id = some o → o.reqs.find? (fun r => r.lane == lane) = some r →
    b < s.benuris.length → (if r.written then (true, s) else writeSlot s o r) = (true, s1) → s1.ships = s.ships → s1.benuris = s.benuris →
    s1.fabric.rank = s.fabric.rank → (∀ o' ∈ s.ships, ∀ r' ∈ o'.reqs, r'.result.isSome = true → r'.home = b → r'.rank = s.fabric.rank) →
    o.tokens = some q → readQueue s1 q = some hd → 0 < roomOf s1 q hd →
    ∃ t : State, exec (.shiptTokenPush b) s = .next t ∧ t.mem = (pushOne s1 o.w.core q r.token.toNat).mem
      ∧ t.cores = (pushOne s1 o.w.core q r.token.toNat).cores ∧ (t.benuri b).held = rest
      ∧ ∀ o', t.ship? id = some o' → ∀ x ∈ o'.reqs, x.lane ≠ lane)

/-- R281, R282, R414: what the I/O unit does. A read's data, those of one that failed among them, are in the buffer before its record; a message fills the
next posted buffer, cut to its length, and its record tells its full length; a held queue takes none;
records of one queue keep their order; a write sends each byte as it stood when the request took effect or as it stands; a placement
that met an absent page is tried again after 50 µs, and gives up when the page is still absent and its retries are used; a connection in error ends its
requests with status 2.
The model's choices: LEN of a record with an error status (log 95); when IOWR reads its buffer, and a placement that meets an absent page (log 124). -/
def Obligations.IoEvents : Prop :=
  (∀ (s : State) (id : Nat) (r : IoReq) (status : BitVec 3) (data : List Byte), s.io.reqs.find? (fun r => r.id == id) = some r →
    s.ioMay r = true → engineSettled s r.w r.seq = true → status.toNat ≤ 4 →
    (status ≠ 0 → r.kind ≠ 0 → r.kind ≠ 2 →
      ∃ t, exec (.ioRequestComplete id status data) s = .next t ∧ s.ioDone r status.toNat (min data.length r.len) 0 t)
    ∧ (∀ l s1, (r.kind = 0 ∨ r.kind = 2) → (status = 0 → data.length = r.len) →
      reach s (ioWho s r) .store 0 ((List.range (data.take r.len).length).map (fun i => (r.buf + i) % 2 ^ 64)) = (.ok l, s1) →
      writableAll s1 r.ctx l = true → s1.io = s.io → l.Nodup → s1.mem.wf = true → (∀ t ∈ l, ∃ pa, t = .dev pa) →
      ∃ (t u : State), exec (.ioRequestComplete id status data) s = .next t ∧ u.io = s.io
        ∧ u.ioDone r status.toNat (min data.length r.len) 0 t
        ∧ (∀ (i : Nat) (a : Target) (b : Byte), l[i]? = some a → data[i]? = some b → u.byteAt a = b)
        ∧ ∀ a, Target.dev a ∉ l → u.mem.get a = s1.mem.get a)
    ∧ (∀ l s1, status = 0 → r.kind ≠ 0 → r.kind ≠ 2 →
      reach s (ioWho s r) .load 0 ((List.range r.len).map (fun i => (r.buf + i) % 2 ^ 64)) = (.ok l, s1) → s1.io = s.io →
      ∃ (t u : State) (bytes : List Byte), exec (.ioRequestComplete id status data) s = .next t ∧ u.ioDone r 0 r.len 0 t
        ∧ u.mem = s1.mem ∧ u.io = { s.io with sent := s.io.sent ++ [(r.conn, bytes)] } ∧ t.io.sent = u.io.sent
        ∧ (let now := l.map s1.byteAt
           bytes.length = ((r.data.getD now).zip now).length
           ∧ ∀ (i : Nat) (x : Byte × Byte) (b : Byte), ((r.data.getD now).zip now)[i]? = some x → bytes[i]? = some b →
               b = x.1 ∨ b = x.2)))
  ∧ (∀ (s s1 : State) (r : IoReq) (l : List Target), r ∈ s.io.reqs → r.kind ≠ 0 → r.kind ≠ 2 → r.data = none → s.ioMay r = true →
    engineSettled s r.w r.seq = true →
    let s0 := if r.begun then s else s.updIo r.id (fun x => { x with begun := true })
    reach s0 (ioWho s0 r) .load 0 ((List.range r.len).map (fun i => (r.buf + i) % 2 ^ 64)) = (.ok l, s1) → s1.io = s0.io →
    ∀ x ∈ (settleIo s r).io.reqs, x.id = r.id → x.data = some (l.map s1.byteAt) ∧ (r.begun = false → x.begun = true))
  ∧ (∀ (s : State) (part conn : Nat) (data : List Byte) (r : IoReq), s.io.posted.find? (fun r => r.part == part && r.conn == conn) = some r →
    isBroken s part conn = false →
    (s.ioMay r = false → exec (.ioMessageArrive part conn data) s = .next s)
    ∧ (s.ioMay r = true →
      let s0 := s.updIo r.id (fun x => { x with begun := true, data := some data })
      let vas := (List.range (data.take r.len).length).map (fun i => (r.buf + i) % 2 ^ 64)
      (∀ s1, reach s0 (ioWho s0 r) .store 0 vas = (.secure, s1) →
        ∃ t, exec (.ioMessageArrive part conn data) s = .next t ∧ s1.ioDone r 3 data.length (if r.len < data.length then 1 else 0) t)
      ∧ (∀ l s1, reach s0 (ioWho s0 r) .store 0 vas = (.ok l, s1) →
        writableAll s1 r.ctx l = true → s1.io = s0.io → l.Nodup → s1.mem.wf = true → (∀ t ∈ l, ∃ pa, t = .dev pa) →
        ∃ (t u : State), exec (.ioMessageArrive part conn data) s = .next t ∧ u.io = s0.io
          ∧ u.ioDone r 0 data.length (if r.len < data.length then 1 else 0) t
          ∧ (∀ (i : Nat) (a : Target) (b : Byte), l[i]? = some a → data[i]? = some b → u.byteAt a = b)
          ∧ ∀ a, Target.dev a ∉ l → u.mem.get a = s1.mem.get a)))
  ∧ (∀ (s : State) (part : Nat) (x : IoHeld), s.io.held.find? (fun h => h.part == part && (readQueue s h.queue).any (fun q =>
      decide (0 < roomOf s h.queue q))) = some x →
    ∃ t : State, exec (.ioRecordPush part) s = .next t ∧ t.io = { s.io with held := s.io.held.erase x }
      ∧ t.mem = (pushOne s x.core x.queue x.record).mem ∧ t.cores = (pushOne s x.core x.queue x.record).cores)
  ∧ (∀ (s : State) (id : Nat) (posted : Bool) (r : IoReq) (n va : Nat),
    (if posted then s.io.posted else s.io.reqs).find? (fun r => r.id == id) = some r → r.absent = some (n, va) → n + 50000 ≤ s.gtb →
    ((stillAbsent s r va = false ∨ r.tries < ioRetries s r) →
      ∃ t : State, exec (.ioPlacementTimeout id posted) s = .next t ∧ t = { s with io := t.io } ∧ t.io.held = s.io.held
      ∧ ∃ x, (if posted then t.io.posted else t.io.reqs).find? (fun r => r.id == id) = some x
        ∧ x = { r with absent := none, tries := if stillAbsent s r va then r.tries + 1 else r.tries })
    ∧ (stillAbsent s r va = true → ioRetries s r ≤ r.tries →
      let n := if posted then (r.data.map (·.length)).getD 0 else 0
      ∃ (t u : State), exec (.ioPlacementTimeout id posted) s = .next t ∧ u.ioDone r 4 n (if r.len < n then 1 else 0) t))
  ∧ (∀ (s : State) (part conn : Nat), isBroken s part conn = false → (connEntry s part conn).testBit 0 = true →
    ∃ t : State, exec (.connectionError part conn) s = .next t ∧ isBroken t part conn = true
      ∧ (∀ r ∈ t.io.reqs ++ t.io.posted, ¬ (r.part = part ∧ r.conn = conn))
      ∧ (∀ r, s.io.reqs ++ s.io.posted = [r] → r.part = part → r.conn = conn →
          ∃ u : State, u.mem = s.mem ∧ u.cores = s.cores ∧ u.ioDone r 2 0 0 t))

/-! ## Events of the distributor -/

/-- R341-R343, R345, R398: submission queues. A doorbell within the queue's capacity sets the tail, another sets ERR; SQ_ENABLE sets EN, clears ERR and begins at the
tail; a fetch copies the descriptor, gives the grid its identifier, enqueues it and moves the head, or sets ERR when the completion object
has no place.
The model's choices: a doorbell on a queue in error still sets its tail (log 60).

R13, R37, R150, R343, R347-R351, R358, R387: admission and the end of teams. A grid that fails a check is rejected with one of its reasons, which is 11 while its context is not valid; another starts,
with BEGUN; further clusters and split ranges follow; a new team's waves are as an entry leaves them; the last team completes the grid. -/
def Obligations.SubmissionAndAdmission : Prop :=
  (
    ∀ (s : State) (part queue : Nat), part < s.parts.length → queue < 256 → s.mem.wf = true →
      SMap.wf 0#32 (s.part part).sqTail = true → SMap.wf 0#32 (s.part part).sqHead = true →
      let tailOf := fun (t : State) q => SMap.get 0#32 (t.part part).sqTail q
      let headOf := fun (t : State) q => SMap.get 0#32 (t.part part).sqHead q
      let flags := (s.part part).sqBase.toNat + 32 * queue + 12
      let cap := field (sqDesc s part queue) 95 64
      (∀ port tail, port ∈ portsOf s part → portAnswers s port = false → exec (.sqdbWrite port part queue tail) s = .next s)
      ∧ (∀ port tail, port ∈ portsOf s part → portAnswers s port = true →
        (s.root.mode = 0 → port ≠ s.lease.active →
          ∃ t : State, exec (.sqdbWrite port part queue tail) s = .next t ∧ t = { s with lease := t.lease }
            ∧ t.lease = { s.lease with ignored := s.lease.ignored + 1 })
        ∧ ((s.root.mode = 0 → port = s.lease.active) →
          ((tail - tailOf s queue).toNat ≤ cap → (tail - headOf s queue).toNat ≤ cap →
            ∃ t : State, exec (.sqdbWrite port part queue tail) s = .next t ∧ tailOf t queue = tail ∧ (∀ q, q ≠ queue → tailOf t q = tailOf s q)
              ∧ t = { s with parts := t.parts })
          ∧ ((cap < (tail - tailOf s queue).toNat ∨ cap < (tail - headOf s queue).toNat) →
            ∃ t : State, exec (.sqdbWrite port part queue tail) s = .next t ∧ t = { s with mem := t.mem }
              ∧ t.mem.get flags = s.mem.get flags ||| 0x20#8 ∧ ∀ a, a ≠ flags → t.mem.get a = s.mem.get a)))
      ∧ (∃ t : State, exec (.sqEnable part queue) s = .next t ∧ t.mem.get flags = (s.mem.get flags &&& 0xDF#8) ||| 0x10#8
          ∧ (∀ a, a ≠ flags → t.mem.get a = s.mem.get a) ∧ headOf t queue = tailOf s queue ∧ ∀ q, q ≠ queue → headOf t q = headOf s q)
      ∧ (∀ d desc x s1 s2, (s.part part).ring = [] → (s.part part).lq.length < 1024 → sqTurn s part = some queue → d = sqDesc s part queue →
        desc = descOf (s.mem.readNat (field d 63 0 + 64 * ((headOf s queue).toNat % field d 95 64)) 64) →
        s1 = s.updPart part (fun p => { p with rr := (queue + 1) % 256 }) →
        (if desc.done % 32 ≠ 0 then (none, s1) else walkStore s1 part (field d 111 102) (s1.ctxDesc part (field d 111 102)) desc.done) = (x, s2) → s2.parts = s1.parts → s2.grids = s.grids →
        (x = none → ∃ t : State, exec (.sqFetch part queue) s = .next t ∧ t.mem = (sqError s2 part queue).mem ∧ t.grids = s.grids
          ∧ headOf t queue = headOf s queue)
        ∧ (∀ y, x = some y → doneReady s2 (field d 111 102) y = false →
          ∃ t : State, exec (.sqFetch part queue) s = .next t ∧ t.grids = s.grids ∧ headOf t queue = headOf s queue
            ∧ (t.part part).rr = (s.part part).rr)
        ∧ (∀ y, x = some y → doneReady s2 (field d 111 102) y = true →
          ∃ (t : State) (g : Grid), exec (.sqFetch part queue) s = .next t ∧ headOf t queue = headOf s queue + 1 ∧ t.grids = s.grids ++ [g]
            ∧ g.gid = gridHandle part (s.part part).gidNext ∧ g.desc = desc ∧ g.ctx = field d 111 102 ∧ g.prio = field d 99 98
            ∧ g.part = part ∧ g.doneTarget = y ∧ g.started = false ∧ (t.part part).rr = (queue + 1) % 256
            ∧ (t.part part).lq = (s.part part).lq ++ [{ gid := g.gid, prio := g.prio }]
            ∧ t.mem = (s2.writeAt y 32 (recordBits g.gid 0 0 true false false g.cls * 2 ^ 128)).mem)))
  ∧ (
    (∀ (s : State) (g : Grid), (s.ctxDesc g.part g.ctx).testBit 496 = false → gridReasons s g = [11])
    ∧ (∀ (s : State) (part : Nat) (g : Grid), part < s.parts.length → g.part = part → (s.part part).ring = [] →
      ([3, 2, 1, 0].filterMap (fun prio => ((s.part part).lq.find? (fun e => e.prio == prio)).bind (fun e => s.grid? e.gid part))).find?
        (fun g => !(gridReasons s g).isEmpty) = some g → ∀ d s1, doneStore s.freeNat.2 g = (d, s1) → doneReady s1 g.ctx d = true →
      ∃ t n, exec (.gridAdmit part) s = .next t ∧ n ∈ gridReasons s g ∧ t.mem = (s1.writeAt d 2 (2 + 256 * n)).mem
        ∧ (t.part part).lq = (s.part part).lq.filter (fun e => e.gid != g.gid) ∧ t.teams = s.teams ∧ t.waves = s.waves
        ∧ ∀ x, t.grid? g.gid part = some x → x.rejected = true)
    ∧ (∀ (s : State) (part : Nat) (g : Grid) (d : Target) (s2 s1 : State),
      (∀ x ∈ [3, 2, 1, 0].filterMap (fun prio => ((s.part part).lq.find? (fun e => e.prio == prio)).bind (fun e => s.grid? e.gid part)),
        gridReasons s x = []) →
      nextCand s part = some (.head g.gid) → s.grid? g.gid part = some g → doneStore s g = (d, s2) → doneReady s2 g.ctx d = true →
      (if concurrentOf s2 part (.head g.gid) then placeConcurrent s2 part (.head g.gid) else placeAllOf part (.head g.gid) 1 s2) = some s1 →
      ∃ t : State, exec (.gridAdmit part) s = .next t ∧ t.teams = s1.teams ∧ t.waves = s1.waves
        ∧ (∀ pa, d = .dev pa → s1.mem.wf = true → t.mem.get (pa + 16) = s1.mem.get (pa + 16) ||| 0x04#8
            ∧ ∀ a, a ≠ pa + 16 → t.mem.get a = s1.mem.get a)
        ∧ ∀ x, t.grid? g.gid part = some x → x.started = true)
    ∧ (∀ (s : State) (part gid core : Nat) (g : Grid) (s1 : State), s.grid? gid part = some g → g.range = false →
      nextCand s part = some (.more gid) → layoutPending s (core / 2) = false →
      (prepared s gid ((partPairs s part).filter (fitsOn s part (.more gid)))).contains (core / 2) = true →
      (needLayout s (core / 2) g.ctx (s.ctxDesc part g.ctx) = true →
        exec (.teamAdmit part gid core) s = .next (prepare s (core / 2) gid g.ctx))
      ∧ (needLayout s (core / 2) g.ctx (s.ctxDesc part g.ctx) = false → placeCand s (.more gid) part core = some s1 →
      ∃ t : State, exec (.teamAdmit part gid core) s = .next t ∧ t = { s1 with cores := t.cores }
        ∧ ∀ x ∈ t.grids, x.gid = gid → x.part = part → ∃ y ∈ s.grids, y.gid = gid ∧ y.part = part
            ∧ x.nextTeam = y.nextTeam + y.kernel.cluster ∧ x.nextSeq = y.nextSeq + y.kernel.cluster))
    ∧ (∀ (s : State) (gid pair : Nat) (l : List Nat),
      prepared s gid l = (let p := l.filter (fun p => (s.core (2 * p)).starting == some gid && (pairTeams s p).isEmpty); if p = [] then l else p)
      ∧ (2 * pair + 1 < s.cores.length → ∀ ctx, ((prepare s pair gid ctx).core (2 * pair)).starting = some gid
          ∧ (prepare s pair gid ctx).mem = s.mem ∧ (prepare s pair gid ctx).waves = s.waves ∧ (prepare s pair gid ctx).teams = s.teams))
    ∧ (∀ (s : State) (part gid core : Nat) (g : Grid) (s1 : State) (a b : Nat) (n : Option Nat), s.grid? gid part = some g → g.range = true →
      nextCand s part = some (.more gid) → layoutPending s (core / 2) = false →
      (prepared s gid ((partPairs s part).filter (splitFits s part g))).contains (core / 2) = true →
      needLayout s (core / 2) g.ctx (s.ctxDesc part g.ctx) = false → splitOn s g core = some s1 → rangeWork s g = some (a, b, n) →
      (∀ t ∈ s.teams, t.gid = g.gid → t.num < g.nextTeam) →
      ∃ t u, exec (.rangeSplit part gid core) s = .next t ∧ t = { s1 with cores := t.cores } ∧ t.team? g.gid g.nextTeam = some u
        ∧ u.lo = a ∧ u.hi = b ∧ u.res = .resident
        ∧ ∀ k v, n = some k → t.team? g.gid k = some v → v.hi = a ∧ v.splitAt = some s.cyc)
    ∧ (∀ (s t : State) (g : Grid) (num seq core lo hi : Nat), placeTeam s g num seq core lo hi = some t →
      ∃ u, t.teams.getLast? = some u ∧ u.gid = g.gid ∧ u.num = num ∧ u.ctx = g.ctx ∧ u.seq = seq ∧ u.lo = lo ∧ u.hi = hi ∧ u.res = .resident
        ∧ u.pages.length = g.kernel.window / 4096 ∧ (∀ p ∈ u.pages, p ∉ (s.core u.core).scrPages) ∧ t.mem = s.mem
        ∧ (t.waves.drop s.waves.length).length = g.kernel.waves
        ∧ ∀ (i : Nat) (w : Wave), (t.waves.drop s.waves.length)[i]? = some w → w.grid = g.gid ∧ w.team = num ∧ w.ctx = g.ctx ∧ w.wnum = i
            ∧ w.width = g.kernel.width ∧ w.vregs = [] ∧ w.preds = [] ∧ w.fstat = 0 ∧ w.sched = .pending
            ∧ w.rdS 0 = BitVec.ofNat 32 g.desc.param ∧ w.rdS 1 = BitVec.ofNat 32 (g.desc.param / 2 ^ 32)
            ∧ w.act = BitVec.allOnes 96 >>> (96 - g.kernel.width)
            ∧ ∀ q, q < (g.kernel.width + 3) / 4 → w.pcOf q = BitVec.ofNat 48 g.kernel.entry)
    ∧ (∀ (s : State) (gid team : Nat) (t : Team) (g : Grid), s.team? gid team = some t → s.gridOf t = some g → t.res ≠ .ended →
      teamOver s t = true →
      let g1 := { g with endedTeams := g.endedTeams + 1,
                         offered := if g.range && decide (t.lo < t.hi) then g.offered ++ [(t.lo, t.hi)] else g.offered }
      let last := gridOver g1 && !g.rejected
      let d := if last then doneStore s g else (g.doneTarget, s)
      (last = true → doneReady d.2 g.ctx d.1 = true) →
      ∃ u v, exec (.teamEnd gid team) s = .next u ∧ u.team? gid team = some v ∧ v.res = .ended ∧ v.pages = [] ∧ v.tiles = [] ∧ v.saveSlot = none
        ∧ (∀ w ∈ u.waves, w.section? = true ∨ w.grid ≠ gid ∨ w.team ≠ team)
        ∧ (∀ x, u.grid? g.gid g.part = some x → x.endedTeams = g.endedTeams + 1
            ∧ (x.complete = true ↔ g.complete = true ∨ last = true))
        ∧ u.mem = (if last then (d.2.writeAt d.1 2 (1 + (if g.anyTerminated then 10 * 256 else 0))).mem else s.mem)))

/-! ## Events of the scheduler -/

/-- R32-R35, R352, R353, R361-R364: a cluster whose waves all wait yields when a `.y` wait has lasted its threshold, each team with its state in a save slot; an
eligible team comes back where it fits; a wave that was ready for 4096 cycles is promoted, the earliest resident of its slot first; a wave without progress is told. -/
def Obligations.YieldEvents : Prop :=
  (∀ (s : State) (gid team i : Nat) (t : Team) (g : Grid) (w : Wave) (y : Gang), s.team? gid team = some t → s.gridOf t = some g → g.cls ≠ 0 →
    t.res = .resident → t.core < s.cores.length → liveMembers s t = [t] → (∀ w ∈ s.teamWavesOf t, w.still = true) →
    (yieldingOf s t).filter (fun p => decide (p.2.waitSince + yieldAfter s t ≤ s.gtb)) = [(w, y)] →
    (∀ p ∈ yieldingOf s t, waitsInside (clusterOf s t) p.2.wait = false ∧ waitCouldEnd s p.1 p.2 = false) →
    windowsQuiet s [t] = true → enginesQuiet s [t] = true →
    slotsReady s (s.partOf t.core) t.ctx (s.desc t.core t.ctx) 1 = true → freeSave s (s.partOf t.core) t.ctx (s.desc t.core t.ctx) = some i →
    ∃ u v, exec (.teamYield gid team) s = .next u ∧ u.team? gid team = some v ∧ v.res = .yielded false ∧ v.saveSlot = some i ∧ v.pages = []
      ∧ v.waitAddr = y.wait.object ∧ v.saved.map (·.wnum) = (s.teamWavesOf t).map (·.wnum)
      ∧ v.saved.map (·.vregs) = (s.teamWavesOf t).map (·.vregs) ∧ v.saved.map (·.quads) = (s.teamWavesOf t).map (·.quads)
      ∧ (∀ w ∈ u.waves, w.section? = true ∨ w.grid ≠ gid ∨ w.team ≠ team)
      ∧ (∀ p ∈ (u.core t.core).scrPages, p ∉ t.pages)
      ∧ ∃ n, u.mem = s.mem.writeNat (saveAddr (s.desc t.core t.ctx) i) 64 n)
  ∧ (∀ (s : State) (gid team core : Nat) (t : Team) (s1 : State), s.team? gid team = some t →
    let part := s.partOf t.core
    nextCand s part = some (.back gid team) →
    (concurrentOf s part (.back gid team) = true → placeConcurrent s part (.back gid team) = some s1 →
      ∃ u : State, exec (.teamResume gid team core) s = .next u ∧ u = { s1 with cores := u.cores })
    ∧ (concurrentOf s part (.back gid team) = false → layoutPending s (core / 2) = false →
      (prepared s gid ((partPairs s part).filter (fitsOn s part (.back gid team)))).contains (core / 2) = true →
      needLayout s (core / 2) t.ctx (s.ctxDesc part t.ctx) = false → placeCand s (.back gid team) part core = some s1 →
      ∃ u : State, exec (.teamResume gid team core) s = .next u ∧ u = { s1 with cores := u.cores }))
  ∧ (∀ (s t : State) (g : Grid) (u : Team) (core : Nat), s.team? u.gid u.num = some u → restoreTeam s g u core = some t →
    ∃ v, t.team? u.gid u.num = some v ∧ v.res = .resident ∧ v.saved = [] ∧ v.saveSlot = none ∧ v.pages.length = g.kernel.window / 4096
      ∧ t.mem = s.mem ∧ (t.waves.drop s.waves.length).map (·.wnum) = u.saved.map (·.wnum)
      ∧ (t.waves.drop s.waves.length).map (·.vregs) = u.saved.map (·.vregs))
  ∧ (∀ (s : State) (k : WaveKey) (w : Wave), s.wave? k = some w → (w.readyGang s.cyc).isSome = true → w.sched ≠ .active →
    w.overdue s.cyc = true →
    (∀ y ∈ slotOf s k, (y.readyGang s.cyc).isSome = true → y.sched ≠ .active → y.overdue s.cyc = true → w.residentAt ≤ y.residentAt) →
    ∃ t v, exec (.wavePromote k) s = .next t ∧ t = { s with waves := t.waves } ∧ t.wave? k = some v ∧ v = { w with sched := .active }
      ∧ ∀ j x, j ≠ k → s.wave? j = some x → t.wave? j = some x ∨ t.wave? j = some { x with sched := .pending })
  ∧ (∀ (s : State) (k : WaveKey) (w : Wave), s.wave? k = some w → w.section? = false → w.finished = false → w.sched ≠ .trapped →
    let n := starvAfter (s.desc k.core w.ctx) (s.waveClass w)
    n ≠ 0 → n * 1000 < w.starv / 3 → (∀ a ∈ w.async, a.record.code ≠ Trap.starvation) →
    ∃ t v a, exec (.starvation k) s = .next t ∧ s.sameBut k t ∧ t.wave? k = some v ∧ v = { w with async := w.async ++ [a] }
      ∧ a.record.code = Trap.starvation ∧ a.record.mask = w.act ∧ a.record.det1 = BitVec.ofNat 32 n
      ∧ a.record.det2 = BitVec.ofNat 11 (s.waveClass w))

/-- R121, R356, R357, R365-R368: budgets, slices and PRCTL. A period takes BUDGET off USED, once for each start since the last that was seen; an exhausted budget holds the context's waves; a slice that ends asks the
pair's waves to stop when another context waits; PRCTL asks or terminates every team of the context; a wave that is asked stops where it may, and
its cluster is saved. A grid that PRCTL terminates has STATE 2 and REASON 8 once its stores have applied.
The model's choices: the first period of an entry (log 121), where a wave may stop and what holds its saving up (log 65), when teams are eligible again (log 67). -/
def Obligations.PreemptionEvents : Prop :=
  (∀ (s : State) (part i : Nat), part < s.parts.length → i < 256 → SMap.wf 0 (s.part part).budUsed = true →
    SMap.wf 0 (s.part part).periods = true → s.mem.wf = true →
    let x := budEntry s part i
    let period := field x 9 0 * 1000
    let budget := field x 95 64
    let used := SMap.get 0 (s.part part).budUsed i
    period ≠ 0 →
    let last := SMap.get 0 (s.part part).periods i
    (last < periodBegin s period →
      let left := used - (if last = 0 then 1 else s.gtb / period - last / period) * budget
      let held := x.testBit 10 && decide (budget ≤ left)
      ∃ t : State, exec (.periodStart part i) s = .next t ∧ SMap.get 0 (t.part part).budUsed i = left
        ∧ SMap.get 0 (t.part part).periods i = periodBegin s period
        ∧ field (budEntry t part i) 127 96 = left % 2 ^ 32 ∧ (budEntry t part i).testBit 10 = held
        ∧ (∀ a, a < budAddr s part i ∨ budAddr s part i + 16 ≤ a → t.mem.get a = s.mem.get a)
        ∧ (held = true → t.waves = s.waves)
        ∧ (held = false → ∀ w ∈ t.waves, w.sched = .held → budgetOf t part i w = false))
    ∧ (periodBegin s period ≤ last → budget ≤ used →
      ∃ t : State, exec (.budgetExhaust part i) s = .next t ∧ (budEntry t part i).testBit 10 = true
        ∧ field (budEntry t part i) 127 96 = used % 2 ^ 32
        ∧ (∀ w ∈ t.waves, budgetOf t part i w = true → w.preempt = .none → w.sched = .held ∨ w.sched = .trapped)
        ∧ ∀ a, a < budAddr s part i ∨ budAddr s part i + 16 ≤ a → t.mem.get a = s.mem.get a))
  ∧ (∀ (s : State) (pair ctx : Nat), (s.core (2 * pair)).lastCtx = some ctx → 2 * pair + 1 < s.cores.length →
    let n := field (s.desc (2 * pair) ctx) 487 472 * 1000
    let l := pairTeams s pair
    n ≠ 0 → (s.core (2 * pair)).sliceStart + n ≤ s.gtb → l ≠ [] → (∀ t ∈ l, ∀ w ∈ s.teamWavesOf t, w.preempt = .none) →
    (otherWaits s (s.partOf (2 * pair)) ctx = true →
      ∃ t : State, exec (.sliceExpire pair) s = .next t ∧ t = { s with waves := t.waves }
        ∧ ∀ w ∈ t.waves, w.section? = false → w.finished = false → (∃ u ∈ withGrids s l, u.gid = w.grid ∧ u.num = w.team) →
            w.preempt ≠ .none)
    ∧ (otherWaits s (s.partOf (2 * pair)) ctx = false →
      ∃ t : State, exec (.sliceExpire pair) s = .next t ∧ t = { s with cores := t.cores } ∧ (t.core (2 * pair)).sliceStart = s.gtb
        ∧ (t.core (2 * pair + 1)).sliceStart = s.gtb))
  ∧ (∀ (s : State) (part : Nat) (v : DWord), part < s.parts.length →
    let ctx := field v.toNat 9 0
    let l := residentOf s part ctx
    let stOf := fun t : State => field (t.part part).prctl.toNat 18 16
    (prctlStarts s part v 0 = true →
      ∃ t : State, exec (.prctlPreempt part v) s = .next t ∧ t = { s with parts := t.parts, waves := t.waves }
        ∧ stOf t = (if l = [] then 4 else 1) ∧ (t.part part).prCtx = ctx ∧ (t.part part).prDeadline = s.gtb + field v.toNat 63 32 * 1000
        ∧ (l = [] → t.waves = s.waves)
        ∧ ∀ w ∈ t.waves, w.section? = false → w.finished = false → (∃ u ∈ l, u.gid = w.grid ∧ u.num = w.team) → w.preempt ≠ .none)
    ∧ (prctlStarts s part v 0 = false → exec (.prctlPreempt part v) s = .next s)
    ∧ (prctlStarts s part v 1 = true →
      ∃ t : State, exec (.prctlTerminate part v) s = .next t ∧ stOf t = (if l = [] then 4 else 1)
        ∧ (∀ g ∈ t.grids, g.part = part → g.ctx = ctx → g.complete = true ∨ g.rejected = true)
        ∧ ∀ e ∈ (t.part part).lq, ∀ g ∈ s.grids, g.gid = e.gid → g.part = part → g.ctx = ctx → g.complete = true ∨ g.rejected = true)
    ∧ (prctlStarts s part v 1 = false → exec (.prctlTerminate part v) s = .next s)
    ∧ (stOf s = 1 → (s.part part).prAct = 0 → (s.part part).prDeadline ≤ s.gtb →
      ∃ t : State, exec (.preemptTimeout part) s = .next t ∧ t = { s with parts := t.parts, waves := t.waves } ∧ stOf t = 3
        ∧ ∀ w ∈ t.waves, w.section? = false → w.ctx = (s.part part).prCtx → s.partOf w.key.core = part → w.preempt = .none))
  ∧ (∀ (s : State) (k : WaveKey) (w : Wave) (t : Team) (g : Grid), s.wave? k = some w → s.team? w.grid w.team = some t →
    s.grid? w.grid (s.partOf k.core) = some g → w.section? = false → w.finished = false → canStop w = true →
    let s1 := s.updWave k (fun w => { w with preempt := .stopped })
    let quiet := (stopGroup s1 t).all (fun u => (s1.teamWavesOf u).all (fun w => w.finished || w.preempt == .stopped))
      && windowsQuiet s1 (clusterOf s1 t) && granulesDone s1 (liveMembers s1 t)
    let room := slotsReady s1 (s1.partOf t.core) t.ctx (s1.desc t.core t.ctx) (liveMembers s1 t).length
    (quiet = false → exec (.wavePreemptStop k) s = .next s1)
    ∧ (quiet = true → room = false → ∃ u : State, exec (.wavePreemptStop k) s = .next u ∧ u.waves = s1.waves ∧ u.teams = s1.teams ∧ u.mem = s1.mem)
    ∧ (quiet = true → room = true → liveMembers s1 t = [t] →
      ∃ u v, exec (.wavePreemptStop k) s = .next u ∧ u.team? w.grid w.team = some v ∧ v.res = .preempted false ∧ v.saveSlot.isSome = true
        ∧ ∀ x ∈ u.waves, x.section? = true ∨ x.grid ≠ w.grid ∨ x.team ≠ w.team))
  ∧ (∀ w : Wave, canStop w = true ↔
      w.sched ≠ .trapped ∧ w.async = [] ∧ (∀ g ∈ w.gangs, ∀ b d, g.wait ≠ .comb b d)
      ∧ match w.preempt with
        | .none => False
        | .running _ _ => ∀ g ∈ w.gangs, w.atPoint g = true ∨ (∃ n, g.wait = .regang n) ∧ ∃ h ∈ w.gangs, w.atPoint h = true
        | .fallback => ∀ g ∈ w.gangs, g.wait ≠ .none
        | .stopped => True)
  ∧ (∀ (s : State) (k : WaveKey) (w : Wave) (n : Nat) (l : List Pc), s.wave? k = some w → w.preempt = .running n l → 2048 ≤ n →
    ∃ t, exec (.preemptFallback k) s = .next t ∧ s.sameBut k t ∧ t.wave? k = some { w with preempt := .fallback })
  ∧ (∀ (s : State) (g : Grid), g.closing = true →
    let home := s.mops.all (fun o => o.gid != g.gid || o.elems.all (fun e => !e.phase.unapplied))
    let d := doneStore s g
    (home = false → settleClosing s g = s)
    ∧ (home = true → doneReady d.2 g.ctx d.1 = false → ∀ x, (settleClosing s g).grid? g.gid g.part = some x → s.grid? g.gid g.part = some x)
    ∧ (home = true → doneReady d.2 g.ctx d.1 = true → (settleClosing s g).mem = (d.2.writeAt d.1 2 (2 + 8 * 256)).mem
        ∧ ∀ x, (settleClosing s g).grid? g.gid g.part = some x → x.closing = false))

/-! ## Events of the supervisor -/

/-- R369-R371, R374, R375, R380-R383: the trap queue's writes, the delivery of reports, and WCMD. The wave that PWSEL names must be parked and its trap must accept the
action: WSTAT holds 0, else 1 or 2, and a refused action does nothing else. The S-mode external
interrupt is pending while a trap queue with EN holds entries.
The model's choices: the S-mode external interrupt is bit 9 of sip (log 111, presumed); which actions a unit takes (log 70); an entry waits for its line (log 33). -/
def Obligations.WaveCommands : Prop :=
  (∀ (s : State) (core : Nat) (e : TrapEntry), core < s.cores.length → (s.core core).tqWait = [e] →
    let cap := ringCapacity (s.core core).tqCfg
    (((s.core core).tqTail - (s.core core).tqHead).toNat < cap →
      s.lineFree ((s.core core).tqBase.toNat + 64 * ((s.core core).tqTail.toNat % cap)) = true →
      ∃ t : State, exec (.trapQueueWrite core) s = .next t ∧ (t.core core).tqWait = [] ∧ (t.core core).tqTail = (s.core core).tqTail + 1
        ∧ t.mem = s.mem.writeNat ((s.core core).tqBase.toNat + 64 * ((s.core core).tqTail.toNat % cap)) 64
            (TrapEntry.bits { e with gtb := s.gtb }))
    ∧ (cap ≤ ((s.core core).tqTail - (s.core core).tqHead).toNat → exec (.trapQueueWrite core) s = .next s)
    ∧ (s.lineFree ((s.core core).tqBase.toNat + 64 * ((s.core core).tqTail.toNat % cap)) = false →
      ∃ t : State, exec (.trapQueueWrite core) s = .next t ∧ t.mem = s.mem ∧ t.cores = s.cores))
  ∧ (∀ x : Core, SMap.wf 0#64 x.sup.csrs = true →
    (SMap.get 0#64 (settleIrq x).sup.csrs 0x144).getLsbD 9 = (x.tqTail != x.tqHead && x.tqCfg.getLsbD 4)
    ∧ ∀ n, n ≠ 0x144 → SMap.get 0#64 (settleIrq x).sup.csrs n = SMap.get 0#64 x.sup.csrs n)
  ∧ (∀ (s : State) (k : WaveKey) (w : Wave) (a : Async), s.wave? k = some w → w.async = [a] → w.sched ≠ .trapped → w.finished = false →
    w.info = none → a.record.code ≠ Trap.storeFault →
    ∃ t v, exec (.asyncTrapDeliver k) s = .next t ∧ t.wave? k = some v ∧ v.sched = .trapped ∧ v.async = [] ∧ v.sameRegs w ∧ v.quads = w.quads
      ∧ v.trap = some (if a.next then { a.record with pc := w.nextIssuePc } else a.record) ∧ (a.cmd.isSome = true → v.engStop = a.cmd))
  ∧ (∀ (s : State) (core : Nat) (eng : BitVec 4), core < s.cores.length →
    let k := selected s core
    let result := fun (t : State) n => (t.core core).wstat = BitVec.ofNat 32 (2 * n)
    let plain : List (Instr × Nat) := [(.wcmdResume core, 1), (.wcmdReplay core, 2), (.wcmdTerminateWave core, 3), (.wcmdTerminateTeam core, 4),
      (.wcmdTerminateContext core, 5)]
    let engine : List (Instr × Nat) := [(.wcmdEngineResume core eng, 6), (.wcmdEngineDiscard core eng, 7), (.wcmdEngineTerminate core eng, 8)]
    (∀ p ∈ plain, (∀ w, s.wave? k = some w → w.trap = none) →
      ∃ t : State, exec p.1 s = .next t ∧ result t 1 ∧ t = { s with cores := t.cores })
    ∧ (∀ p ∈ plain ++ engine, ∀ w r, s.wave? k = some w → w.trap = some r → accepts r.code w.engStop.isSome p.2 = false →
      (6 ≤ p.2 → eng = 8) → ∃ t : State, exec p.1 s = .next t ∧ result t 2 ∧ t = { s with cores := t.cores })
    ∧ (∀ w r, s.wave? k = some w → w.trap = some r →
      (accepts r.code w.engStop.isSome 1 = true →
        ∃ t v, exec (.wcmdResume core) s = .next t ∧ result t 0 ∧ t.wave? k = some v ∧ v.trap = none ∧ v.sched ≠ .trapped ∧ v.resumed w
          ∧ (w.wantsBaton = false → v.quads = w.quads) ∧ (r.code = Trap.storeFault → ∀ x ∈ (t.core k.core).retry, x.w ≠ k) ∧ t.mem = s.mem)
      ∧ (accepts r.code w.engStop.isSome 2 = true → r.code = Trap.loadFault → w.fetchFault = false →
        ∃ t v, exec (.wcmdReplay core) s = .next t ∧ result t 0 ∧ t.wave? k = some v ∧ v.trap = none ∧ v.resumed w
          ∧ (w.wantsBaton = false → v.quads = w.quads) ∧ ∀ g ∈ v.gangs, v.pcOf (g.quads.headD 0) = r.pc → (∃ q ∈ g.quads, r.mask.extractLsb' (4 * q) 4 ≠ 0) → g.replay = some r.mask)
      ∧ (accepts r.code w.engStop.isSome 2 = true → r.code = Trap.storeFault →
        ∃ (t : State) (v : Wave) (l : List MOp), exec (.wcmdReplay core) s = .next t ∧ result t 0 ∧ t.wave? k = some v ∧ v.trap = none
          ∧ v.resumed w ∧ l.map (·.elems) = (recordsOf s core k).map (·.elems) ∧ (∀ o ∈ l, o.checked = false)
          ∧ (∃ before, t.mops = before ++ l) ∧ ∀ x ∈ (t.core core).retry, x.w ≠ k)
      ∧ (accepts r.code w.engStop.isSome 3 = true → w.quads.length ≤ 24 →
        ∃ t v, exec (.wcmdTerminateWave core) s = .next t ∧ result t 0 ∧ t.wave? k = some v ∧ v.trap = none ∧ v.finished = true ∧ v.act = 0
          ∧ v.gangs = [] ∧ ∀ x ∈ (t.core core).retry, x.w ≠ k)
      ∧ (∀ u, accepts r.code w.engStop.isSome 4 = true → s.team? w.grid w.team = some u → u.terminated = false → u.res ≠ .ended →
        ∃ t v, exec (.wcmdTerminateTeam core) s = .next t ∧ result t 0 ∧ t.team? w.grid w.team = some v ∧ v.terminated = true
          ∧ v.failCode = r.code ∧ v.saved = [])
      ∧ (accepts r.code w.engStop.isSome 5 = true →
        ∃ t : State, exec (.wcmdTerminateContext core) s = .next t ∧ result t 0
          ∧ ∀ g ∈ t.grids, g.part = s.partOf core → g.ctx = w.ctx → g.complete = true ∨ g.rejected = true)
      ∧ (∀ id c u, w.engStop = some id → stoppedCmd s (s.engineCore w) id = some c → s.engineCore w < s.cores.length → eng = 8 →
        (∀ t ∈ s.teams, ∀ c ∈ t.savedCmds, c.id ≠ id) →
        (accepts r.code true 6 = true →
          ∃ t v, exec (.wcmdEngineResume core eng) s = .next t ∧ result t 0 ∧ t.wave? k = some v ∧ v.trap = none
            ∧ ∀ x ∈ (t.core (s.engineCore w)).eng.cmds, x.id = id → x.isMark = false → x.stop = none)
        ∧ (accepts r.code true 7 = true →
          ∃ t v, exec (.wcmdEngineDiscard core eng) s = .next t ∧ result t 0 ∧ t.wave? k = some v ∧ v.trap = none
            ∧ ∀ x ∈ (t.core (s.engineCore w)).eng.cmds, x.id = id → x.isMark = true)
        ∧ (accepts r.code true 8 = true → s.team? w.grid w.team = some u → u.terminated = false → u.res ≠ .ended →
          ∃ t v, exec (.wcmdEngineTerminate core eng) s = .next t ∧ result t 0 ∧ t.team? w.grid w.team = some v ∧ v.terminated = true)))
    ∧ (eng.toNat / 4 = 0 → ∀ x, abandonedXfer s core (eng.toNat % 4) k = some x → eng.toNat % 4 < (s.core core).chans.length →
      (∃ t : State, exec (.wcmdEngineRetry core eng) s = .next t ∧ result t 0 ∧ t.mem = s.mem
        ∧ ∀ y ∈ (t.chan core (eng.toNat % 4)).xfers, y.id = x.id → y.fault = none)
      ∧ (∃ t : State, exec (.wcmdEngineFail core eng) s = .next t ∧ result t 0 ∧ (t.chan core (eng.toNat % 4)).err = true
        ∧ (t.chan core (eng.toNat % 4)).code = 2 ∧ ∀ y ∈ (t.chan core (eng.toNat % 4)).xfers, y.id ≠ x.id))
    ∧ (eng.toNat / 4 = 1 → ∀ o, abandonedTable s core k = some o →
      (∃ t : State, exec (.wcmdEngineRetry core eng) s = .next t ∧ result t 0 ∧ t.mem = s.mem
        ∧ ∀ y ∈ (t.core core).tableOps, y.id = o.id → y.fault = none)
      ∧ (∃ t : State, exec (.wcmdEngineFail core eng) s = .next t ∧ result t 0 ∧ (∀ y ∈ (t.core core).tableOps, y.id ≠ o.id)
        ∧ (eng.toNat % 4 < (s.core core).chans.length →
          (t.chan core (eng.toNat % 4)).err = true ∧ (t.chan core (eng.toNat % 4)).code = 2))))

/-- R376, R379, R380, R386, R400, R419: TCMD acts on the team events of a core, PWSTATE writes reach the parked wave alone, and TINV drops a context's translations, with
DONE when no access uses them any more.
The model's choices: depths above 8, rounding modes 5 to 7, and masks of PWSTATE (log 72). -/
def Obligations.TeamCommands : Prop :=
  (∀ (s : State) (core gid team : Nat) (eng : BitVec 4) (t : Team), core < s.cores.length →
    s.team? (gridHandle (s.partOf core) gid) team = some t → t.res ≠ .ended → ofCore t core = true →
    let result := fun (u : State) n => (u.core core).wstat = BitVec.ofNat 32 (2 * n)
    let find := fun u : State => u.team? (gridHandle (s.partOf core) gid) team
    (∀ e, t.events.find? (fun e => e.code == Trap.storeFault && e.cmd.isNone) = some e → e.core < s.cores.length →
      (∃ u v, exec (.tcmdDiscardStores core gid team) s = .next u ∧ result u 0 ∧ find u = some v ∧ v.events = t.events.erase e
        ∧ ∀ x ∈ (u.core e.core).retry, x.w ≠ e.w)
      ∧ (∃ (u : State) (l : List MOp), exec (.tcmdReplayStores core gid team) s = .next u ∧ result u 0
        ∧ l.map (·.elems) = (recordsOf s e.core e.w).map (·.elems) ∧ (∀ o ∈ l, o.checked = false) ∧ (∃ before, u.mops = before ++ l)
        ∧ ∀ x ∈ (u.core e.core).retry, x.w ≠ e.w))
    ∧ (t.events.find? (fun e => e.code == Trap.storeFault && e.cmd.isNone) = none →
      ∀ i ∈ ([.tcmdDiscardStores core gid team, .tcmdReplayStores core gid team] : List Instr),
        ∃ u : State, exec i s = .next u ∧ result u 2 ∧ u = { s with cores := u.cores })
    ∧ (t.terminated = false → ∃ u v, exec (.tcmdTerminateTeam core gid team) s = .next u ∧ result u 0 ∧ find u = some v
        ∧ v.terminated = true ∧ v.failCode = ((t.events.head?).map (·.code)).getD 0 ∧ v.events = [])
    ∧ (∃ u : State, exec (.tcmdTerminateContext core gid team) s = .next u ∧ result u 0
        ∧ ∀ g ∈ u.grids, g.part = s.partOf t.core → g.ctx = t.ctx → g.complete = true ∨ g.rejected = true)
    ∧ (∀ e id c, t.events.find? (fun e => e.cmd.isSome) = some e → e.cmd = some id → stoppedCmd s t.core id = some c → t.core < s.cores.length →
      eng = 8 →
      (∃ u : State, exec (.tcmdEngineResume core gid team eng) s = .next u ∧ result u 0
        ∧ ∀ x ∈ (u.core t.core).eng.cmds, x.id = id → x.isMark = false → x.stop = none)
      ∧ (∃ u : State, exec (.tcmdEngineDiscard core gid team eng) s = .next u ∧ result u 0
        ∧ ∀ x ∈ (u.core t.core).eng.cmds, x.id = id → x.isMark = true)
      ∧ (t.terminated = false → ∃ u v, exec (.tcmdEngineTerminate core gid team eng) s = .next u ∧ result u 0 ∧ find u = some v
          ∧ v.terminated = true)))
  ∧ (∀ (s : State) (core off : Nat) (x : Word) (w : Wave), s.wave? (selected s core) = some w → w.trap.isSome = true → off % 4 = 0 →
    SMap.wf 0#32 w.sregs = true → SMap.wf 0#32 w.lc = true → SMap.wf 0#32 w.amax = true → w.stale = [] →
    ∃ t v, exec (.pwstateWrite core off (natToBytes 4 x.toNat)) s = .next t ∧ s.sameBut (selected s core) t ∧ t.wave? (selected s core) = some v
      ∧ v.vregs = w.vregs ∧ v.trap = w.trap ∧ v.ended = w.ended
      ∧ (∀ n, n < 60 → v.rdS n = if off = 0x1000 + 4 * n then x else w.rdS n)
      ∧ (∀ n, n < 3 → SMap.get 0#32 v.lc n = if off = 0x1E08 + 4 * n then x else SMap.get 0#32 w.lc n)
      ∧ (∀ n, n < 4 → SMap.get 0#32 v.amax n = if off = 0x1E20 + 4 * n then x else SMap.get 0#32 w.amax n)
      ∧ (∀ q, q < w.quads.length → q < 24 → off = 0x1100 + 8 * q →
          (v.pcOf q).toNat % 2 ^ 32 = x.toNat ∧ (v.pcOf q).toNat / 2 ^ 32 = (w.pcOf q).toNat / 2 ^ 32)
      ∧ (off = 0x1E00 → v.wcw.toNat / 256 = w.wcw.toNat / 256 ∧ v.rm ≤ max 4 w.rm))
  ∧ (∀ (s : State) (core off : Nat) (data : List Byte), (∀ w, s.wave? (selected s core) = some w → w.trap = none) →
    exec (.pwstateWrite core off data) s = .next s)
  ∧ (∀ (s : State) (core ctx : Nat), core < 192 → s.cores.length = 192 → (s.core core).tinv.getLsbD 17 = true →
    s.partOf core < s.parts.length → SMap.wf 0#32 (s.part (s.partOf core)).pasid = true →
    ∃ t : State, exec (.tinvGo core ctx) s = .next t ∧ (t.core core).tinv.getLsbD 17 = false ∧ (t.core core).tinvBound = s.nextId
      ∧ (∀ e ∈ (t.core core).icache, e.ctx = ctx % 1024 → e.mapped = false)
      ∧ (s.watching (ctx % 1024) = false → t.mem = s.mem ∧ ∀ e ∈ (t.core core).tlb, e.ctx ≠ ctx % 1024)
      ∧ SMap.get 0#32 (t.part (s.partOf core)).pasid (ctx % 1024) = SMap.get 0#32 (s.part (s.partOf core)).pasidReg (ctx % 1024))
  ∧ (∀ (s : State) (core : Nat), core < s.cores.length → (s.core core).tinv.getLsbD 17 = false →
    (drained s (field (s.core core).tinv.toNat 9 0) (s.core core).tinvBound [core] = true →
      ∃ t : State, exec (.tinvDone core) s = .next t ∧ (t.core core).tinv.getLsbD 17 = true ∧ t = { s with cores := t.cores })
    ∧ (drained s (field (s.core core).tinv.toNat 9 0) (s.core core).tinvBound [core] = false → exec (.tinvDone core) s = .next s))

/-! ## Events of registers, host ports and errors -/

/-- R335, R340, R366, R369, R397, R400, R412, R414, R415: what a register write leaves to be read at the same address. Bases drop their low 12 bits, reserved
fields read 0, world registers keep their values from state 6 on; memory is written by a supervisor only inside its windows and where its world may.
A supervisor core that bring-up has released takes its interrupt, or executes the RV64 instruction at its pc (R3, R418; its encodings and traps
are the family's, log 111).
The model's choices: reserved bits and widths (log 69), the state in which WDCTL.EN can be set (log 78), TUSE and CONNBASE (log 79), memory as a register write (log 80), when a window or a binding stands (log 90), a secure region for the root core (log 128), BOOTSTAT (log 129). -/
def Obligations.RegisterEvents : Prop :=
  ∀ (s : State) (width v : Nat), s.parts.length = 4 → s.cores.length = 192 → v < 2 ^ width →
    let base := v / 4096 * 4096
    (∀ c off want, c < 192 → width = 64 → (off, want) ∈ [(0x08, base), (0x10, base), (0x18, base)] →
      let a := 0xFFF0000000 + 0x10000 * s.partOf c + off
      ∃ t : State, exec (.registerWrite (.supervisor c) a width v) s = .next t ∧ coreSideRead t (some c) a width = want ∧ t = { s with parts := t.parts })
    ∧ (∀ c n, c < 192 → width = 128 → n < 64 → SMap.wf 0 (s.part (s.partOf c)).mwinReg = true →
      let a := 0xFFF0000000 + 0x10000 * s.partOf c + 0x400 + 16 * n
      ∃ t : State, exec (.registerWrite (.supervisor c) a width v) s = .next t ∧ coreSideRead t (some c) a width = windowFields v
        ∧ (partIdle s (s.partOf c) = false → (t.part (s.partOf c)).mwin = (s.part (s.partOf c)).mwin)
        ∧ (partIdle s (s.partOf c) = true → (t.part (s.partOf c)).mwin = (t.part (s.partOf c)).mwinReg))
    ∧ (∀ c w off want, c < 192 → (w, off, want) ∈ [(64, 0x08, base), (64, 0x58, field v 11 0 + slotUses s (field v 11 0) % 2 ^ 16 * 2 ^ 32),
          (32, 0x38, v % 128)] → width = w →
      let a := 0xFFF1000000 + 0x10000 * c + off
      ∃ t : State, exec (.registerWrite (.supervisor c) a width v) s = .next t ∧ coreSideRead t (some c) a width = want ∧ t = { s with cores := t.cores })
    ∧ (∀ w off want, (w, off, want) ∈ [(192, 0, v), (64, 0x20, v % 2 ^ 48), (32, 0x28, v % 2 ^ 23)] → width = w →
      let a := 0xFFF3000000 + off
      (s.root.boot < 6 → ∃ t : State, exec (.registerWrite .root a width v) s = .next t ∧ coreSideRead t none a width = want ∧ t = { s with root := t.root })
      ∧ (6 ≤ s.root.boot → exec (.registerWrite .root a width v) s = .next s)
      ∧ ∀ c, exec (.registerWrite (.supervisor c) a width v) s = .next s)
    ∧ (∀ c q, q < 4 → width = 64 →
      let a := 0xFFF5000000 + 0x10000 * q
      ∃ t : State, exec (.registerWrite (.supervisor c) a width v) s = .next t ∧ coreSideRead t (some c) a width = v ∧ t = { s with parts := t.parts })
    ∧ (∀ c a, regPlace a = .memory a → width % 8 = 0 → s.mem.wf = true →
      (s.inWindow (s.partOf c) a = true → sideShut s (some c) a (width / 8) = false → s.writable (.dev a) (width / 8) = true →
        ∃ t : State, exec (.registerWrite (.supervisor c) a width v) s = .next t ∧ t.mem.readNat a (width / 8) = v
          ∧ t = { s with mem := t.mem, tainted := t.tainted, poison := t.poison }
          ∧ ∀ b, b < a ∨ a + width / 8 ≤ b → t.mem.get b = s.mem.get b)
      ∧ (s.inWindow (s.partOf c) a = true → sideShut s (some c) a (width / 8) = false → s.writable (.dev a) (width / 8) = false →
        exec (.registerWrite (.supervisor c) a width v) s = .next (contestAll s (.dev a) (width / 8)))
      ∧ (s.inWindow (s.partOf c) a = false ∨ sideShut s (some c) a (width / 8) = true →
        exec (.registerWrite (.supervisor c) a width v) s = .next s ∧ coreSideRead s (some c) a width = 0))
    ∧ (∀ c a n, sideShut s (some c) a n = true ↔ s.secureCore c = false ∧ ∃ i, i < n ∧ (secureRegion s.root.srgn (a + i)).isSome = true)
    ∧ (∀ c k off a, regPlace a = .combwin k off → width % 8 = 0 → k < s.cores.length → bankBusy s (.rawComb k off) = true →
      ∃ t : State, exec (.registerWrite (.supervisor c) a width v) s = .next t ∧ (t.core k).comb = (s.core k).comb
        ∧ (t.core k).combWait = (s.core k).combWait ++ (natToBytes (width / 8) v).zipIdx.map (fun p => (off + p.2, p.1)))
    ∧ (∀ port fn p c, functionPart s.root.mode port fn = some p → portAnswers s port = true → c < 1024 → width = 32 →
      SMap.wf 0 (s.part p).pasidReg = true → p < 4 →
      ∃ t : State, exec (.registerWrite (.host port fn) (0x5000 + 4 * c) width v) s = .next t ∧ t = { s with parts := t.parts }
        ∧ hostSideRead t port fn (0x5000 + 4 * c) width = field v 31 31 * 2 ^ 31 + field v 20 0
        ∧ ((SMap.get 0#32 (s.part p).pasid c).getLsbD 31 = true → (t.part p).pasid = (s.part p).pasid))
    ∧ (∀ port fn a, functionPart s.root.mode port fn = none ∨ portAnswers s port = false →
      exec (.registerWrite (.host port fn) a width v) s = .next s)
    ∧ (∀ port fn off, portAnswers s port = false → off ≠ 0x4040 → hostSideRead s port fn off width = 0)
    ∧ (∀ core w, core < 192 → 4 ≤ s.root.boot → s.root.boot ≠ 15 →
      let u := (s.core core).sup
      let runs := fun v => superviseStep core s = s.updCore core (fun x => { x with sup := v })
      (∀ i, rvIrq u = some i → runs (rvEnter u true i 0))
      ∧ (rvIrq u = none → u.waiting = false → w < 2 ^ 32 → w % 4 = 3 →
        rvHalf s core u u.pc = (.ok (w % 2 ^ 16), s) → rvHalf s core u (u.pc + 2) = (.ok (w / 2 ^ 16), s) →
        (∀ rd a imm, rd < 32 → a < 32 → imm < 4096 → w = rvEncI imm a 0 rd 0x13 →
          runs (rvRetire (setRvX { u with pc := u.pc + 4 } rd (rvX u a + rvSext 12 imm))))
        ∧ (∀ rd a b f3, rd < 32 → a < 32 → b < 32 → f3 < 8 → w = rvEncR 0 b a f3 rd 0x33 →
          runs (rvRetire (setRvX { u with pc := u.pc + 4 } rd (rvAlu f3 false (rvX u a) (rvX u b)))))
        ∧ (w = 0x73 → runs (rvEnter u false (8 + u.priv.toNat) 0)))
      ∧ (∀ a b, u.priv = 3 → regPlace a.toNat = .memory b → (∀ i < 2, s.inWindow (s.partOf core) (b + i) = true) →
        sideShut s (some core) b 2 = false → s.poisonedIn (.dev b) 2 = false → rvHalf s core u a = (.ok (s.mem.readNat b 2), s))
      ∧ (∀ cause tval, u.priv = 3 → SMap.wf 0 u.csrs = true → let x := rvEnter u false cause tval
        x.priv = 3 ∧ x.pc = rvC u 0x305 &&& ~~~3#64 ∧ rvC x 0x341 = u.pc ∧ rvC x 0x342 = BitVec.ofNat 64 cause
          ∧ rvC x 0x343 = BitVec.ofNat 64 tval ∧ x.x = u.x))

/-- R232, R389-R391, R396, R398-R403: the host lease, the regions of a partition, snoops, the host's own accesses, and the requests of a port to its host.
The model's choices: page requests (log 73), the port that a region change is judged by (log 76), host atomics of mixed widths (log 98). -/
def Obligations.HostPortEvents : Prop :=
  (∀ (s : State) (port : Nat) (len : BitVec 16), s.root.mode = 0 → len ≠ 0 → portAnswers s port = true →
    let expiry := s.gtb + len.toNat * 1000
    ∃ t : State, exec (.hlrenew port len) s = .next t ∧ t = { s with lease := t.lease }
      ∧ (s.lease.held = false → t.lease.active = port ∧ t.lease.held = true ∧ t.lease.hlexp = expiry)
      ∧ (s.lease.held = true → port = s.lease.active → s.gtb < s.lease.hlexp → t.lease.hlexp = expiry ∧ t.lease.active = port)
      ∧ (s.lease.held = true → port ≠ s.lease.active → t = s))
  ∧ (∀ (s : State) (port : Nat) (len : BitVec 16), portAnswers s port = false → exec (.hlrenew port len) s = .next s)
  ∧ (∀ s : State, s.root.mode = 0 → s.lease.held = true → s.lease.expired = false → s.lease.hlexp ≤ s.gtb → s.lease.active < s.ports.length →
    ((s.port (1 - s.lease.active)).up = true →
      ∃ t : State, exec .hostLeaseExpire s = .next t ∧ t.lease.active = 1 - s.lease.active ∧ t.lease.takeovers = s.lease.takeovers + 1
        ∧ t.lease.hlexp = s.gtb + s.lease.lastLen * 1000 ∧ (t.port s.lease.active).atc = [] ∧ t.lease.expired = false)
    ∧ ((s.port (1 - s.lease.active)).up = false →
      ∃ t : State, exec .hostLeaseExpire s = .next t ∧ t = { s with lease := { s.lease with expired := true } }))
  ∧ (∀ (s : State) (part n : Nat) (st : BitVec 2), part < s.parts.length → n < 1024 → SMap.wf 0 (s.part part).rgn = true →
    SMap.wf 0 (s.part part).rgnNew = true →
    let e := regionEntry s part n
    let cxl := (s.port (msixPort s part)).cxlCache
    (e.getLsbD 66 = true ∨ portAnswers s (msixPort s part) = false → exec (.regionStateWrite part n st) s = .next s)
    ∧ (∀ port v, e.getLsbD 66 = true ∨ (v.testBit 67 = false ∧ v % 4 ≠ 1 ∧ (s.port port).cxlCache = false) → writeRegion s port part n v = s)
    ∧ (e.getLsbD 66 = false → e.getLsbD 67 = false → st ≠ 1 → cxl = false → exec (.regionStateWrite part n st) s = .next s)
    ∧ (e.getLsbD 66 = false → e.getLsbD 64 = true → (e.getLsbD 67 = true ∨ st = 1 ∨ cxl = true) → portAnswers s (msixPort s part) = true →
      (st = 3 → e.toNat % 4 = 3 ∨ contestedCount s part < 256) →
      ∃ t : State, exec (.regionStateWrite part n st) s = .next t ∧ (regionEntry t part n).getLsbD 66 = true
        ∧ (regionEntry t part n).toNat % 4 = e.toNat % 4 ∧ movingTo t part n = some st.toNat ∧ t = { s with parts := t.parts })
    ∧ (∀ st', movingTo s part n = some st' → st' < 4 →
      (∀ p ∈ s.eDev ++ s.eFab, regionKeys s part n p.1 = true → p.2 ≤ s.gtb) →
      (∀ o ∈ s.mops, ∀ x ∈ o.elems, x.phase ≠ .sent ∧ ∀ k, x.phase ≠ .dirty k) →
      ∃ t : State, exec (.regionChangeDone part n) s = .next t ∧ (regionEntry t part n).getLsbD 66 = false
        ∧ (regionEntry t part n).toNat % 4 = st' ∧ movingTo t part n = none ∧ t = { s with parts := t.parts }))
  ∧ (∀ (s : State) (part addr : Nat) (own : Bool),
    (∃ t x, exec (.hostSnoop part addr own) s = .next t ∧ t.snoops = s.snoops ++ [x] ∧ x.part = part ∧ x.addr = addr / 128 * 128 ∧ x.own = own
      ∧ t.mem = s.mem ∧ (own = false → t.parts = s.parts))
    ∧ (∀ x, s.snoops.find? (fun x => x.part == part && x.addr == addr / 128 * 128) = some x →
      (∀ p ∈ portsOf s part, SMap.get 0 s.eDev (Target.host p (addr / 128 * 128)).leaseKey ≤ s.gtb) →
      (∀ p, regionAt s part (.host 0 (addr / 128 * 128)) = some p → movingTo s part p.1 = none) →
      exec (.snoopResponse part addr) s = .next { s with snoops := s.snoops.erase x }))
  ∧ (∀ (s : State) (port fn part addr : Nat) (data : List Byte) (len x : Nat) (add : Bool), functionPart s.root.mode port fn = some part →
    portAnswers s port = true → hostRefused s port fn addr (max len data.length) = false →
    sharedRegion s part (.dev addr) = none → s.writable (.dev addr) (max len data.length) = true → s.mem.wf = true →
    (∀ i, i < max len data.length → s.inWindow part (addr + i) = true) → s.ports.length = 2 →
    (hostRefused s port fn addr len = false →
      ∃ (t : State) (a : Reply), exec (.hostAccess port fn (.read addr len)) s = .next t ∧ t = { s with ports := t.ports }
        ∧ (t.port port).replies = (s.port port).replies ++ [a] ∧ a.data = s.mem.read addr len
        ∧ (a.poisoned = true ↔ ∃ k, PoisonLoc.memory k ∈ s.poison ∧ 32 * k < addr + len ∧ addr < 32 * k + 32))
    ∧ (max len data.length = data.length →
      ∃ t : State, exec (.hostAccess port fn (.write addr data)) s = .next t ∧ t.mem = s.mem.write addr data ∧ t.eDev = s.eDev
        ∧ t = { s with mem := t.mem, poison := t.poison })
    ∧ (max len data.length = len →
      ∃ t : State, exec (.hostAccess port fn (.atomic addr len add x)) s = .next t
        ∧ t.mem.readNat addr len = (if add then s.mem.readNat addr len + x else x) % 2 ^ (8 * len)
        ∧ ∀ a, a < addr ∨ addr + len ≤ a → t.mem.get a = s.mem.get a))
  ∧ (∀ (s : State) (port fn part addr len : Nat), functionPart s.root.mode port fn = some part → portAnswers s port = true →
    (∀ data, regionAt s part (.host port addr) = none →
      ∃ t : State, exec (.hostAccess port fn (.ownWrite addr data)) s = .next t ∧ t = { s with hostMem := s.hostMem.write (hostKey port addr) data })
    ∧ (∀ n data, regionAt s part (.host port addr) = some (n, 0) → data.length = len →
      ∀ op ∈ ([.ownRead addr len, .ownWrite addr data] : List HostOp), ∃ t : State, exec (.hostAccess port fn op) s = .next t
        ∧ t = { s with hostMem := t.hostMem, freeCtr := t.freeCtr }
        ∧ ∀ a, a < hostKey port addr ∨ hostKey port addr + len ≤ a → t.hostMem.get a = s.hostMem.get a)
    ∧ (∀ x add, regionAt s part (.host port addr) = none → s.hostMem.wf = true → crossing s port addr len = none →
      ∃ t : State, exec (.hostAccess port fn (.ownAtomic addr len add x)) s = .next t
        ∧ t.hostMem.readNat (hostKey port addr) len = (if add then s.hostMem.readNat (hostKey port addr) len + x else x) % 2 ^ (8 * len))
    ∧ (hostRefused s port fn addr len = true → port < s.ports.length →
      ∀ op ∈ ([.read addr len, .atomic addr len true 1, .atomic addr len false 1] : List HostOp),
      ∃ t : State, exec (.hostAccess port fn op) s = .next t ∧ t = { s with ports := t.ports, hostMem := t.hostMem, freeCtr := t.freeCtr }
        ∧ (t.port port).replies = (s.port port).replies ++ [{ data := List.replicate len 0, poisoned := false }]))
  ∧ (∀ (s : State) (port ctx page : Nat) (r : AtsReq), port < s.ports.length →
    (atsReq? s port ctx page false = some r → (s.port port).up = true →
      (∀ frame bits w, (w || !r.write) = true →
        (SMap.get 0#32 (s.part (ctx / 1024)).pasid (ctx % 1024)).getLsbD 31 = true →
        ∃ t : State, exec (.atsTranslationCompletion port ctx page (.granted frame bits w)) s = .next t
          ∧ (t.port port).atc.head? = some { pasid := (SMap.get 0#32 (s.part (ctx / 1024)).pasid (ctx % 1024)).toNat % 2 ^ 20,
                                             page := page / 2 ^ bits * 2 ^ bits, frame := frame / 2 ^ bits * 2 ^ bits, writable := w,
                                             bits := bits }
          ∧ (t.port port).atc.length ≤ 4096 ∧ ∀ q ∈ (t.port port).reqs, ¬ (q.ctx = ctx ∧ q.page = page))
      ∧ (((s.port port).reqs.filter (·.pageRequest)).length < 512 →
        ∃ t : State, exec (.atsTranslationCompletion port ctx page .notPresent) s = .next t
          ∧ ∀ q ∈ (t.port port).reqs, q.ctx = ctx → q.page = page → q.pageRequest = true ∧ q.since = s.gtb)
      ∧ ∀ a ∈ ([.unsupported, .abort] : List AtsResult), ∃ t : State, exec (.atsTranslationCompletion port ctx page a) s = .next t
          ∧ ∀ q ∈ (t.port port).reqs, q.ctx = ctx → q.page = page → q.refused = true)
    ∧ (∀ ok, atsReq? s port ctx page true = some r → r.core < s.cores.length → waiterDue s r = false →
      ∃ t : State, exec (.pageRequestGroupResponse port ctx page ok) s = .next t
        ∧ (∀ q ∈ (t.port port).reqs, ¬ (q.ctx = ctx ∧ q.page = page))
        ∧ (ringCapacity (s.core r.core).tqCfg ≤ ((s.core r.core).tqTail - (s.core r.core).tqHead).toNat →
            ∃ e, (t.core r.core).tqWait = (s.core r.core).tqWait ++ [e] ∧ e.kind = 2 ∧ e.ctx = ctx % 1024
              ∧ e.record.addr = BitVec.ofNat 64 (page * 4096) ∧ e.record.det1 = (if ok then 6 else 1)))
    ∧ (∀ ok, atsReq? s port ctx page true = some r → waiterDue s r = true → exec (.pageRequestGroupResponse port ctx page ok) s = .next s)
    ∧ ((s.port port).reqs.find? (fun q => q.ctx == ctx && q.page == page && !q.refused) = some r → r.pageRequest = true →
      (r.since + 100000000 ≤ s.gtb → waiterDue s r = false → ∃ t : State, exec (.pageResponseTimeout port ctx page) s = .next t
        ∧ ∀ q ∈ (t.port port).reqs, ¬ (q.ctx = ctx ∧ q.page = page))
      ∧ (s.gtb < r.since + 100000000 → exec (.pageResponseTimeout port ctx page) s = .next s))
    ∧ (∀ pasid pages, (s.port port).up = true → (s.port port).invals.length < 32 →
      ∃ t : State, exec (.atsInvalidateRequest port pasid page pages) s = .next t ∧ (t.port port).invals.length = (s.port port).invals.length + 1
        ∧ (∀ e ∈ (t.port port).atc, ¬ (e.pasid = pasid ∧ e.meets page pages = true))
        ∧ ∀ e ∈ (s.port port).atc, e.pasid ≠ pasid → e ∈ (t.port port).atc)
    ∧ (∀ i, (s.port port).invals.find? (invalOver s) = some i →
      ∃ t : State, exec (.invalidateCompletion port) s = .next t ∧ (t.port port).invals = (s.port port).invals.erase i ∧ t = { s with ports := t.ports }))

/-- R392, R394, R395, R399, R404, R418: errors. Corrected ones are counted, uncorrectable ones poison their place, and each
is to be recorded on every port that it concerns; a machine check tells every wave of the core and takes
it out of service; records go to the error ring, wait, or are lost; a link that falls loses its protocols.
The model's choices: when a record is written, and one that no error of the model left (log 117). -/
def Obligations.ErrorEvents : Prop :=
  (∀ (s : State) (core : Nat), core < s.cores.length →
    ∃ t : State, exec (.eccCorrectedError core) s = .next t ∧ t = { s with cores := t.cores, root := t.root, freeCtr := t.freeCtr }
      ∧ (t.core core).cecnt = (s.core core).cecnt + 1 ∧ (∀ c, c ≠ core → t.core c = s.core c) ∧ t.root = { s.root with errs := t.root.errs }
      ∧ (s.root.errs = [] → ∃ d, t.root.errs = [d] ∧ d.part = some (s.partOf core) ∧ d.record.kind = 1 ∧ d.record.index = core % 256
          ∧ 1 ≤ d.record.unit ∧ d.record.unit ≤ 6
          ∧ d.record.count = 1 ∧ d.record.egtb = s.gtb))
  ∧ (∀ (s : State) (loc : PoisonLoc), ∃ t : State, exec (.uncorrectableDataError loc) s = .next t
      ∧ t = { s with poison := t.poison, root := t.root, freeCtr := t.freeCtr } ∧ t.root = { s.root with errs := t.root.errs }
      ∧ (∀ x, x ∈ t.poison ↔ x ∈ s.poison ∨ x = loc)
      ∧ (loc ∉ s.poison → ∃ d, t.root.errs = s.root.errs ++ [d] ∧ d.record.kind = 2 ∧ d.record.egtb = s.gtb ∧ d.told = []))
  ∧ (∀ (s : State) (a : Nat), exec (.patrolScrub a) s = .next s)
  ∧ (∀ (s : State) (core unit : Nat), core < 192 → s.cores.length = 192 → (s.waves.map (·.key)).Nodup →
    ∃ t : State, exec (.machineCheck core unit) s = .next t ∧ (t.core core).oos = true ∧ unit ∈ (t.core core).lost ∧ t.mem = s.mem
      ∧ (∃ d, t.root.errs = s.root.errs ++ [d] ∧ d.part = some (s.partOf core) ∧ d.record.kind = 4 ∧ d.record.unit = unit ∧ d.record.index = core)
      ∧ ∀ w ∈ s.waves, if w.key.core = core ∧ w.finished = false then
          ∃ a, t.wave? w.key = some { w with async := w.async ++ [a] } ∧ a.record.code = Trap.machineCheck ∧ a.prio = 0
            ∧ a.record.det1 = BitVec.ofNat 32 unit
        else t.wave? w.key = some w)
  ∧ (∀ (s : State) (core : Nat), core < s.cores.length → (s.core core).oos = true → (∀ w ∈ s.waves, w.key.core = core → w.finished = true) →
    ((s.core core).lost = [3] →
      ∃ t : State, exec (.coreSelfTestComplete core true) s = .next t ∧ (t.core core).oos = false ∧ (t.core core).diag = true
        ∧ (t.core core).lost = [] ∧ t = { s with cores := t.cores })
    ∧ exec (.coreSelfTestComplete core false) s = .next s)
  ∧ (∀ (s : State) (port : Nat) (r : ErrRecord) (d : ErrDue), port < 2 → s.ports.length = 2 →
    s.root.errs.find? (fun d => d.record == r) = some d →
    let p := s.port port
    let cap := ringCapacity p.errCfg
    ((d.ripe s = false ∨ port ∉ d.ports s ∨ port ∈ d.told) → exec (.errorRecordWrite port r) s = .next s)
    ∧ (d.ripe s = true → port ∈ d.ports s → port ∉ d.told →
    (∃ t : State, exec (.errorRecordWrite port r) s = .next t ∧ t.root.errs = s.root.errs.flatMap (fun x => if x = d then
        (if ∀ q ∈ d.ports s, q = port ∨ q ∈ d.told then [] else [{ d with told := port :: d.told }]) else [x]))
    ∧ (errUsed p < cap → p.errWait = [] → p.errCfg.getLsbD 4 = false →
      ∃ t : State, exec (.errorRecordWrite port r) s = .next t ∧ (t.port port).errTail = p.errTail + 1 ∧ (t.port port).errRing = p.errRing ++ [r]
        ∧ t.mem = s.mem ∧ ∃ l, t.hostMem = s.hostMem.write (hostKey port (p.errBase.toNat + 256 * (p.errTail.toNat % cap))) l
            ∧ l.length = 256 ∧ (l.drop 200).take 48 = vendorSection r)
    ∧ (cap ≤ errUsed p → r.kind ≠ 1 → ∃ t : State, exec (.errorRecordWrite port r) s = .next t ∧ (t.port port).errWait = p.errWait ++ [(r, s.gtb)]
        ∧ t = { s with ports := t.ports, root := t.root })
    ∧ (cap ≤ errUsed p → r.kind = 1 → (∀ x ∈ p.errRing, sameSpot x r = false) → p.errLost ≠ BitVec.allOnes 32 →
      ∃ t : State, exec (.errorRecordWrite port r) s = .next t ∧ (t.port port).errLost = p.errLost + 1
        ∧ t = { s with ports := t.ports, root := t.root })))
  ∧ (∀ (s : State) (port : Nat) (r : ErrRecord), port < 2 → s.root.errs.find? (fun d => d.record == r) = none →
    exec (.errorRecordWrite port r) s = exec (.errorRecordWrite port r)
      { s with root := { s.root with errs := s.root.errs ++ [{ record := r, part := none, told := [] }] } })
  ∧ (∀ (s : State) (port : Nat), port < 2 → s.ports.length = 2 →
    let p := s.port port
    (∀ x since rest, p.errWait = (x, since) :: rest → since + 1000000000 ≤ s.gtb → p.errLost ≠ BitVec.allOnes 32 →
      ∃ t : State, exec (.errorRingWaitTimeout port) s = .next t ∧ (t.port port).errWait = rest ∧ (t.port port).errLost = p.errLost + 1
        ∧ t = { s with ports := t.ports })
    ∧ (∃ t : State, exec (.hostPortLinkDown port) s = .next t ∧ (t.port port).up = false ∧ (t.port port).cxlCache = false
        ∧ (t.port port).cxlMem = false ∧ (t.port port).width = 0 ∧ (t.port port).atc = p.atc ∧ (t.port port).reqs = p.reqs)
    ∧ (∀ cc cm w, 3 ≤ s.root.boot → s.root.boot ≠ 15 → ∃ t : State, exec (.hostPortLinkUp port cc cm w) s = .next t ∧ (t.port port).up = true
        ∧ (t.port port).cxlCache = cc ∧ (t.port port).cxlMem = cm ∧ (t.port port).width = w ∧ t = { s with ports := t.ports }))

/-! ## Events of the fabric and of bring-up -/

/-- R208, R405-R412, R416, R418: the links, which come up from bring-up state 3 on. A flit leaves sealed under the active key with the next IC and LSEQ, and is kept until it is acknowledged; one that arrives in
order and authentic is delivered once and has its effect, unless it comes from a block of the other world and meets a secure region; to its connection in the order of sequence numbers or, for another rank, on to that rank; what is unacknowledged when a
link goes down is to be resent; a third failure in a row takes the link down; the GTB slews to the reference; keys are written into slots that are not
in use.
The model's choices: what an acknowledgement names (log 43), the marker and the end of a key (logs 81, 123), the layout of payloads and what they ask (log 82), a slew (log 83), from which state links train (log 119), the world of a fabric port (log 127). -/
def Obligations.FabricEvents : Prop :=
  ∀ (s : State) (p : Nat), p < 15 → s.fabric.links.length = 15 →
    let l := s.link p
    let k := l.tx l.txSlot
    let only := fun t : State => t = { s with fabric := t.fabric } ∧ ∀ q, q ≠ p → t.link q = s.link q
    (∀ ty dst ctx cls payload, canSend s p (ty == 1) = true → ty ≠ 2 → ty.toNat ≤ 4 → k.ic + 2 ^ 16 + 1 < 2 ^ 48 →
      (ty = 1 → waitingAt s p = none ∧ classMay s dst ctx cls = true ∧ s.actEntry 2 cls.toNat 0 = none) →
      let c := s.conn ctx dst cls
      let body := if ty = 1 then Config.connFrame ctx cls c.txSeq payload else if ty = 3 then seqBytes (l.rxSeq - 1)
        else if ty = 4 then seqBytes l.rxSeq else payload
      ∃ t f, exec (.flitTransmit p ty dst ctx cls payload) s = .next t ∧ only t ∧ (t.link p).wire = l.wire ++ [f]
        ∧ f = sealFlit s l ty (if ty = 1 then dst else BitVec.ofNat 4 (peerOf s p)) body
        ∧ t.conn ctx dst cls = (if ty = 1 then
            { c with txSeq := c.txSeq + 1, window := c.window ++ [{ seq := c.txSeq, payload := body, sent := some (p, l.txSeq) }] } else c)
        ∧ (∀ i r n, ¬ (i = ctx ∧ r = dst ∧ n = cls) → t.conn i r n = s.conn i r n)
        ∧ (t.link p).tx l.txSlot = { k with ic := k.ic + 1 } ∧ (t.link p).keyNotice = (l.keyNotice || decide (2 ^ 47 ≤ k.ic))
        ∧ (t.link p).replay = (if ty = 1 then l.replay ++ [f] else l.replay)
        ∧ (t.link p).txSeq = (if ty = 1 then l.txSeq + 1 else l.txSeq))
    ∧ (∀ dst ctx cls payload, canSend s p true = true → k.ic + 2 ^ 16 + 1 < 2 ^ 48 →
      (waitingAt s p = none → 256 ≤ (s.conn ctx dst cls).window.length → exec (.flitTransmit p 1 dst ctx cls payload) s = .next s)
      ∧ (∀ x, waitingAt s p = some (.relayed x) → ∃ t f, exec (.flitTransmit p 1 dst ctx cls payload) s = .next t ∧ only t
          ∧ (t.link p).wire = l.wire ++ [f] ∧ f = sealFrom l x.src x.ty x.dst x.payload
          ∧ (t.link p).replay = (if x.ty = 1 ∨ x.ty = 2 then l.replay ++ [f] else l.replay)
          ∧ t.fabric.transit = s.fabric.transit.erase x ∧ t.fabric.conns = s.fabric.conns)
      ∧ (∀ c u, waitingAt s p = some (.again c u) → ∃ t f, exec (.flitTransmit p 1 dst ctx cls payload) s = .next t ∧ only t
          ∧ (t.link p).wire = l.wire ++ [f] ∧ (t.link p).replay = l.replay ++ [f] ∧ f = sealFlit s l 1 c.peer u.payload
          ∧ t.fabric.transit = s.fabric.transit))
    ∧ (canSend s p false = true → k.ic + 2 ^ 16 + 1 < 2 ^ 48 →
      ∃ t f, exec (.timeFlitSend p) s = .next t ∧ (t.link p).wire = l.wire ++ [f] ∧ f.ty = 5 ∧ f.ic = BitVec.ofNat 48 k.ic
        ∧ (t.link p).replay = l.replay ∧ (t.link p).txSeq = l.txSeq)
    ∧ (∀ q : Nat, portWired s p = true → l.up = false → routePort s (BitVec.ofNat 4 (peerOf s p)) = some q → canSend s q false = true →
      ((s.link q).tx (s.link q).txSlot).ic + 2 ^ 16 + 1 < 2 ^ 48 →
      ∃ t f, exec (.timeFlitSend p) s = .next t ∧ (t.link q).wire = (s.link q).wire ++ [f] ∧ f.ty = 5 ∧ f.dst = BitVec.ofNat 4 (peerOf s p)
        ∧ f.src = ownRank s)
    ∧ (canSend s p false = true → k.ic = 2 ^ 48 - 1 → ∀ dst ctx cls payload,
      ∃ t f, exec (.flitTransmit p 0 dst ctx cls payload) s = .next t ∧ (t.link p).wire = l.wire ++ [f] ∧ f.ic = BitVec.ofNat 48 k.ic
        ∧ (t.link p).up = false ∧ (t.link p).exhausted = true)
    ∧ (∀ f : Flit, l.up = true → authentic l f = true →
      (f.ty = 1 → f.lseq = l.rxSeq → connFull s l f = true → exec (.dataFlitReceive p f) s = .next s)
      ∧ (f.ty = 1 → f.lseq = l.rxSeq → connFull s l f = false → ∃ t, exec (.dataFlitReceive p f) s = .next t
        ∧ (∀ q, q ≠ p → t.link q = s.link q) ∧ (t.link p).delivered = l.delivered ++ [openFlit l f] ∧ (t.link p).rxSeq = l.rxSeq + 1 ∧ (t.link p).fails = 0
        ∧ (t.link p).discarding = false
        ∧ (f.dst ≠ ownRank s → only t ∧ t.fabric.conns = s.fabric.conns
            ∧ t.fabric.transit = s.fabric.transit ++ [{ src := f.src, dst := f.dst, ty := 1, payload := (openFlit l f).payload }])
        ∧ (f.dst = ownRank s → t.fabric.transit = s.fabric.transit ∧ ∀ ctx cls seq body,
            Config.connParse (openFlit l f).payload = (ctx, cls, seq, body) →
            let refused := fun (secure : Bool) (pa : Nat) => peerRefused s (secure && s.root.sbio.getLsbD (8 + p)) pa
            let c := s.conn ctx f.src cls
            let d := t.conn ctx f.src cls
            (seq = c.rxSeq → c.early = [] → d.rxSeq = c.rxSeq + 1 ∧ d.delivered = c.delivered ++ [body]
              ∧ (Config.connMessage body = .other → only t)
              ∧ (∀ secure keep pa n code, Config.connMessage body = .load secure keep pa n code → pa % 128 + n ≤ 128 →
                  (refused secure pa = true → only t ∧ t.fabric.posts = s.fabric.posts ++
                    [{ ctx := ctx, rank := f.src.toNat, payload := Config.connAnswer seq (List.replicate n 0) }])
                  ∧ (refused secure pa = false → SMap.wf 0 s.eFab = true → s.poisonedIn (.dev pa) n = false →
                    t.mem = s.mem ∧ t.mops = s.mops
                    ∧ t.fabric.posts = s.fabric.posts ++ [{ ctx := ctx, rank := f.src.toNat, payload := Config.connAnswer seq (s.mem.read pa n) }]
                    ∧ (peerLease s keep pa code = true → s.gtb + 64 * 2 ^ code ≤ SMap.get 0 t.eFab (pa / 128))
                    ∧ (peerLease s keep pa code = false → t.eFab = s.eFab)))
              ∧ (∀ secure pa data, Config.connMessage body = .store secure pa data → pa % 128 + data.length ≤ 128 →
                  (refused secure pa = true → only t)
                  ∧ (refused secure pa = false → ∃ o ∈ t.mops, o.kind = .store ∧ o.ctx = ctx
                    ∧ o.w = peerWave f.src.toNat ∧ o.elems.map (fun e => (e.target, e.data)) = [(some (.dev pa), bytesToNat data)]))
              ∧ (∀ secure op pa n data cmp, Config.connMessage body = .update secure op pa n data cmp → pa % 128 + n ≤ 128 →
                  (refused secure pa = true → only t)
                  ∧ (refused secure pa = false → ∃ o ∈ t.mops, o.kind = peerKind op ctx pa ∧ o.ctx = ctx ∧ o.w = peerWave f.src.toNat
                    ∧ o.elems.map (fun e => (e.target, e.size, e.data, e.cmp, e.flit)) = [(some (.dev pa), n, data, cmp, some seq)]))
              ∧ (∀ secure home entry lock sender args, Config.connMessage body = .ship secure home entry lock sender args →
                  (sectionAt s ctx entry = none → only t ∧ t.ships = s.ships)
                  ∧ ∀ kern, sectionAt s ctx entry = some kern → ∃ o, t.ships = s.ships ++ [o] ∧ o.ctx = ctx ∧ o.entry = entry ∧ o.kernel = kern
                    ∧ o.reqs.map (fun r => (r.home, r.lock, r.args, r.flit)) = [(home % 48, lock, args, some seq)])
              ∧ (∀ n data, Config.connMessage body = .answer n data → ∀ o ∈ s.loads, o.ctx = ctx → ∃ o' ∈ t.loads, o'.id = o.id
                  ∧ ∀ (i : Nat) (e : LElem), o.elems[i]? = some e → ∀ pa, e.target = .peer f.src.toNat pa →
                    o'.elems[i]? = some (if e.flit = some n then { e with reply := some data } else e))
              ∧ (∀ n status results, Config.connMessage body = .ended n status results → ∀ o ∈ s.ships, o.ctx = ctx → o.sender = none →
                  ∃ o' ∈ t.ships, o'.id = o.id ∧ ∀ (i : Nat) (r : ShipReq), o.reqs[i]? = some r → r.rank = f.src.toNat → r.flit = some n → r.result = none →
                    o'.reqs[i]? = some { r with arrived := true, result := some (status, results) }))
            ∧ (seq ≠ c.rxSeq → only t ∧ d.rxSeq = c.rxSeq ∧ d.delivered = c.delivered)
            ∧ (seq ≠ c.rxSeq → (seq - c.rxSeq).toNat < 256 → ∃ b, (seq, b) ∈ d.early)))
      ∧ (f.ty = 1 → f.lseq ≠ l.rxSeq → (l.rxSeq - f.lseq).toNat < 2 ^ 15 → exec (.dataFlitReceive p f) s = .next s)
      ∧ (f.ty = 1 → l.discarding = false → 2 ^ 15 ≤ (l.rxSeq - f.lseq).toNat → canSend s p false = false →
        ∃ t, exec (.dataFlitReceive p f) s = .next t ∧ only t ∧ (t.link p).discarding = true ∧ (t.link p).delivered = l.delivered)
      ∧ (f.ty = 2 → f.lseq = l.rxSeq → ∃ t, exec (.keyMarkerReceive p f) s = .next t ∧ only t ∧ (t.link p).rxSeq = l.rxSeq + 1
        ∧ (t.link p).rxSlot = ((openFlit l f).payload.headD 0).getLsbD 0 ∧ ((t.link p).rx l.rxSlot).valid = false))
    ∧ (∀ (f : Flit) (x : Int) (i : Instr), l.up = true → authentic l f = false → l.discarding = false →
      (f.ty, i) ∈ [(0#4, .dataFlitReceive p f), (1, .dataFlitReceive p f), (2, .keyMarkerReceive p f), (3, .acknowledgementReceive p f),
        (4, .negativeAckReceive p f), (5, .timeFlitReceive p ⟨f, x⟩), (6, .dataFlitReceive p f), (15, .dataFlitReceive p f)] →
      (l.fails = 2 → ∃ t, exec i s = .next t ∧ (t.link p).up = false ∧ (t.link p).delivered = l.delivered)
      ∧ (l.fails.toNat < 2 → canSend s p false = false → ∃ t, exec i s = .next t ∧ only t ∧ (t.link p).fails = l.fails + 1
        ∧ (t.link p).discarding = true ∧ (t.link p).up = true ∧ (t.link p).delivered = l.delivered))
    ∧ (∀ (f : Flit) (x : Int) (i : Instr), l.discarding = true → f.lseq ≠ l.rxSeq →
      (f.ty, i) ∈ [(0#4, .dataFlitReceive p f), (1, .dataFlitReceive p f), (2, .keyMarkerReceive p f), (3, .acknowledgementReceive p f),
        (4, .negativeAckReceive p f), (5, .timeFlitReceive p ⟨f, x⟩), (6, .dataFlitReceive p f), (15, .dataFlitReceive p f)] → exec i s = .next s)
    ∧ (∀ f : Flit, f.ty = 3 → l.up = true → authentic l f = true → k.ic ≠ markerIc → l.discarding = false ∨ f.lseq = l.rxSeq →
      let n := seqOf (openFlit l f).payload
      ∃ t, exec (.acknowledgementReceive p f) s = .next t ∧ only t ∧ (t.link p).fails = 0
        ∧ (t.link p).replay = l.replay.filter (fun f => !seqLe f.lseq n) ∧ (t.link p).wire = l.wire
        ∧ ∀ ctx r cls, (t.conn ctx r cls).window = (s.conn ctx r cls).window.filter (fun u => !u.sent.any (fun x => x.1 == p && seqLe x.2 n)))
    ∧ (∀ f : Flit, f.ty = 4 → l.up = true → authentic l f = true → l.discarding = false ∨ f.lseq = l.rxSeq →
      let n := seqOf (openFlit l f).payload
      ∃ t, exec (.negativeAckReceive p f) s = .next t ∧ only t ∧ (t.link p).fails = 0 ∧ (t.link p).replay = l.replay
        ∧ (t.link p).wire = l.wire ++ l.replay.filter (fun f => seqLe n f.lseq))
    ∧ (∀ (f : Flit) (x : Int), f.ty = 5 → l.up = true → authentic l f = true → l.discarding = false ∨ f.lseq = l.rxSeq →
      (f.dst ≠ ownRank s → ∃ t, exec (.timeFlitReceive p ⟨f, x⟩) s = .next t ∧ only t
        ∧ t.fabric.transit = s.fabric.transit ++ [{ src := f.src, dst := f.dst, ty := 5, payload := (openFlit l f).payload }]
        ∧ t.fabric.offset = s.fabric.offset ∧ t.fabric.lastTime = s.fabric.lastTime)
      ∧ (f.dst = ownRank s → f.src.toNat ≠ referenceRank s → ∃ t, exec (.timeFlitReceive p ⟨f, x⟩) s = .next t ∧ only t
        ∧ t.fabric.offset = s.fabric.offset ∧ t.fabric.lastTime = s.fabric.lastTime)
      ∧ (f.dst = ownRank s → f.src.toNat = referenceRank s → referenceRank s ≠ s.fabric.rank → p = referencePort s →
      ∃ t, exec (.timeFlitReceive p ⟨f, x⟩) s = .next t ∧ t.fabric.offset = x ∧ t.fabric.lastTime = s.gtb
        ∧ (16 < x.natAbs → t.fabric.synced = false) ∧ (s.fabric.lastTime + 1000 ≤ s.gtb → 0 < x → t.gtbAdj = s.gtbAdj + 1 ∧ t.cyc = s.cyc)
        ∧ (s.gtb < s.fabric.lastTime + 1000 → t.gtbAdj = s.gtbAdj ∧ t.cyc = s.cyc)))
    ∧ (timeLost s = true → exec .timeSyncLoss s = .next { s with fabric := { s.fabric with synced := false } } ∧ exec .timeResync s = .next s)
    ∧ (timeLost s = false → exec .timeSyncLoss s = .next s
        ∧ (s.fabric.goodSince + 10000 ≤ s.gtb → exec .timeResync s = .next { s with fabric := { s.fabric with synced := true } }))
    ∧ (l.up = true → ∃ t, exec (.linkDown p) s = .next t ∧ (t.link p).up = false ∧ (t.link p).replay = l.replay ∧ (t.link p).wire = l.wire
        ∧ ∀ ctx r cls, ∀ u ∈ (t.conn ctx r cls).window, u.sent.any (fun x => x.1 == p) = false)
    ∧ (linksTrain s = false → exec (.linkUp p) s = .next s)
    ∧ (linksTrain s = true → portWired s p = true → l.ctl = 1 → l.exhausted = false → l.up = false →
        ∃ t, exec (.linkUp p) s = .next t ∧ (t.link p).up = true ∧ (t.link p).detour = false ∧ (t.link p).fails = 0)
    ∧ (∀ v : Word, ∃ t, exec (.lnkctlWrite p v) s = .next t ∧ (t.link p).ctl = BitVec.ofNat 32 (v.toNat % 4)
        ∧ ((t.link p).up = true ↔ l.up = true ∧ v.toNat % 4 = 1))
    ∧ (∀ (n : Nat) (v : BitVec 512), n < 2 →
      (l.txSlot = (n == 1) → k.valid = true → exec (.txkeyWrite p n v) s = .next s)
      ∧ ((l.txSlot = (n == 1) → k.valid = false) → k.ic ≠ markerIc →
          ∃ t, exec (.txkeyWrite p n v) s = .next t ∧ only t ∧ (t.link p).tx (n == 1) = keyOf v ∧ (keyOf v).ic = 0
            ∧ (t.link p).wire = l.wire ∧ (t.link p).txSlot = l.txSlot)
      ∧ (l.txSlot ≠ (n == 1) → k.ic = markerIc → canSend s p true = true → (keyOf v).valid = true →
          ∃ t f, exec (.txkeyWrite p n v) s = .next t ∧ only t ∧ (t.link p).wire = l.wire ++ [f] ∧ f.ty = 2 ∧ f.ic = BitVec.ofNat 48 markerIc
            ∧ (t.link p).txSlot = (n == 1) ∧ ((t.link p).tx l.txSlot).valid = false ∧ (t.link p).tx (n == 1) = keyOf v)
      ∧ (l.rxSlot = (n == 1) → (l.rx l.rxSlot).valid = true → exec (.rxkeyWrite p n v) s = .next s)
      ∧ ((l.rxSlot = (n == 1) → (l.rx l.rxSlot).valid = false) →
          ∃ t, exec (.rxkeyWrite p n v) s = .next t ∧ only t ∧ (t.link p).rx (n == 1) = keyOf v))

/-- R405, R409, R417, R418, R421: bring-up. Each state's work leads to the next, that of state 3 once its links are up; a failure leads to state 15 with its code, which only a reset leaves; an image counts only with both
signatures and a version that is not below the minimum, and is measured.
The model's choices: what a reset keeps (log 84), a recovery image (log 85), when rank and spill area are given (log 119). -/
def Obligations.BringUpEvents : Prop :=
  ∀ s : State,
    (∃ t : State, exec .deviceReset s = .next t ∧ t.root = State.reset.root ∧ t.cores = State.reset.cores ∧ t.waves = [] ∧ t.mem = []
      ∧ t.parts = State.reset.parts ∧ t.hostMem = s.hostMem ∧ t.peerMem = s.peerMem)
    ∧ (∀ mode ddr failed fab,
      (s.root.boot = 0 → s.root.verified = true → ∃ t : State, exec (.bootStateAdvance (.ok mode ddr failed fab)) s = .next t ∧ t.root.boot = 1)
      ∧ (s.root.boot = 0 → s.root.verified = false → exec (.bootStateAdvance (.ok mode ddr failed fab)) s = .next s)
      ∧ (s.root.boot = 1 → mode < 3 → ∃ t : State, exec (.bootStateAdvance (.ok mode ddr failed fab)) s = .next t ∧ t.root.boot = 2
          ∧ t.root.mode = mode ∧ t.root.measure = Config.sha384 (bytesOf384 s.root.measure ++ worldBytes s mode))
      ∧ (s.root.boot = 2 → ∃ t : State, exec (.bootStateAdvance (.ok mode ddr failed fab)) s = .next t ∧ t.root.boot = 3
          ∧ t.fabric = joinClique s.fabric fab ∧ ∀ a, t.mem.get a = 0)
      ∧ (s.root.boot = 3 → linksReady s fab = false → exec (.bootStateAdvance (.ok mode ddr failed fab)) s = .next s)
      ∧ (s.root.boot = 3 → linksReady s fab = true → s.parts.length = 4 → s.root.mode = 0 → ∃ t : State, exec (.bootStateAdvance (.ok mode ddr failed fab)) s = .next t
          ∧ t.root.boot = 4 ∧ SMap.get 0 (t.part 0).mwin 0 = windowValue 0 768 0xF 0
          ∧ ∀ d, d < 4 → SMap.get 0 (t.part 0).mwin (1 + d) = windowValue (4096 + 1024 * d) (min 1024 (ddr.getD d 0)) (2 ^ d) 1)
      ∧ (s.root.boot = 4 → ∃ t : State, exec (.bootStateAdvance (.ok mode ddr failed fab)) s = .next t ∧ t.root.boot = 5)
      ∧ (s.root.boot = 5 → pairsKept s failed = true → ∃ t : State, exec (.bootStateAdvance (.ok mode ddr failed fab)) s = .next t
          ∧ t.root.boot = 6 ∧ t.fabric = { s.fabric with spill := fab.spill } ∧ ∀ c, c < s.cores.length → (t.core c).oos = ((s.core c).oos || failed.contains c))
      ∧ (s.root.boot = 5 → pairsKept s failed = false → ∃ t : State, exec (.bootStateAdvance (.ok mode ddr failed fab)) s = .next t
          ∧ t.root.boot = 15 ∧ t.root.failCode = 4)
      ∧ (6 ≤ s.root.boot → exec (.bootStateAdvance (.ok mode ddr failed fab)) s = .next s))
    ∧ (∀ code, s.root.boot < 6 → 1 ≤ code → code ≤ 5 → ∃ t : State, exec (.bootStateAdvance (.fail code)) s = .next t ∧ t.root.boot = 15
        ∧ t.root.failCode = code ∧ t = { s with root := t.root })
    ∧ (∀ im : BootImage, s.root.boot < 6 → ∃ t : State, exec (.imageVerify im) s = .next t ∧ t = { s with root := t.root }
      ∧ t.root.verified = (imageGood im || s.root.verified) ∧ t.root.boot = (if imageGood im then s.root.boot else 15)
      ∧ t.root.failCode = (if imageGood im then s.root.failCode else 1)
      ∧ t.root.measure = if imageGood im then Config.sha384 (bytesOf384 s.root.measure ++ im.body) else s.root.measure)
    ∧ (∀ im : BootImage, s.root.boot = 15 →
      exec (.recoveryImage im) s = .next { s with root := { s.root with recovery := if imageGood im then some im else s.root.recovery } })
    ∧ (∀ ch, s.root.boot ≠ 0 → s.root.boot ≠ 15 → ∃ t b, exec (.attestationRequest ch) s = .next t ∧ t = { s with root := t.root }
        ∧ b = bytesOf384 s.root.measure ++ Config.deviceIdentity ++ Config.fuseState ++ natToBytes 32 ch.toNat
        ∧ t.root.reports = s.root.reports ++ [b ++ Config.ecdsaSign b ++ Config.lmsSign b])

/-! ## Instructions with no active lane -/

/-- R16: with no active lane an instruction that acts on memory, on a queue, a section, an engine or a control register only goes on.
The model's choices: these neither wait nor check with no active lane (logs 30, 35). -/
def Obligations.NoActiveLane : Prop :=
  (∀ e ∈ ([.ld, .st, .lds, .sts, .atom, .red, .cas, .cas128, .fence, .fencet, .flush, .prf, .qinit, .qbind, .tbinit, .tbarr, .tbexp, .tbwait, .mxld, .mxst] : List (Hdr → FmtM → Instr)),
      ∀ h f s x, issued (e h f) s = some x → x.c.lanes = [] → exec (e h f) s = .next (x.after (.done x.s)))
  ∧ (∀ e ∈ ([.drainst, .qtry, .launch, .launchWait, .batch, .chstat, .btake, .bpass, .setwc, .amaxclr, .tblstat] : List (Hdr → FmtA → Instr)),
      ∀ h f s x, issued (e h f) s = some x → x.c.lanes = [] → exec (e h f) s = .next (x.after (.done x.s)))
  ∧ (∀ e ∈ ([.ship, .shipt, .copy, .chain, .gather, .scatter, .iord, .iowr, .iopost, .bload, .mma, .accz, .accrd, .accwr, .acccvt, .accst, .accwait, .bswap] : List (Hdr → FmtX → Instr)),
      ∀ h f s x, issued (e h f) s = some x → x.c.lanes = [] → exec (e h f) s = .next (x.after (.done x.s)))
  ∧ (∀ e ∈ ([.waitb, .combcfg, .mmacfg] : List (Hdr → FmtI → Instr)),
      ∀ h f s x, issued (e h f) s = some x → x.c.lanes = [] → exec (e h f) s = .next (x.after (.done x.s)))

/-! ## Memory -/

/-- R4: a write of `n` bytes leaves its number, little-endian, in those bytes and every other byte as it was; it keeps the canonical
form, and it touches nothing but the bytes.

Log 5: memories in canonical form that read alike are equal. -/
def Obligations.MemoryLaws : Prop :=
  (
    ∀ (s : State) (t : Target) (n x : Nat), (∀ i < n, (t.plus i).isByte s) →
      (s.writeAt t n x).readAt t n = x % 256 ^ n
      ∧ (∀ u : Target, u.isByte s → (∀ i < n, u ≠ t.plus i) → (s.writeAt t n x).byteAt u = s.byteAt u)
      ∧ (s.memOk → (s.writeAt t n x).memOk)
      ∧ (∃ (m h p : Memory) (cs : List Core), s.writeAt t n x = { s with mem := m, hostMem := h, peerMem := p, cores := cs }
          ∧ cs.length = s.cores.length ∧ ∀ c, (s.writeAt t n x).core c = { s.core c with comb := ((s.writeAt t n x).core c).comb }))
  ∧ (
    ∀ s t : State, s.memOk → t.memOk → s.cores.length = t.cores.length →
      ((∀ a, s.byteAt (.dev a) = t.byteAt (.dev a)) → s.mem = t.mem)
      ∧ ((∀ p a, a < 2 ^ 64 → s.byteAt (.host p a) = t.byteAt (.host p a)) → s.hostMem = t.hostMem)
      ∧ ((∀ r a, a < 2 ^ 64 → s.byteAt (.peer r a) = t.byteAt (.peer r a)) → s.peerMem = t.peerMem)
      ∧ ∀ c, (∀ o, s.byteAt (.comb c o) = t.byteAt (.comb c o)) → (s.core c).comb = (t.core c).comb)

/-! ## Encoding -/

/-- R98-R106: the words that the spec writes out decode to the instructions they stand for. -/
def Obligations.DecodingWords : Prop :=
  decodeWord 0x41A01428_10001900_20002000#96
      = .ok (.ffma ⟨4, false, 2, true, 10⟩ ⟨⟨4, 0, 0⟩, ⟨6, 2, 0⟩, ⟨8, 0, 0⟩, ⟨1, 0, false, false, false, false, false, 0⟩⟩)
  ∧ decodeWord 0x01000800_00000500_01000001#96
      = .ok (.bra ⟨0, false, 1, false, 0⟩ ⟨1, 2, 2, 0, 0, ⟨0, 0, false, false, false, false, false, 1⟩⟩)
  ∧ decodeWord 0x49200030_10000014_1C028041#96
      = .ok (.cvt ⟨4, false, 0, false, 12⟩ ⟨⟨4, 0, 0⟩, ⟨0, 0, 5⟩, ⟨7, 0, 0⟩, ⟨20, 0, false, false, false, true, false, 1⟩⟩)
  ∧ decodeWord 0x72000028_10001800_00213301#96
      = .ok (.atom ⟨0, false, 0, false, 10⟩ ⟨⟨4, 0, 0⟩, ⟨6, 0, 0⟩, 8, ⟨9, 4, 3, 0, false, 1⟩⟩)
  ∧ decodeWord 0x7000002C_18000000_00003080#96
      = .ok (.ld ⟨0, false, 0, false, 11⟩ ⟨⟨6, 0, 0⟩, ⟨0, 0, 0⟩, 0, ⟨1, 4, 0, 2, false, 0⟩⟩)
  ∧ decodeWord 0x90000020_40002800_18000390#96
      = .ok (.ship ⟨0, false, 0, false, 8⟩ ⟨⟨16, 0, 0⟩, ⟨10, 0, 0⟩, ⟨6, 0, 0⟩, ⟨0, 1, true, true, false, 2, 0⟩⟩)
  ∧ decodeWord 0xA2000000_28000000_00008808#96
      = .ok (.mma ⟨0, false, 0, false, 0⟩ ⟨⟨10, 0, 0⟩, ⟨0, 0, 0⟩, ⟨0, 0, 0⟩, ⟨4, 4, false, false, false, 1, 0⟩⟩)
  ∧ decodeWord 0x6B000060_60001400_50000070#96
      = .ok (.mxchol ⟨0, false, 0, false, 24⟩ ⟨⟨24, 0, 0⟩, ⟨5, 0, 0⟩, ⟨20, 0, 0⟩, ⟨0, 0, false, false, true, 6, 0⟩⟩)
  ∧ decodeWord 0xA4000050_00000000_00008034#96
      = .ok (.acccvt ⟨0, false, 0, false, 20⟩ ⟨⟨0, 0, 0⟩, ⟨0, 0, 0⟩, ⟨0, 0, 0⟩, ⟨4, 0, false, false, false, 6, 4⟩⟩)
  ∧ decodeWord 0#96 = .ok (.nop ⟨0, false, 0, false, 0⟩ ⟨⟨0, 0, 0⟩, ⟨0, 0, 0⟩, ⟨0, 0, 0⟩, ⟨0, 0, false, false, false, false, false, 0⟩⟩)

/-- R98-R106, R122: encoding and decoding are inverse to each other. Every bit of a word is a bit of the instruction it decodes to,
each of the 152 instructions has a word, whatever its fields hold, and the words that decode to nothing are those of an opcode that no
instruction has. -/
def Obligations.EncodingRoundTrip : Prop :=
  (∀ i w, i.wf = true → encode i = some w → decodeWord w = .ok i)
  ∧ (∀ i w, decodeWord w = .ok i → i.wf = true ∧ encode i = some w)
  ∧ (∀ i s, (∃ w, encode i = some w) ↔ (issueOf i s).isSome = true)
  ∧ (∀ w e, decodeWord w = .error e → e = .unassignedOpcode (w.extractLsb' 87 9)
      ∧ ∀ i v, encode i = some v → v.extractLsb' 87 9 ≠ w.extractLsb' 87 9)

/-! ## Steps -/

/-- R94-R96, R108: a step whose move issues a gang runs the instruction that the word at the gang's PC decodes to, after the move's
cycles, with the wave in an Active place, and lets the waits follow that it ended; a step whose move is an event runs that event, and one that names a supervisor core lets it run an instruction (R3). A store or
atomic that is due comes before either (R209, R212). -/
def Obligations.StepRunsTheDecodedInstruction : Prop :=
  (∀ (s s2 : State) (a : Act) (rest : List Act) (k : WaveKey) (q l : Nat) (w : Wave) (g : Gang) (i : Instr),
    s.agenda = a :: rest → a.move = .issue k q →
    let s0 := { s.advance a.cycles with agenda := rest }
    dueEvent { s0 with agenda := { a with cycles := 0 } :: rest } = none →
    let s1 := if w.sched = .active then s0 else activate s0 k
    s0.wave? k = some w → w.gangOf q = some g → w.turn s0 g = true → w.async = [] →
    pcFormed (w.pcOf q).toNat = true → fetchLine s1 k.core w.ctx (Pc.line (w.pcOf q)) = (.line l, s2) →
    (w.cntIss = 0 → entryPc s1 w = some (w.pcOf q).toNat → lineTgt l (Pc.slot (w.pcOf q)) = true) →
    lineBad l = false → decodeWord (lineSlot l (Pc.slot (w.pcOf q))) = .ok i →
    step s = match exec i { s2.updWave k (fun w => { w with offers := false }) with
                  cur := some { w := k, quad := q, pair := linePair l (Pc.slot (w.pcOf q)) } } with
      | .next t => .next (settleAll t)
      | .fault f => .fault f
      | .refused r => .refused r)
  ∧ (∀ (s : State) (a : Act) (rest : List Act) (i : Instr), s.agenda = a :: rest → a.move = .event i →
      dueEvent { s.advance a.cycles with agenda := { a with cycles := 0 } :: rest } = none →
      step s = match exec i { s.advance a.cycles with agenda := rest } with
        | .next t => .next (settleAll t)
        | .fault f => .fault f
        | .refused r => .refused r)
  ∧ (∀ (s : State) (a : Act) (rest : List Act) (core : Nat), s.agenda = a :: rest → a.move = .supervise core →
      dueEvent { s.advance a.cycles with agenda := { a with cycles := 0 } :: rest } = none →
      step s = .next (settleAll (superviseStep core { s.advance a.cycles with agenda := rest })))
  ∧ (∀ (s : State) (a : Act) (rest : List Act) (i : Instr), s.agenda = a :: rest →
      let s0 := { s.advance a.cycles with agenda := { a with cycles := 0 } :: rest }
      dueEvent s0 = some i → step s = match exec i s0 with
        | .next t => .next (settleAll t)
        | .fault f => .fault f
        | .refused r => .refused r)

/-- R40, R335, R367-R369, R397, R418: what reset leaves, and that the invariants hold then. The spec gives the values of the first
clauses; that nothing is resident, and that memory lists nothing (log 5), is
the model's reading of its power-on state. -/
def Obligations.Reset : Prop :=
  State.reset.root.boot = 0 ∧ State.reset.waves = [] ∧ State.reset.teams = [] ∧ State.reset.grids = []
  ∧ (∀ c < 192, (State.reset.core c).tinv = 0x00020000#32 ∧ (∀ b, State.reset.bankMode c b = 0)
      ∧ (State.reset.core c).tqBase = 0 ∧ (State.reset.core c).tqCfg = 0 ∧ (State.reset.core c).tqHead = 0 ∧ (State.reset.core c).tqTail = 0
      ∧ (State.reset.core c).sfHead = 0 ∧ (State.reset.core c).sfTail = 0 ∧ (State.reset.core c).wstat = 0)
  ∧ (∀ p < 4, (State.reset.part p).prctl = 0x000003E800000000#64 ∧ (State.reset.part p).gidNext = 1 ∧ (State.reset.part p).wdctl = 0
      ∧ (State.reset.part p).ctxBase = 0 ∧ (State.reset.part p).sqBase = 0 ∧ (State.reset.part p).budBase = 0)
  ∧ State.reset.memOk ∧ State.reset.scheduled

/-- R352, R356: every step leaves the waves scheduled, from whatever state it starts: Held exactly where their context is held,
Pending only where they could issue and wait for a place. -/
def Obligations.StepsKeepTheSchedule : Prop :=
  ∀ s t : State, step s = .next t → t.scheduled
end

