-- ==== Sys2Proof/Laws/Encoding.lean ====
section
/-! SUPPORT. Each format's bits and fields are the same thing: no bit of a word is dropped, none is read twice. -/

namespace Sys2Proof

/-- A field taken out of two adjoining fields lies in the lower one. -/
theorem extract_low {m n : Nat} (a : BitVec m) (b : BitVec n) (s k : Nat) (h : s + k ≤ n) :
    (a ++ b).extractLsb' s k = b.extractLsb' s k := by
  apply BitVec.eq_of_getLsbD_eq
  intro i hi
  simp only [BitVec.getLsbD_extractLsb', BitVec.getLsbD_append, hi, decide_true, Bool.true_and]
  rw [if_pos (by omega)]

/-- A field taken out of two adjoining fields lies in the upper one. -/
theorem extract_high {m n : Nat} (a : BitVec m) (b : BitVec n) (s k : Nat) (h : n ≤ s) :
    (a ++ b).extractLsb' s k = a.extractLsb' (s - n) k := by
  apply BitVec.eq_of_getLsbD_eq
  intro i hi
  simp only [BitVec.getLsbD_extractLsb', BitVec.getLsbD_append, hi, decide_true, Bool.true_and]
  rw [if_neg (by omega)]
  congr 1
  omega

theorem extract_whole {n : Nat} (a : BitVec n) : a.extractLsb' 0 n = a := by
  apply BitVec.eq_of_getLsbD_eq
  intro i hi
  simp [hi]

/-- Two fields that adjoin make one. -/
theorem extract_append {w : Nat} (a : BitVec w) {s t : Nat} (m n : Nat) (ht : t = s + n) :
    a.extractLsb' t m ++ a.extractLsb' s n = a.extractLsb' s (m + n) := by
  subst ht
  apply BitVec.eq_of_getLsbD_eq
  intro i hi
  simp only [BitVec.getLsbD_extractLsb', BitVec.getLsbD_append]
  by_cases h : i < n
  · simp [h, hi]
  · rw [if_neg h]
    have : s + n + (i - n) = s + i := by omega
    have h2 : i - n < m := by omega
    simp [this, hi, h2]

theorem ofBool_bit {w : Nat} (a : BitVec w) (s : Nat) : BitVec.ofBool (a.getLsbD s) = a.extractLsb' s 1 := by
  apply BitVec.eq_of_getLsbD_eq
  intro i hi
  have : i = 0 := by omega
  subst this
  simp

/-- A field of a field. -/
theorem extract_extract {w : Nat} (a : BitVec w) (s t m k : Nat) (h : t + m ≤ k) :
    (a.extractLsb' s k).extractLsb' t m = a.extractLsb' (s + t) m := by
  apply BitVec.eq_of_getLsbD_eq
  intro i hi
  have : t + i < k := by omega
  simp [hi, this, Nat.add_assoc]

theorem bit_low {m n : Nat} (a : BitVec m) (b : BitVec n) (s : Nat) (h : s < n) : (a ++ b).getLsbD s = b.getLsbD s := by
  simp [BitVec.getLsbD_append, h]

theorem bit_high {m n : Nat} (a : BitVec m) (b : BitVec n) (s : Nat) (h : n ≤ s) : (a ++ b).getLsbD s = a.getLsbD (s - n) := by
  simp only [BitVec.getLsbD_append]
  rw [if_neg (by omega)]

theorem bit_ofBool (x : Bool) : (BitVec.ofBool x).getLsbD 0 = x := by simp

theorem Src.ofBits_toBits (f : Src) : Src.ofBits f.toBits = f := by
  simp (disch := omega) only [Src.ofBits, Src.toBits, extract_low, extract_high, extract_whole, Nat.sub_self, Nat.reduceSub]

theorem Src.toBits_ofBits (b : BitVec 16) : (Src.ofBits b).toBits = b := by
  simp (disch := omega) only [Src.ofBits, Src.toBits, extract_append]
  exact extract_whole b

theorem Mod.ofBits_toBits (f : Mod) : Mod.ofBits f.toBits = f := by
  simp (disch := omega) only [Mod.ofBits, Mod.toBits, extract_low, extract_high, extract_whole, bit_low, bit_high, Nat.sub_self, Nat.reduceSub, bit_ofBool]

theorem Mod.toBits_ofBits (b : BitVec 18) : (Mod.ofBits b).toBits = b := by
  simp (disch := omega) only [Mod.ofBits, Mod.toBits, ofBool_bit, extract_append]
  exact extract_whole b

theorem ModM.ofBits_toBits (f : ModM) : ModM.ofBits f.toBits = f := by
  simp (disch := omega) only [ModM.ofBits, ModM.toBits, extract_low, extract_high, extract_whole, bit_low, bit_high, Nat.sub_self, Nat.reduceSub, bit_ofBool]

theorem ModM.toBits_ofBits (b : BitVec 18) : (ModM.ofBits b).toBits = b := by
  simp (disch := omega) only [ModM.ofBits, ModM.toBits, ofBool_bit, extract_append]
  exact extract_whole b

theorem ModX.ofBits_toBits (f : ModX) : ModX.ofBits f.toBits = f := by
  simp (disch := omega) only [ModX.ofBits, ModX.toBits, extract_low, extract_high, extract_whole, bit_low, bit_high, Nat.sub_self, Nat.reduceSub, bit_ofBool]

theorem ModX.toBits_ofBits (b : BitVec 18) : (ModX.ofBits b).toBits = b := by
  simp (disch := omega) only [ModX.ofBits, ModX.toBits, ofBool_bit, extract_append]
  exact extract_whole b

theorem Hdr.ofBits_toBits (f : Hdr) : Hdr.ofBits f.toBits = f := by
  simp (disch := omega) only [Hdr.ofBits, Hdr.toBits, extract_low, extract_high, extract_whole, bit_low, bit_high, Nat.sub_self, Nat.reduceSub, bit_ofBool]

theorem Hdr.toBits_ofBits (b : BitVec 21) : (Hdr.ofBits b).toBits = b := by
  simp (disch := omega) only [Hdr.ofBits, Hdr.toBits, ofBool_bit, extract_append]
  exact extract_whole b

theorem FmtA.ofBits_toBits (f : FmtA) : FmtA.ofBits f.toBits = f := by
  simp (disch := omega) only [FmtA.ofBits, FmtA.toBits, extract_low, extract_high, extract_whole, Nat.sub_self, Nat.reduceSub, Src.ofBits_toBits, Mod.ofBits_toBits]

theorem FmtA.toBits_ofBits (b : BitVec 66) : (FmtA.ofBits b).toBits = b := by
  simp (disch := omega) only [FmtA.ofBits, FmtA.toBits, extract_append, Src.toBits_ofBits, Mod.toBits_ofBits]
  exact extract_whole b

theorem FmtI.ofBits_toBits (f : FmtI) : FmtI.ofBits f.toBits = f := by
  simp (disch := omega) only [FmtI.ofBits, FmtI.toBits, extract_low, extract_high, extract_whole, Nat.sub_self, Nat.reduceSub, Src.ofBits_toBits, Mod.ofBits_toBits]

theorem FmtI.toBits_ofBits (b : BitVec 66) : (FmtI.ofBits b).toBits = b := by
  simp (disch := omega) only [FmtI.ofBits, FmtI.toBits, extract_append, Src.toBits_ofBits, Mod.toBits_ofBits]
  exact extract_whole b

theorem FmtM.ofBits_toBits (f : FmtM) : FmtM.ofBits f.toBits = f := by
  simp (disch := omega) only [FmtM.ofBits, FmtM.toBits, extract_low, extract_high, extract_whole, Nat.sub_self, Nat.reduceSub, Src.ofBits_toBits, ModM.ofBits_toBits]

theorem FmtM.toBits_ofBits (b : BitVec 66) : (FmtM.ofBits b).toBits = b := by
  simp (disch := omega) only [FmtM.ofBits, FmtM.toBits, extract_append, Src.toBits_ofBits, ModM.toBits_ofBits]
  exact extract_whole b

theorem FmtB.ofBits_toBits (f : FmtB) : FmtB.ofBits f.toBits = f := by
  simp (disch := omega) only [FmtB.ofBits, FmtB.toBits, extract_low, extract_high, extract_whole, Nat.sub_self, Nat.reduceSub, Mod.ofBits_toBits]

theorem FmtB.toBits_ofBits (b : BitVec 66) : (FmtB.ofBits b).toBits = b := by
  simp (disch := omega) only [FmtB.ofBits, FmtB.toBits, extract_append, Mod.toBits_ofBits]
  exact extract_whole b

theorem FmtBi.ofBits_toBits (f : FmtBi) : FmtBi.ofBits f.toBits = f := by
  simp (disch := omega) only [FmtBi.ofBits, FmtBi.toBits, extract_low, extract_high, extract_whole, Nat.sub_self, Nat.reduceSub, Src.ofBits_toBits, Mod.ofBits_toBits]

theorem FmtBi.toBits_ofBits (b : BitVec 66) : (FmtBi.ofBits b).toBits = b := by
  simp (disch := omega) only [FmtBi.ofBits, FmtBi.toBits, extract_append, Src.toBits_ofBits, Mod.toBits_ofBits]
  exact extract_whole b

theorem FmtX.ofBits_toBits (f : FmtX) : FmtX.ofBits f.toBits = f := by
  simp (disch := omega) only [FmtX.ofBits, FmtX.toBits, extract_low, extract_high, extract_whole, Nat.sub_self, Nat.reduceSub, Src.ofBits_toBits, ModX.ofBits_toBits]

theorem FmtX.toBits_ofBits (b : BitVec 66) : (FmtX.ofBits b).toBits = b := by
  simp (disch := omega) only [FmtX.ofBits, FmtX.toBits, extract_append, Src.toBits_ofBits, ModX.toBits_ofBits]
  exact extract_whole b

/-- A word is its opcode, its header and its format's bits (R98). -/
theorem decodeWord_packWord (opc : BitVec 9) (h : Hdr) (b : BitVec 66) : decodeWord (packWord opc h b) = decodeBody opc h b := by
  have h1 : (packWord opc h b).extractLsb' 87 9 = opc := by
    rw [show packWord opc h b = (opc ++ h.toBits) ++ b from rfl, extract_high _ b 87 9 (by omega), extract_high _ _ _ _ (by omega)]
    exact extract_whole opc
  have h2 : (packWord opc h b).extractLsb' 66 21 = h.toBits := by
    rw [show packWord opc h b = (opc ++ h.toBits) ++ b from rfl, extract_high _ b 66 21 (by omega), extract_low _ _ _ _ (by omega)]
    exact extract_whole _
  have h3 : (packWord opc h b).extractLsb' 0 66 = b := by
    rw [show packWord opc h b = (opc ++ h.toBits) ++ b from rfl, extract_low _ b 0 66 (by omega)]
    exact extract_whole b
  rw [decodeWord, h1, h2, h3, Hdr.ofBits_toBits]

theorem packWord_fields (w : InstrWord) :
    packWord (w.extractLsb' 87 9) (.ofBits (w.extractLsb' 66 21)) (w.extractLsb' 0 66) = w := by
  simp (disch := omega) only [packWord, Hdr.toBits_ofBits, extract_append]
  exact extract_whole w

end Sys2Proof
end

