-- ==== Sys2Proof/Laws/State.lean ====
section
/-! SUPPORT. What the named updates of the state change, and what they leave. -/

namespace Sys2Proof.Machine

/-! ## Waves -/

namespace State

theorem find_map_key (l : List Wave) (k : WaveKey) (f : Wave → Wave) (hf : ∀ w, (f w).key = w.key) (k' : WaveKey) :
    (l.map (fun w => if w.key = k then f w else w)).find? (fun w => w.key == k')
      = (l.find? (fun w => w.key == k')).map (fun w => if w.key = k then f w else w) := by
  induction l with
  | nil => rfl
  | cons a t ih =>
    have hk : (if a.key = k then f a else a).key = a.key := by split <;> simp [hf]
    simp only [List.map_cons, List.find?_cons, hk]
    cases h : a.key == k' <;> simp [ih]

/-- A wave's update, read back. -/
theorem wave?_updWave (s : State) (k : WaveKey) (f : Wave → Wave) (hf : ∀ w, (f w).key = w.key) (k' : WaveKey) :
    (s.updWave k f).wave? k' = (s.wave? k').map (fun w => if w.key = k then f w else w) :=
  find_map_key s.waves k f hf k'

theorem wave?_key {s : State} {k : WaveKey} {w : Wave} (h : s.wave? k = some w) : w.key = k := by
  have := List.find?_some h
  simpa using this

theorem wave?_updWave_self {s : State} {k : WaveKey} {f : Wave → Wave} {w : Wave} (hf : ∀ w, (f w).key = w.key)
    (h : s.wave? k = some w) : (s.updWave k f).wave? k = some (f w) := by
  simp [wave?_updWave s k f hf, h, wave?_key h]

theorem wave?_updWave_ne {s : State} {k k' : WaveKey} {f : Wave → Wave} (hf : ∀ w, (f w).key = w.key) (hk : k' ≠ k) :
    (s.updWave k f).wave? k' = s.wave? k' := by
  rw [wave?_updWave s k f hf]
  cases h : s.wave? k' with
  | none => rfl
  | some w => simp [wave?_key h, hk]

/-! `updWave` changes the waves and the teams' saved waves alone. -/

@[simp] theorem updWave_cyc (s : State) (k f) : (s.updWave k f).cyc = s.cyc := rfl
@[simp] theorem updWave_gtbAdj (s : State) (k f) : (s.updWave k f).gtbAdj = s.gtbAdj := rfl
@[simp] theorem updWave_mem (s : State) (k f) : (s.updWave k f).mem = s.mem := rfl
@[simp] theorem updWave_hostMem (s : State) (k f) : (s.updWave k f).hostMem = s.hostMem := rfl
@[simp] theorem updWave_peerMem (s : State) (k f) : (s.updWave k f).peerMem = s.peerMem := rfl
@[simp] theorem updWave_cores (s : State) (k f) : (s.updWave k f).cores = s.cores := rfl
@[simp] theorem updWave_core (s : State) (k f c) : (s.updWave k f).core c = s.core c := rfl
@[simp] theorem updWave_parts (s : State) (k f) : (s.updWave k f).parts = s.parts := rfl
@[simp] theorem updWave_root (s : State) (k f) : (s.updWave k f).root = s.root := rfl
@[simp] theorem updWave_mops (s : State) (k f) : (s.updWave k f).mops = s.mops := rfl
@[simp] theorem updWave_loads (s : State) (k f) : (s.updWave k f).loads = s.loads := rfl
@[simp] theorem updWave_grids (s : State) (k f) : (s.updWave k f).grids = s.grids := rfl
@[simp] theorem updWave_ports (s : State) (k f) : (s.updWave k f).ports = s.ports := rfl
@[simp] theorem updWave_gtb (s : State) (k f) : (s.updWave k f).gtb = s.gtb := rfl

@[simp] theorem updCore_waves (s : State) (c f) : (s.updCore c f).waves = s.waves := rfl
@[simp] theorem updCore_wave? (s : State) (c f k) : (s.updCore c f).wave? k = s.wave? k := rfl
@[simp] theorem updCore_mem (s : State) (c f) : (s.updCore c f).mem = s.mem := rfl
@[simp] theorem updCore_parts (s : State) (c f) : (s.updCore c f).parts = s.parts := rfl
@[simp] theorem updEng_wave? (s : State) (c f k) : (s.updEng c f).wave? k = s.wave? k := rfl
@[simp] theorem updPart_wave? (s : State) (c f k) : (s.updPart c f).wave? k = s.wave? k := rfl
@[simp] theorem updPart_mem (s : State) (c f) : (s.updPart c f).mem = s.mem := rfl
@[simp] theorem updPart_cores (s : State) (c f) : (s.updPart c f).cores = s.cores := rfl
@[simp] theorem updTeam_wave? (s : State) (g n f k) : (s.updTeam g n f).wave? k = s.wave? k := rfl
@[simp] theorem updGrid_wave? (s : State) (g n f k) : (s.updGrid g n f).wave? k = s.wave? k := rfl

/-! The other fields that an update leaves as they are. -/

@[simp] theorem updWave_freeCtr (s : State) (k f) : (s.updWave k f).freeCtr = s.freeCtr := rfl
@[simp] theorem updWave_nextId (s : State) (k f) : (s.updWave k f).nextId = s.nextId := rfl
@[simp] theorem updWave_agenda (s : State) (k f) : (s.updWave k f).agenda = s.agenda := rfl
@[simp] theorem updWave_cur (s : State) (k f) : (s.updWave k f).cur = s.cur := rfl
@[simp] theorem updWave_eDev (s : State) (k f) : (s.updWave k f).eDev = s.eDev := rfl
@[simp] theorem updWave_eFab (s : State) (k f) : (s.updWave k f).eFab = s.eFab := rfl
@[simp] theorem updWave_replicas (s : State) (k f) : (s.updWave k f).replicas = s.replicas := rfl
@[simp] theorem updWave_poison (s : State) (k f) : (s.updWave k f).poison = s.poison := rfl
@[simp] theorem updWave_codeObjs (s : State) (k f) : (s.updWave k f).codeObjs = s.codeObjs := rfl
@[simp] theorem updWave_tainted (s : State) (k f) : (s.updWave k f).tainted = s.tainted := rfl
@[simp] theorem updWave_queues (s : State) (k f) : (s.updWave k f).queues = s.queues := rfl
@[simp] theorem updWave_ships (s : State) (k f) : (s.updWave k f).ships = s.ships := rfl
@[simp] theorem updWave_benuris (s : State) (k f) : (s.updWave k f).benuris = s.benuris := rfl
@[simp] theorem updWave_actBuds (s : State) (k f) : (s.updWave k f).actBuds = s.actBuds := rfl
@[simp] theorem updWave_lease (s : State) (k f) : (s.updWave k f).lease = s.lease := rfl
@[simp] theorem updWave_snoops (s : State) (k f) : (s.updWave k f).snoops = s.snoops := rfl
@[simp] theorem updWave_fabric (s : State) (k f) : (s.updWave k f).fabric = s.fabric := rfl
@[simp] theorem updWave_io (s : State) (k f) : (s.updWave k f).io = s.io := rfl
@[simp] theorem updCore_cyc (s : State) (c f) : (s.updCore c f).cyc = s.cyc := rfl
@[simp] theorem updCore_gtbAdj (s : State) (c f) : (s.updCore c f).gtbAdj = s.gtbAdj := rfl
@[simp] theorem updCore_freeCtr (s : State) (c f) : (s.updCore c f).freeCtr = s.freeCtr := rfl
@[simp] theorem updCore_nextId (s : State) (c f) : (s.updCore c f).nextId = s.nextId := rfl
@[simp] theorem updCore_agenda (s : State) (c f) : (s.updCore c f).agenda = s.agenda := rfl
@[simp] theorem updCore_cur (s : State) (c f) : (s.updCore c f).cur = s.cur := rfl
@[simp] theorem updCore_hostMem (s : State) (c f) : (s.updCore c f).hostMem = s.hostMem := rfl
@[simp] theorem updCore_peerMem (s : State) (c f) : (s.updCore c f).peerMem = s.peerMem := rfl
@[simp] theorem updCore_eDev (s : State) (c f) : (s.updCore c f).eDev = s.eDev := rfl
@[simp] theorem updCore_eFab (s : State) (c f) : (s.updCore c f).eFab = s.eFab := rfl
@[simp] theorem updCore_replicas (s : State) (c f) : (s.updCore c f).replicas = s.replicas := rfl
@[simp] theorem updCore_poison (s : State) (c f) : (s.updCore c f).poison = s.poison := rfl
@[simp] theorem updCore_teams (s : State) (c f) : (s.updCore c f).teams = s.teams := rfl
@[simp] theorem updCore_grids (s : State) (c f) : (s.updCore c f).grids = s.grids := rfl
@[simp] theorem updCore_codeObjs (s : State) (c f) : (s.updCore c f).codeObjs = s.codeObjs := rfl
@[simp] theorem updCore_mops (s : State) (c f) : (s.updCore c f).mops = s.mops := rfl
@[simp] theorem updCore_loads (s : State) (c f) : (s.updCore c f).loads = s.loads := rfl
@[simp] theorem updCore_tainted (s : State) (c f) : (s.updCore c f).tainted = s.tainted := rfl
@[simp] theorem updCore_queues (s : State) (c f) : (s.updCore c f).queues = s.queues := rfl
@[simp] theorem updCore_ships (s : State) (c f) : (s.updCore c f).ships = s.ships := rfl
@[simp] theorem updCore_benuris (s : State) (c f) : (s.updCore c f).benuris = s.benuris := rfl
@[simp] theorem updCore_actBuds (s : State) (c f) : (s.updCore c f).actBuds = s.actBuds := rfl
@[simp] theorem updCore_ports (s : State) (c f) : (s.updCore c f).ports = s.ports := rfl
@[simp] theorem updCore_lease (s : State) (c f) : (s.updCore c f).lease = s.lease := rfl
@[simp] theorem updCore_snoops (s : State) (c f) : (s.updCore c f).snoops = s.snoops := rfl
@[simp] theorem updCore_fabric (s : State) (c f) : (s.updCore c f).fabric = s.fabric := rfl
@[simp] theorem updCore_io (s : State) (c f) : (s.updCore c f).io = s.io := rfl
@[simp] theorem updCore_root (s : State) (c f) : (s.updCore c f).root = s.root := rfl
@[simp] theorem updPart_cyc (s : State) (c f) : (s.updPart c f).cyc = s.cyc := rfl
@[simp] theorem updPart_gtbAdj (s : State) (c f) : (s.updPart c f).gtbAdj = s.gtbAdj := rfl
@[simp] theorem updPart_freeCtr (s : State) (c f) : (s.updPart c f).freeCtr = s.freeCtr := rfl
@[simp] theorem updPart_nextId (s : State) (c f) : (s.updPart c f).nextId = s.nextId := rfl
@[simp] theorem updPart_agenda (s : State) (c f) : (s.updPart c f).agenda = s.agenda := rfl
@[simp] theorem updPart_cur (s : State) (c f) : (s.updPart c f).cur = s.cur := rfl
@[simp] theorem updPart_hostMem (s : State) (c f) : (s.updPart c f).hostMem = s.hostMem := rfl
@[simp] theorem updPart_peerMem (s : State) (c f) : (s.updPart c f).peerMem = s.peerMem := rfl
@[simp] theorem updPart_eDev (s : State) (c f) : (s.updPart c f).eDev = s.eDev := rfl
@[simp] theorem updPart_eFab (s : State) (c f) : (s.updPart c f).eFab = s.eFab := rfl
@[simp] theorem updPart_replicas (s : State) (c f) : (s.updPart c f).replicas = s.replicas := rfl
@[simp] theorem updPart_poison (s : State) (c f) : (s.updPart c f).poison = s.poison := rfl
@[simp] theorem updPart_waves (s : State) (c f) : (s.updPart c f).waves = s.waves := rfl
@[simp] theorem updPart_teams (s : State) (c f) : (s.updPart c f).teams = s.teams := rfl
@[simp] theorem updPart_grids (s : State) (c f) : (s.updPart c f).grids = s.grids := rfl
@[simp] theorem updPart_codeObjs (s : State) (c f) : (s.updPart c f).codeObjs = s.codeObjs := rfl
@[simp] theorem updPart_mops (s : State) (c f) : (s.updPart c f).mops = s.mops := rfl
@[simp] theorem updPart_loads (s : State) (c f) : (s.updPart c f).loads = s.loads := rfl
@[simp] theorem updPart_tainted (s : State) (c f) : (s.updPart c f).tainted = s.tainted := rfl
@[simp] theorem updPart_queues (s : State) (c f) : (s.updPart c f).queues = s.queues := rfl
@[simp] theorem updPart_ships (s : State) (c f) : (s.updPart c f).ships = s.ships := rfl
@[simp] theorem updPart_benuris (s : State) (c f) : (s.updPart c f).benuris = s.benuris := rfl
@[simp] theorem updPart_actBuds (s : State) (c f) : (s.updPart c f).actBuds = s.actBuds := rfl
@[simp] theorem updPart_ports (s : State) (c f) : (s.updPart c f).ports = s.ports := rfl
@[simp] theorem updPart_lease (s : State) (c f) : (s.updPart c f).lease = s.lease := rfl
@[simp] theorem updPart_snoops (s : State) (c f) : (s.updPart c f).snoops = s.snoops := rfl
@[simp] theorem updPart_fabric (s : State) (c f) : (s.updPart c f).fabric = s.fabric := rfl
@[simp] theorem updPart_io (s : State) (c f) : (s.updPart c f).io = s.io := rfl
@[simp] theorem updPart_root (s : State) (c f) : (s.updPart c f).root = s.root := rfl
@[simp] theorem updTeam_cyc (s : State) (g n f) : (s.updTeam g n f).cyc = s.cyc := rfl
@[simp] theorem updTeam_gtbAdj (s : State) (g n f) : (s.updTeam g n f).gtbAdj = s.gtbAdj := rfl
@[simp] theorem updTeam_freeCtr (s : State) (g n f) : (s.updTeam g n f).freeCtr = s.freeCtr := rfl
@[simp] theorem updTeam_nextId (s : State) (g n f) : (s.updTeam g n f).nextId = s.nextId := rfl
@[simp] theorem updTeam_agenda (s : State) (g n f) : (s.updTeam g n f).agenda = s.agenda := rfl
@[simp] theorem updTeam_cur (s : State) (g n f) : (s.updTeam g n f).cur = s.cur := rfl
@[simp] theorem updTeam_mem (s : State) (g n f) : (s.updTeam g n f).mem = s.mem := rfl
@[simp] theorem updTeam_hostMem (s : State) (g n f) : (s.updTeam g n f).hostMem = s.hostMem := rfl
@[simp] theorem updTeam_peerMem (s : State) (g n f) : (s.updTeam g n f).peerMem = s.peerMem := rfl
@[simp] theorem updTeam_eDev (s : State) (g n f) : (s.updTeam g n f).eDev = s.eDev := rfl
@[simp] theorem updTeam_eFab (s : State) (g n f) : (s.updTeam g n f).eFab = s.eFab := rfl
@[simp] theorem updTeam_replicas (s : State) (g n f) : (s.updTeam g n f).replicas = s.replicas := rfl
@[simp] theorem updTeam_poison (s : State) (g n f) : (s.updTeam g n f).poison = s.poison := rfl
@[simp] theorem updTeam_cores (s : State) (g n f) : (s.updTeam g n f).cores = s.cores := rfl
@[simp] theorem updTeam_waves (s : State) (g n f) : (s.updTeam g n f).waves = s.waves := rfl
@[simp] theorem updTeam_grids (s : State) (g n f) : (s.updTeam g n f).grids = s.grids := rfl
@[simp] theorem updTeam_codeObjs (s : State) (g n f) : (s.updTeam g n f).codeObjs = s.codeObjs := rfl
@[simp] theorem updTeam_mops (s : State) (g n f) : (s.updTeam g n f).mops = s.mops := rfl
@[simp] theorem updTeam_loads (s : State) (g n f) : (s.updTeam g n f).loads = s.loads := rfl
@[simp] theorem updTeam_tainted (s : State) (g n f) : (s.updTeam g n f).tainted = s.tainted := rfl
@[simp] theorem updTeam_queues (s : State) (g n f) : (s.updTeam g n f).queues = s.queues := rfl
@[simp] theorem updTeam_ships (s : State) (g n f) : (s.updTeam g n f).ships = s.ships := rfl
@[simp] theorem updTeam_benuris (s : State) (g n f) : (s.updTeam g n f).benuris = s.benuris := rfl
@[simp] theorem updTeam_parts (s : State) (g n f) : (s.updTeam g n f).parts = s.parts := rfl
@[simp] theorem updTeam_actBuds (s : State) (g n f) : (s.updTeam g n f).actBuds = s.actBuds := rfl
@[simp] theorem updTeam_ports (s : State) (g n f) : (s.updTeam g n f).ports = s.ports := rfl
@[simp] theorem updTeam_lease (s : State) (g n f) : (s.updTeam g n f).lease = s.lease := rfl
@[simp] theorem updTeam_snoops (s : State) (g n f) : (s.updTeam g n f).snoops = s.snoops := rfl
@[simp] theorem updTeam_fabric (s : State) (g n f) : (s.updTeam g n f).fabric = s.fabric := rfl
@[simp] theorem updTeam_io (s : State) (g n f) : (s.updTeam g n f).io = s.io := rfl
@[simp] theorem updTeam_root (s : State) (g n f) : (s.updTeam g n f).root = s.root := rfl
@[simp] theorem updGrid_cyc (s : State) (g n f) : (s.updGrid g n f).cyc = s.cyc := rfl
@[simp] theorem updGrid_gtbAdj (s : State) (g n f) : (s.updGrid g n f).gtbAdj = s.gtbAdj := rfl
@[simp] theorem updGrid_freeCtr (s : State) (g n f) : (s.updGrid g n f).freeCtr = s.freeCtr := rfl
@[simp] theorem updGrid_nextId (s : State) (g n f) : (s.updGrid g n f).nextId = s.nextId := rfl
@[simp] theorem updGrid_agenda (s : State) (g n f) : (s.updGrid g n f).agenda = s.agenda := rfl
@[simp] theorem updGrid_cur (s : State) (g n f) : (s.updGrid g n f).cur = s.cur := rfl
@[simp] theorem updGrid_mem (s : State) (g n f) : (s.updGrid g n f).mem = s.mem := rfl
@[simp] theorem updGrid_hostMem (s : State) (g n f) : (s.updGrid g n f).hostMem = s.hostMem := rfl
@[simp] theorem updGrid_peerMem (s : State) (g n f) : (s.updGrid g n f).peerMem = s.peerMem := rfl
@[simp] theorem updGrid_eDev (s : State) (g n f) : (s.updGrid g n f).eDev = s.eDev := rfl
@[simp] theorem updGrid_eFab (s : State) (g n f) : (s.updGrid g n f).eFab = s.eFab := rfl
@[simp] theorem updGrid_replicas (s : State) (g n f) : (s.updGrid g n f).replicas = s.replicas := rfl
@[simp] theorem updGrid_poison (s : State) (g n f) : (s.updGrid g n f).poison = s.poison := rfl
@[simp] theorem updGrid_cores (s : State) (g n f) : (s.updGrid g n f).cores = s.cores := rfl
@[simp] theorem updGrid_waves (s : State) (g n f) : (s.updGrid g n f).waves = s.waves := rfl
@[simp] theorem updGrid_teams (s : State) (g n f) : (s.updGrid g n f).teams = s.teams := rfl
@[simp] theorem updGrid_codeObjs (s : State) (g n f) : (s.updGrid g n f).codeObjs = s.codeObjs := rfl
@[simp] theorem updGrid_mops (s : State) (g n f) : (s.updGrid g n f).mops = s.mops := rfl
@[simp] theorem updGrid_loads (s : State) (g n f) : (s.updGrid g n f).loads = s.loads := rfl
@[simp] theorem updGrid_tainted (s : State) (g n f) : (s.updGrid g n f).tainted = s.tainted := rfl
@[simp] theorem updGrid_queues (s : State) (g n f) : (s.updGrid g n f).queues = s.queues := rfl
@[simp] theorem updGrid_ships (s : State) (g n f) : (s.updGrid g n f).ships = s.ships := rfl
@[simp] theorem updGrid_benuris (s : State) (g n f) : (s.updGrid g n f).benuris = s.benuris := rfl
@[simp] theorem updGrid_parts (s : State) (g n f) : (s.updGrid g n f).parts = s.parts := rfl
@[simp] theorem updGrid_actBuds (s : State) (g n f) : (s.updGrid g n f).actBuds = s.actBuds := rfl
@[simp] theorem updGrid_ports (s : State) (g n f) : (s.updGrid g n f).ports = s.ports := rfl
@[simp] theorem updGrid_lease (s : State) (g n f) : (s.updGrid g n f).lease = s.lease := rfl
@[simp] theorem updGrid_snoops (s : State) (g n f) : (s.updGrid g n f).snoops = s.snoops := rfl
@[simp] theorem updGrid_fabric (s : State) (g n f) : (s.updGrid g n f).fabric = s.fabric := rfl
@[simp] theorem updGrid_io (s : State) (g n f) : (s.updGrid g n f).io = s.io := rfl
@[simp] theorem updGrid_root (s : State) (g n f) : (s.updGrid g n f).root = s.root := rfl
@[simp] theorem updEng_cyc (s : State) (c f) : (s.updEng c f).cyc = s.cyc := rfl
@[simp] theorem updEng_gtbAdj (s : State) (c f) : (s.updEng c f).gtbAdj = s.gtbAdj := rfl
@[simp] theorem updEng_freeCtr (s : State) (c f) : (s.updEng c f).freeCtr = s.freeCtr := rfl
@[simp] theorem updEng_nextId (s : State) (c f) : (s.updEng c f).nextId = s.nextId := rfl
@[simp] theorem updEng_agenda (s : State) (c f) : (s.updEng c f).agenda = s.agenda := rfl
@[simp] theorem updEng_cur (s : State) (c f) : (s.updEng c f).cur = s.cur := rfl
@[simp] theorem updEng_mem (s : State) (c f) : (s.updEng c f).mem = s.mem := rfl
@[simp] theorem updEng_hostMem (s : State) (c f) : (s.updEng c f).hostMem = s.hostMem := rfl
@[simp] theorem updEng_peerMem (s : State) (c f) : (s.updEng c f).peerMem = s.peerMem := rfl
@[simp] theorem updEng_eDev (s : State) (c f) : (s.updEng c f).eDev = s.eDev := rfl
@[simp] theorem updEng_eFab (s : State) (c f) : (s.updEng c f).eFab = s.eFab := rfl
@[simp] theorem updEng_replicas (s : State) (c f) : (s.updEng c f).replicas = s.replicas := rfl
@[simp] theorem updEng_poison (s : State) (c f) : (s.updEng c f).poison = s.poison := rfl
@[simp] theorem updEng_waves (s : State) (c f) : (s.updEng c f).waves = s.waves := rfl
@[simp] theorem updEng_teams (s : State) (c f) : (s.updEng c f).teams = s.teams := rfl
@[simp] theorem updEng_grids (s : State) (c f) : (s.updEng c f).grids = s.grids := rfl
@[simp] theorem updEng_codeObjs (s : State) (c f) : (s.updEng c f).codeObjs = s.codeObjs := rfl
@[simp] theorem updEng_mops (s : State) (c f) : (s.updEng c f).mops = s.mops := rfl
@[simp] theorem updEng_loads (s : State) (c f) : (s.updEng c f).loads = s.loads := rfl
@[simp] theorem updEng_tainted (s : State) (c f) : (s.updEng c f).tainted = s.tainted := rfl
@[simp] theorem updEng_queues (s : State) (c f) : (s.updEng c f).queues = s.queues := rfl
@[simp] theorem updEng_ships (s : State) (c f) : (s.updEng c f).ships = s.ships := rfl
@[simp] theorem updEng_benuris (s : State) (c f) : (s.updEng c f).benuris = s.benuris := rfl
@[simp] theorem updEng_parts (s : State) (c f) : (s.updEng c f).parts = s.parts := rfl
@[simp] theorem updEng_actBuds (s : State) (c f) : (s.updEng c f).actBuds = s.actBuds := rfl
@[simp] theorem updEng_ports (s : State) (c f) : (s.updEng c f).ports = s.ports := rfl
@[simp] theorem updEng_lease (s : State) (c f) : (s.updEng c f).lease = s.lease := rfl
@[simp] theorem updEng_snoops (s : State) (c f) : (s.updEng c f).snoops = s.snoops := rfl
@[simp] theorem updEng_fabric (s : State) (c f) : (s.updEng c f).fabric = s.fabric := rfl
@[simp] theorem updEng_io (s : State) (c f) : (s.updEng c f).io = s.io := rfl
@[simp] theorem updEng_root (s : State) (c f) : (s.updEng c f).root = s.root := rfl

end State

end Sys2Proof.Machine
end

