-- ==== Sys2Proof/Laws/Trap.lean ====
section
/-! SUPPORT. What the baton's passing and the taking of a trap leave, said once. -/

namespace Sys2Proof.Machine

/-- A wave after the baton has passed: what a program sees of it stays, and all of its gangs, unless one waited for the baton. -/
structure Calm (w v : Wave) : Prop where
  key : v.key = w.key
  regs : v.sameRegs w
  trap : v.trap = w.trap
  info : v.info = w.info
  ended : v.ended = w.ended
  stale : v.stale = w.stale
  trapped : w.sched = .trapped → v.sched = .trapped
  still : w.wantsBaton = false → v.gangs = w.gangs ∧ v.quads = w.quads

theorem Calm.refl (w : Wave) : Calm w w := ⟨rfl, ⟨rfl,rfl,rfl,rfl,rfl,rfl⟩, rfl, rfl, rfl, rfl, id, fun _ => ⟨rfl, rfl⟩⟩
theorem Calm.trans {a b c : Wave} (h : Calm a b) (g : Calm b c) (hb : a.wantsBaton = false → b.wantsBaton = false) : Calm a c := by
  obtain ⟨h1,⟨r1,r2,r3,r4,r5,r6⟩,h3,h4,h5,h6,h7,h8⟩ := h
  obtain ⟨g1,⟨q1,q2,q3,q4,q5,q6⟩,g3,g4,g5,g6,g7,g8⟩ := g
  refine ⟨by simp_all, ⟨by simp_all, by simp_all, by simp_all, by simp_all, by simp_all, by simp_all⟩, by simp_all, by simp_all, by simp_all, by simp_all, fun x => g7 (h7 x), fun x => ?_⟩
  obtain ⟨a1,a2⟩ := h8 x; obtain ⟨b1,b2⟩ := g8 (hb x)
  exact ⟨b1.trans a1, b2.trans a2⟩

theorem flow_frame (w : Wave) (qs pc) : (w.flow qs pc).1 = { w with levels := (w.flow qs pc).1.levels, lc := (w.flow qs pc).1.lc, quads := (w.flow qs pc).1.quads } := by
  have hs : ∀ (w : Wave) (qs : List Nat) pc, w.setPcs qs pc = { w with quads := (w.setPcs qs pc).quads } := by
    intro w qs pc
    induction qs generalizing w with
    | nil => rfl
    | cons a t ih => 
      have := ih (w.updQuad a (fun x => { x with pc := pc }))
      unfold Wave.setPcs at *
      simp only [List.foldl_cons]
      rw [this]; rfl
  unfold Wave.flow
  split
  · simp only; rw [hs]
  · split
    · rfl
    · split
      · split
        · dsimp only; rw [hs]
        · dsimp only; rw [hs]
      · dsimp only; rw [hs]

theorem unblock_frame (w : Wave) :
    w.unblock = { w with sched := w.unblock.sched } ∧ (w.sched = .trapped → w.unblock.sched = .trapped) := by
  unfold Wave.unblock
  split
  · rename_i h
    exact ⟨rfl, fun x => by rw [x] at h; cases h⟩
  · exact ⟨rfl, id⟩

/-- What the end of a wait leaves: everything but the flow of the gang that waited. -/
structure Kept (w v : Wave) : Prop where
  key : v.key = w.key
  regs : v.sameRegs w
  trap : v.trap = w.trap
  info : v.info = w.info
  ended : v.ended = w.ended
  stale : v.stale = w.stale
  trapped : w.sched = .trapped → v.sched = .trapped

theorem Kept.refl (w : Wave) : Kept w w := ⟨rfl, ⟨rfl, rfl, rfl, rfl, rfl, rfl⟩, rfl, rfl, rfl, rfl, id⟩

theorem Kept.trans {a b c : Wave} (h : Kept a b) (g : Kept b c) : Kept a c := by
  obtain ⟨h1, ⟨r1, r2, r3, r4, r5, r6⟩, h3, h4, h5, h6, h7⟩ := h
  obtain ⟨g1, ⟨q1, q2, q3, q4, q5, q6⟩, g3, g4, g5, g6, g7⟩ := g
  exact ⟨g1.trans h1, ⟨q1.trans r1, q2.trans r2, q3.trans r3, q4.trans r4, q5.trans r5, q6.trans r6⟩, g3.trans h3, g4.trans h4,
    g5.trans h5, g6.trans h6, fun x => g7 (h7 x)⟩

theorem unblock_kept {w v : Wave} (h : Kept w v) : Kept w v.unblock := by
  obtain ⟨h1, h2⟩ := unblock_frame v
  rw [h1]
  exact ⟨h.key, h.regs, h.trap, h.info, h.ended, h.stale, fun x => h2 (h.trapped x)⟩

theorem completeWait_kept (w : Wave) (q : Nat) : Kept w (w.completeWait q) := by
  unfold Wave.completeWait
  split
  · exact Kept.refl w
  · rename_i g hg
    dsimp only
    have hf := flow_frame w g.quads (w.pcOf q)
    generalize (w.flow g.quads (w.pcOf q)) = r at *
    obtain ⟨v, b⟩ := r
    dsimp only at hf ⊢
    rw [hf]
    apply unblock_kept
    cases b <;> (simp only [Wave.progress, Wave.updGang, if_true, Bool.false_eq_true, if_false]; split <;>
      exact ⟨rfl, ⟨rfl, rfl, rfl, rfl, rfl, rfl⟩, rfl, rfl, rfl, rfl, id⟩)

theorem completeWaits_kept (l : List Nat) (w : Wave) : Kept w (l.foldl Wave.completeWait w) := by
  induction l generalizing w with
  | nil => exact Kept.refl w
  | cons q t ih => exact (completeWait_kept w q).trans (ih _)

theorem batonGiven_calm (w : Wave) : Calm w w.batonGiven := by
  unfold Wave.batonGiven
  have h0 : Kept w { w with rejoin := false } := ⟨rfl, ⟨rfl, rfl, rfl, rfl, rfl, rfl⟩, rfl, rfl, rfl, rfl, id⟩
  obtain ⟨h1, h2, h3, h4, h5, h6, h7⟩ := h0.trans (completeWaits_kept _ _)
  refine ⟨h1, h2, h3, h4, h5, h6, h7, fun hw => ?_⟩
  have hn : w.gangs.filter (fun g => g.wait.isBaton) = [] := by
    rw [List.filter_eq_nil_iff]
    simpa [Wave.wantsBaton, List.any_eq_false] using hw
  rw [hn]; exact ⟨rfl, rfl⟩

/-- After the baton has passed: memory, the clock and, but for the engines, the cores stay. -/
structure Quiet (s t : State) : Prop where
  mem : t.mem = s.mem
  len : t.cores.length = s.cores.length
  core : ∀ c, t.core c = { s.core c with eng := (t.core c).eng }
  wave : ∀ k w, s.wave? k = some w → ∃ v, t.wave? k = some v ∧ Calm w v
  gtb : t.gtb = s.gtb
  home : t.mops = s.mops ∧ t.eDev = s.eDev ∧ t.eFab = s.eFab ∧ t.parts = s.parts

theorem updEng_quiet (s : State) (c f) : Quiet s (s.updEng c f) := by
  refine ⟨rfl, by simp [State.updEng, State.updCore], fun d => ?_, fun _ w h => ⟨w, h, Calm.refl w⟩, rfl, rfl, rfl, rfl, rfl⟩
  simp only [State.updEng, State.updCore, State.core, List.getD_eq_getElem?_getD, List.getElem?_set]
  split
  · rename_i h; subst h
    split <;> simp_all
  · rfl
theorem Quiet.refl (s : State) : Quiet s s := ⟨rfl, rfl, fun _ => rfl, fun _ w h => ⟨w, h, Calm.refl w⟩, rfl, rfl, rfl, rfl, rfl⟩
theorem calm_wants {w v} (h : Calm w v) (hw : w.wantsBaton = false) : v.wantsBaton = false := by
  have := (h.still hw).1
  simp only [Wave.wantsBaton, this]; exact hw
theorem Quiet.trans {a b c} (h : Quiet a b) (g : Quiet b c) : Quiet a c := by
  refine ⟨g.mem.trans h.mem, g.len.trans h.len, fun x => ?_, fun k w hw => ?_, g.gtb.trans h.gtb, g.home.1.trans h.home.1,
    g.home.2.1.trans h.home.2.1, g.home.2.2.1.trans h.home.2.2.1, g.home.2.2.2.trans h.home.2.2.2⟩
  · rw [g.core x, h.core x]
  · obtain ⟨v, hv, c1⟩ := h.wave k w hw
    obtain ⟨u, hu, c2⟩ := g.wave k v hv
    exact ⟨u, hu, c1.trans c2 (calm_wants c1)⟩
theorem updTeam_quiet (s : State) (a b f) : Quiet s (s.updTeam a b f) := ⟨rfl, rfl, fun _ => rfl, fun _ w h => ⟨w, h, Calm.refl w⟩, rfl, rfl, rfl, rfl, rfl⟩
theorem restoreEngine_quiet (s c g t) : Quiet s (restoreEngine s c g t) := by
  unfold restoreEngine
  split
  · exact Quiet.refl s
  · split
    · exact Quiet.refl s
    · exact (updEng_quiet s _ _).trans (updTeam_quiet _ _ _ _)
theorem restoreIdle_quiet (s c) : Quiet s (restoreIdle s c) := by
  unfold restoreIdle
  generalize s.teams.filter _ = l
  induction l generalizing s with
  | nil => exact Quiet.refl s
  | cons a t ih => exact ((updEng_quiet s _ _).trans (restoreEngine_quiet _ c a.gid a.num)).trans (ih _)
theorem updWave_quiet (s : State) (k) (f : Wave → Wave) (hf : ∀ w, Calm w (f w)) : Quiet s (s.updWave k f) := by
  refine ⟨rfl, rfl, fun _ => rfl, fun k' w h => ?_, rfl, rfl, rfl, rfl, rfl⟩
  rw [State.wave?_updWave s k f (fun w => (hf w).key), h]
  by_cases hk : w.key = k
  · exact ⟨f w, by simp [hk], hf w⟩
  · exact ⟨w, by simp [hk], Calm.refl w⟩
theorem grant_quiet (s c k) : Quiet s (grantBaton s c k) := by
  unfold grantBaton
  split
  · exact updEng_quiet s _ _
  · dsimp only
    refine Quiet.trans ?_ (updWave_quiet _ _ _ batonGiven_calm)
    refine Quiet.trans ?_ (restoreEngine_quiet _ _ _ _)
    exact updEng_quiet s _ _
theorem pass_quiet (s c n) : Quiet s (passBaton s c n) := by
  unfold passBaton
  dsimp only
  split
  · exact (updEng_quiet s _ _).trans (restoreIdle_quiet _ _)
  · exact grant_quiet _ _ _
theorem release_quiet (s k) : Quiet s (releaseBaton s k) := by
  unfold releaseBaton
  split
  · exact Quiet.refl s
  · dsimp only; split
    · exact pass_quiet _ _ _
    · exact updEng_quiet _ _ _

theorem Quiet.lineFree {s t : State} (h : Quiet s t) (a : Nat) : t.lineFree a = s.lineFree a := by
  have hs (u : Target) : sharedAny t u = sharedAny s u := by
    simp only [sharedAny, sharedRegion, regionAt, State.part, h.home.2.2.2]
  unfold State.lineFree
  rw [h.gtb, h.home.1, h.home.2.1, h.home.2.2.1, hs]

theorem contestAt_wave (s : State) (t : Target) (k : WaveKey) : (contestAt s t).wave? k = s.wave? k := by
  unfold contestAt
  split
  · unfold autoContest
    split <;> rfl
  · rfl

theorem drain_wave (s c n k) : (drainTrapQueue s c n).wave? k = s.wave? k := by
  induction n generalizing s with
  | zero => rfl
  | succ n ih =>
    unfold drainTrapQueue
    dsimp only
    split
    · rfl
    · split
      · rfl
      · split
        · rw [ih, State.updCore_wave?]; unfold State.wave?; rfl
        · exact contestAt_wave s _ k

theorem core_updCore (s : State) (c f) (h : c < s.cores.length) : (s.updCore c f).core c = f (s.core c) := by
  simp [State.core, State.updCore, h]

theorem unissue_wants (w : Wave) : (w.gangs.map Gang.unissue).any (fun g => g.wait.isBaton) = false := by
  simp only [List.any_map, List.any_eq_false, Function.comp]
  intro g _
  unfold Gang.unissue
  cases g.wait <;> simp [Wait.isBaton]

end Sys2Proof.Machine
end

