-- ==== Sys2Proof/Laws/Issue.lean ====
section
/-! SUPPORT. What the issue of an instruction does, said once. -/

namespace Sys2Proof.Machine

/-- An instruction that passes its issue answers the state that its body's end leaves. -/
theorem issue_of_issuedAs {h : Hdr} {ok : Ctx → Bool} {sig : Ctx → Sig} {body : Ctx → State → Exit} {s : State} {x : Issued}
    (hx : issuedAs h ok sig s = some x) : issue h ok sig body s = .next (x.after (body x.c x.s)) := by
  unfold issuedAs at hx
  unfold issue
  split at hx
  · cases hx
  · rename_i c pair hc
    simp only
    simp only [Bool.and_eq_true, Bool.not_eq_true', Option.isNone_iff_eq_none] at hx
    split at hx
    · rename_i hall
      obtain ⟨⟨⟨⟨⟨⟨h1, h2⟩, h3⟩, h6⟩, h7⟩, h4⟩, h5⟩ := hall
      cases hx
      simp only [hc, h1, issueBody, h2, h3, h4, h5, h6, h7, Bool.not_true, Bool.or_self, Bool.false_eq_true, if_false]
      rfl
    · cases hx

/-! ## States that differ in one wave -/

/-- `t` is `s` with the wave `k` updated by `F`, and the budget of its context charged. -/
structure Upd (k : WaveKey) (F : Wave → Wave) (s t : State) : Prop where
  waves : t.waves = s.waves.map (fun w => if w.key = k then F w else w)
  keys : ∀ w, w.key = k → (F w).key = k
  frame : t = { s with waves := t.waves, teams := t.teams, parts := t.parts }
  plen : t.parts.length = s.parts.length
  pbud : ∀ p, t.part p = { s.part p with budUsed := (t.part p).budUsed }

theorem Upd.refl (k s) : Upd k id s s := ⟨by simp, fun _ h => h, rfl, rfl, fun _ => rfl⟩

theorem Upd.upd {k F s t} (h : Upd k F s t) (G : Wave → Wave) (hG : ∀ w, w.key = k → (G w).key = k) :
    Upd k (fun w => G (F w)) s (t.updWave k G) := by
  refine ⟨?_, fun w hw => hG _ (h.keys w hw), ?_, h.plen, h.pbud⟩
  · simp only [State.updWave, h.waves, List.map_map]
    congr 1; funext w
    simp only [Function.comp]
    by_cases hw : w.key = k <;> simp [hw, h.keys]
  · have := h.frame
    simp only [State.updWave]
    rw [this]

theorem charge_frame (s : State) (c : Ctx) (n : Nat) :
    charge s c n = { s with parts := (charge s c n).parts } ∧ (charge s c n).parts.length = s.parts.length
      ∧ ∀ p, (charge s c n).part p = { s.part p with budUsed := ((charge s c n).part p).budUsed } := by
  unfold charge
  split
  · exact ⟨rfl, rfl, fun _ => rfl⟩
  · dsimp only
    split
    · refine ⟨rfl, by simp [State.updPart], fun p => ?_⟩
      simp only [State.updPart, State.part, List.getD_eq_getElem?_getD, List.getElem?_set]
      split
      · rename_i h; subst h
        split <;> simp_all
      · rfl
    · exact ⟨rfl, rfl, fun _ => rfl⟩

theorem Upd.charge {k F s t} (h : Upd k F s t) (c n) : Upd k F s (charge t c n) := by
  obtain ⟨h1, h2, h3⟩ := charge_frame t c n
  refine ⟨?_, h.keys, ?_, ?_, ?_⟩
  · rw [h1]; exact h.waves
  · rw [h1]; have := h.frame; rw [this]
  · rw [h2, h.plen]
  · intro p; rw [h3 p, h.pbud p]

theorem find_key (l : List Wave) (k : WaveKey) (F : Wave → Wave) (hF : ∀ w, w.key = k → (F w).key = k) (k' : WaveKey) :
    (l.map (fun w => if w.key = k then F w else w)).find? (fun w => w.key == k')
      = (l.find? (fun w => w.key == k')).map (fun w => if w.key = k then F w else w) := by
  induction l with
  | nil => rfl
  | cons a t ih =>
    have hk : (if a.key = k then F a else a).key = a.key := by
      split
      · rename_i h; rw [hF a h, h]
      · rfl
    simp only [List.map_cons, List.find?_cons, hk]
    cases h : a.key == k' <;> simp [ih]

theorem Upd.find {k F s t} (h : Upd k F s t) {w} (hw : s.wave? k = some w) : t.wave? k = some (F w) := by
  have hk := State.wave?_key hw
  unfold State.wave? at *
  rw [h.waves, find_key _ _ _ h.keys, hw]
  simp [hk]

theorem Upd.other {k F s t} (h : Upd k F s t) {k'} (hk : k' ≠ k) : t.wave? k' = s.wave? k' := by
  unfold State.wave?
  rw [h.waves, find_key _ _ _ h.keys]
  cases hx : s.waves.find? (fun w => w.key == k') with
  | none => rfl
  | some w =>
    have : w.key = k' := by simpa using List.find?_some hx
    simp [this, hk]

theorem Upd.onlyWave {x : Issued} {F s t} (h : Upd x.c.k F s t) : x.onlyWave s t :=
  ⟨h.frame, fun _ hk => h.other hk, h.plen, h.pbud⟩

/-! ## The ends of an issue -/

/-- `recordIssue` on the wave. -/
def recW (x : Issued) (old : List RegWr) (cyc : Nat) (w : Wave) : Wave :=
  let n := lastStep x.c.g x.c.pc x.g
  let second := (x.c.g.last.map (fun l => pairsWith l x.c.pc x.g)).getD false
  let lanes (k : RegKey) : Mask := match k.file with | .sca => 1 | _ => laneMask x.c.lanes
  let fresh : List Hist :=
    if 0 < x.c.latency x.g ∧ !x.c.lanes.isEmpty then
      x.g.writeKeys.map (fun k =>
        { key := k, lanes := lanes k, stale := lanes k, need := x.c.latency x.g + x.c.beats x.g - 1, dist := 0,
          ready := cyc + x.c.beats x.g - 1 + x.c.latency x.g, inter := false,
          old := old.filter (fun r => r.file == k.file && r.n == k.n) })
    else []
  let cover (y : Hist) : Hist :=
    if x.g.writeKeys.contains y.key && !x.c.lanes.isEmpty then
      { y with
        lanes := y.lanes &&& ~~~lanes y.key
        stale := if x.c.latency x.g = 0 then y.stale &&& ~~~lanes y.key else y.stale }
    else y
  let last : LastIssue :=
    { pc := x.c.pc, pairBit := x.pair, stall := x.h.stall.toNat, beats := x.c.beats x.g, vecPipe := x.g.vecPipe,
      control := x.g.control, writes := x.g.writeKeys, second := second, regang := x.g.regang, cyc := cyc }
  { w with
      settling := false
      gangs := w.gangs.map (fun y =>
        if y.quads.any (fun q => x.c.g.quads.contains q) then
          { y with
            hist := ((aged x.c.g n).filter (fun y => !y.inter || decide (cyc < y.ready))).map cover ++ fresh
            last := some last, replay := none, owed := none, released := false, bound := none, stalledAt := none }
        else y) }

/-- `countIssue` on the wave. -/
def cntW (x : Issued) (cyc : Nat) (w : Wave) : Wave :=
  { w with
    cntIss := w.cntIss + 1, lastIssue := cyc
    consec :=
      if w.gangs.any (fun g => g.quads.headD 0 != x.c.g.quads.headD 0 && g.due cyc) then
        (if w.rot = x.c.g.quads.headD 0 then w.consec + 1 else 1)
      else 0
    rot := x.c.g.quads.headD 0, stale := []
    preempt := (match w.preempt with | .running m l => .running (m + x.c.beats x.g) l | p => p) }

theorem Upd.issue {x : Issued} {F s t} (h : Upd x.c.k F s t) (old) :
    Upd x.c.k (fun w => recW x old t.cyc (cntW x t.cyc (latchDrop (F w) x.c.pc x.c.lanes))) s
      (recordIssue (countIssue (t.updWave x.c.k (fun w => latchDrop w x.c.pc x.c.lanes)) x.c (x.c.beats x.g)) x.c x.h x.g
        x.pair old) := by
  have h1 := h.upd (fun w => latchDrop w x.c.pc x.c.lanes) (fun w hw => hw)
  have h2 := h1.upd (cntW x t.cyc) (fun w hw => hw)
  have h3 := h2.charge x.c (if (x.c.g.last.map (fun l => pairsWith l x.c.pc x.g)).getD false then 0 else x.c.beats x.g)
  exact h3.upd (recW x old t.cyc) (fun w hw => hw)

/-! ## Sequential flow -/

theorem setPcs_quads (w : Wave) (qs : List Nat) (pc : Pc) : w.setPcs qs pc = { w with quads := (w.setPcs qs pc).quads } := by
  induction qs generalizing w with
  | nil => rfl
  | cons a t ih =>
    have := ih (w.updQuad a (fun x => { x with pc := pc }))
    unfold Wave.setPcs at *
    simp only [List.foldl_cons]
    rw [this]; rfl

theorem setPcs_get (w : Wave) (qs : List Nat) (pc : Pc) (q : Nat) :
    (w.setPcs qs pc).quads[q]? = if q ∈ qs then (w.quads[q]?).map (fun x => { x with pc := pc }) else w.quads[q]? := by
  induction qs generalizing w with
  | nil => simp [Wave.setPcs]
  | cons a t ih =>
    have := ih (w.updQuad a (fun x => { x with pc := pc }))
    unfold Wave.setPcs at *
    simp only [List.foldl_cons]
    rw [this]
    simp only [Wave.updQuad, List.getElem?_modify, List.mem_cons]
    by_cases h1 : q = a
    · subst h1; by_cases h2 : q ∈ t <;> cases w.quads[q]? <;> simp [h2]
    · have : ¬ a = q := fun h => h1 h.symm
      by_cases h2 : q ∈ t <;> cases w.quads[q]? <;> simp [h1, h2, this]

/-- Away from a split body end, sequential flow moves the named quads to `flowPc` and nothing else. -/
theorem flow_spec (w : Wave) (qs : List Nat) (pc : Pc) (h : ¬ w.splitEnd pc) :
    (w.flow qs pc).2 = false ∧ (w.flow qs pc).1.quads = (w.setPcs qs (w.flowPc pc)).quads := by
  unfold Wave.flow Wave.flowPc
  unfold Wave.splitEnd at h
  cases hl : w.levels with
  | nil => simp
  | cons l r =>
    obtain ⟨a, e⟩ := l
    rw [hl] at h
    simp only [List.head?_cons, Option.map_some, Option.some.injEq] at h ⊢
    cases qs with
    | nil => exact ⟨rfl, rfl⟩
    | cons q t =>
      simp only [List.isEmpty_cons, Bool.false_eq_true, if_false]
      by_cases he : e = pc
      · have hg : w.gangs.length ≤ 1 := by by_contra hh; exact h ⟨by omega, he⟩
        rw [if_pos he, if_pos hg, if_pos he]
        refine ⟨rfl, ?_⟩
        rw [setPcs_quads]
        apply List.ext_getElem?; intro i
        rw [setPcs_get, setPcs_get]
      · rw [if_neg he, if_neg he]; exact ⟨rfl, rfl⟩

theorem flows_of {x : Issued} {w0 w : Wave}
    (hq : w.quads = (w0.setPcs (x.c.g.quads.filter w0.quadLive) (w0.flowPc x.c.pc)).quads) : x.flows w0 w := by
  have hg : ∀ q, w.quads[q]? = if q ∈ x.c.g.quads.filter w0.quadLive
      then (w0.quads[q]?).map (fun y => { y with pc := w0.flowPc x.c.pc }) else w0.quads[q]? := by
    intro q; rw [hq, setPcs_get]
  refine ⟨fun q hm hl => ?_, fun q hm => ?_, fun q => ?_⟩
  · have : q ∈ x.c.g.quads.filter w0.quadLive := List.mem_filter.2 ⟨hm, hl⟩
    simp only [Wave.pcOf, List.getD_eq_getElem?_getD, hg q, if_pos this]
    unfold Wave.quadLive at hl
    cases h : w0.quads[q]? with
    | none => simp [h] at hl
    | some y => rfl
  · have : q ∉ x.c.g.quads.filter w0.quadLive := fun h => hm (List.mem_filter.1 h).1
    simp only [Wave.pcOf, List.getD_eq_getElem?_getD, hg q, if_neg this]
  · simp only [Wave.maskOf, List.getD_eq_getElem?_getD, hg q]
    split <;> cases w0.quads[q]? <;> rfl

theorem Upd.goOn {x : Issued} {F s t w0} (h : Upd x.c.k F s t) (hw : s.wave? x.c.k = some w0)
    (hl : (F w0).levels = w0.levels) (hlc : (F w0).lc = w0.lc) (hg : (F w0).gangs.length = w0.gangs.length)
    (hq : (F w0).quads = w0.quads) (hs : ¬ w0.splitEnd x.c.pc) :
    ∃ G : Wave → Wave, Upd x.c.k G s (goOn t x.c) ∧ (G w0).sameRegs (F w0) ∧ (G w0).cntIss = (F w0).cntIss
      ∧ (G w0).pend = (F w0).pend ∧ x.flows w0 (G w0) := by
  have hfind := h.find hw
  have hk := State.wave?_key hw
  have hs' : ¬ (F w0).splitEnd x.c.pc := by unfold Wave.splitEnd at *; rw [hl, hg]; exact hs
  obtain ⟨h2, h1⟩ := flow_spec (F w0) (x.c.g.quads.filter (F w0).quadLive) x.c.pc hs'
  have hfr := flow_frame (F w0) (x.c.g.quads.filter (F w0).quadLive) x.c.pc
  unfold Machine.goOn
  simp only [hfind, h2, Bool.false_eq_true, if_false]
  refine ⟨_, h.upd (fun _ => ((F w0).flow (x.c.g.quads.filter (F w0).quadLive) x.c.pc).1) (fun w _ => ?_), ?_, ?_, ?_, ?_⟩
  · rw [hfr]; exact h.keys w0 hk
  · rw [hfr]; exact ⟨rfl, rfl, rfl, rfl, rfl, rfl⟩
  · rw [hfr]
  · rw [hfr]
  · apply flows_of
    rw [h1]
    have hf : (F w0).flowPc x.c.pc = w0.flowPc x.c.pc := by unfold Wave.flowPc; rw [hl, hlc]
    have hql : (F w0).quadLive = w0.quadLive := by funext q; simp only [Wave.quadLive, hq]
    rw [hf, hql]
    apply List.ext_getElem?; intro i
    rw [setPcs_get, setPcs_get, hq]

/-- The end of an instruction that has put its effect into a state: the wave is counted and goes on in sequence. -/
theorem after_done {x : Issued} {t0 : State} {w0 : Wave} (hw : t0.wave? x.c.k = some w0) (hs : ¬ w0.splitEnd x.c.pc) :
    ∃ G : Wave → Wave, Upd x.c.k G t0 (x.after (.done t0)) ∧ (G w0).sameRegs w0 ∧ (G w0).cntIss = w0.cntIss + 1
      ∧ (G w0).pend = w0.pend ∧ x.flows w0 (G w0) := by
  have h := (Upd.refl x.c.k t0).issue (x := x) []
  exact h.goOn hw rfl rfl (by simp [recW, cntW, latchDrop]) rfl hs

end Sys2Proof.Machine
end

