-- ==== Sys2Proof/Laws/Memory.lean ====
section
/-! SUPPORT. Sparse maps: what a write leaves to be read, that every operation keeps the canonical form, and that maps which read alike
are equal. -/

namespace Sys2Proof.Machine

namespace SMap

variable {β : Type} [DecidableEq β] {d : β}

theorem get_set_self (m : SMap β) (k : Nat) (v : β) (h : wf d m = true) : get d (set d m k v) k = v := by
  have aux : ∀ (m : SMap β), (∀ p ∈ m, p.2 ≠ d) → ∀ lo, above lo m = true → k ≤ lo → get d m k = d := by
    intro m
    induction m with
    | nil => intros; rfl
    | cons p t ih =>
      intro hd lo ha hk
      obtain ⟨a, x⟩ := p
      simp only [above, Bool.and_eq_true, decide_eq_true_eq] at ha
      rw [get, if_neg (by omega)]
      exact ih (fun p hp => hd p (List.mem_cons_of_mem _ hp)) a ha.2 (by omega)
  induction m with
  | nil => by_cases hv : v = d <;> simp [set, get, hv]
  | cons p t ih =>
    obtain ⟨a, x⟩ := p
    simp only [wf, Bool.and_eq_true, List.all_eq_true, decide_eq_true_eq, List.mem_cons] at h
    have hd : ∀ p ∈ t, p.2 ≠ d := fun p hp => h.2 p (.inr hp)
    simp only [set]
    split
    · split
      · rename_i h1 h2
        rw [get, if_neg (by omega), aux t hd a h.1 (by omega), h2]
      · simp [get]
    · split
      · split
        · rename_i h1 h2 h3
          rw [aux t hd a h.1 (by omega), h3]
        · simp [get]
      · rename_i h1 h2
        rw [get, if_neg (by omega)]
        refine ih ?_
        cases t with
        | nil => rfl
        | cons q t =>
          simp only [above, Bool.and_eq_true, decide_eq_true_eq] at h
          simp only [wf, Bool.and_eq_true, List.all_eq_true, decide_eq_true_eq]
          exact ⟨h.1.2, hd⟩

theorem get_set_other (m : SMap β) (k j : Nat) (v : β) (h : j ≠ k) : get d (set d m k v) j = get d m j := by
  induction m with
  | nil => by_cases hv : v = d <;> simp [set, get, hv, Ne.symm h]
  | cons p t ih =>
    obtain ⟨a, x⟩ := p
    simp only [set]
    split
    · split
      · rfl
      · simp [get, Ne.symm h]
    · split
      · rename_i h1 h2
        subst h2
        split <;> simp [get, Ne.symm h]
      · simp only [get, ih]

theorem above_set (m : SMap β) (lo k : Nat) (v : β) (h : above lo m = true) (hk : lo < k) : above lo (set d m k v) = true := by
  induction m generalizing lo with
  | nil => by_cases hv : v = d <;> simp [set, above, hv, hk]
  | cons p t ih =>
    obtain ⟨a, x⟩ := p
    simp only [above, Bool.and_eq_true, decide_eq_true_eq] at h
    have weak : ∀ (t : SMap β) (lo lo' : Nat), above lo t = true → lo' ≤ lo → above lo' t = true := by
      intro t
      cases t with
      | nil => intros; rfl
      | cons q t =>
        intro lo lo' h hl
        simp only [above, Bool.and_eq_true, decide_eq_true_eq] at h ⊢
        exact ⟨by omega, h.2⟩
    simp only [set]
    split
    · rename_i h1
      split
      · simp [above, h]
      · simp [above, h, hk, h1]
    · split
      · rename_i h1 h2
        subst h2
        split
        · exact weak t k lo h.2 (by omega)
        · simp [above, h]
      · simp only [above, Bool.and_eq_true, decide_eq_true_eq]
        exact ⟨h.1, ih a h.2 (by omega)⟩

theorem mem_set (m : SMap β) (k : Nat) (v : β) (p : Nat × β) (h : p ∈ set d m k v) : p ∈ m ∨ (p = (k, v) ∧ v ≠ d) := by
  induction m with
  | nil =>
    simp only [set] at h
    split at h
    · cases h
    · rename_i hv
      exact .inr ⟨by simpa using h, hv⟩
  | cons q t ih =>
    obtain ⟨a, x⟩ := q
    simp only [set] at h
    split at h
    · split at h
      · exact .inl h
      · rename_i hv
        rcases List.mem_cons.1 h with h | h
        · exact .inr ⟨h, hv⟩
        · exact .inl h
    · split at h
      · split at h
        · exact .inl (List.mem_cons_of_mem _ h)
        · rename_i hv
          rcases List.mem_cons.1 h with h | h
          · exact .inr ⟨h, hv⟩
          · exact .inl (List.mem_cons_of_mem _ h)
      · rcases List.mem_cons.1 h with h | h
        · exact .inl (List.mem_cons.2 (.inl h))
        · rcases ih h with h | h
          · exact .inl (List.mem_cons_of_mem _ h)
          · exact .inr h

theorem wf_iff (m : SMap β) :
    wf d m = true ↔ (match m with | [] => True | (a, _) :: t => above a t = true) ∧ ∀ p ∈ m, p.2 ≠ d := by
  cases m <;> simp [wf]

/-- A write keeps the canonical form. -/
theorem wf_set (m : SMap β) (k : Nat) (v : β) (h : wf d m = true) : wf d (set d m k v) = true := by
  rw [wf_iff] at h ⊢
  refine ⟨?_, fun p hp => ?_⟩
  · cases m with
    | nil => by_cases hv : v = d <;> simp [set, above, hv]
    | cons q t =>
      obtain ⟨a, x⟩ := q
      have ha : above a t = true := h.1
      by_cases h1 : k < a
      · by_cases hv : v = d
        · simpa [set, h1, hv] using ha
        · simp [set, h1, hv, above, ha]
      · by_cases h2 : k = a
        · subst h2
          by_cases hv : v = d
          · simp only [set, if_neg h1, if_pos hv, if_true]
            cases t with
            | nil => trivial
            | cons q t =>
              simp only [above, Bool.and_eq_true, decide_eq_true_eq] at ha
              exact ha.2
          · simpa [set, hv] using ha
        · simp only [set, if_neg h1, if_neg h2]
          exact above_set t a k v ha (by omega)
  · rcases mem_set m k v p hp with hp | ⟨rfl, hv⟩
    · exact h.2 p hp
    · exact hv

theorem wf_nil : wf d ([] : SMap β) = true := rfl

omit [DecidableEq β] in
theorem get_below (m : SMap β) (lo k : Nat) (h : above lo m = true) (hk : k ≤ lo) : get d m k = d := by
  induction m generalizing lo with
  | nil => rfl
  | cons p t ih =>
    obtain ⟨a, x⟩ := p
    simp only [above, Bool.and_eq_true, decide_eq_true_eq] at h
    rw [get, if_neg (by omega)]
    exact ih a h.2 (by omega)

/-- Canonical maps that read alike are equal. -/
theorem ext_of_get (m n : SMap β) (hm : wf d m = true) (hn : wf d n = true) (h : ∀ k, get d m k = get d n k) : m = n := by
  have tail : ∀ (a : Nat) (x : β) (t : SMap β), wf d ((a, x) :: t) = true → wf d t = true := by
    intro a x t ht
    rw [wf_iff] at ht ⊢
    refine ⟨?_, fun p hp => ht.2 p (List.mem_cons_of_mem _ hp)⟩
    cases t with
    | nil => trivial
    | cons q t =>
      have := ht.1
      simp only [above, Bool.and_eq_true, decide_eq_true_eq] at this
      exact this.2
  induction m generalizing n with
  | nil =>
    cases n with
    | nil => rfl
    | cons q t =>
      obtain ⟨b, y⟩ := q
      have := h b
      simp only [get, if_true] at this
      exact absurd this.symm ((wf_iff _).1 hn |>.2 (b, y) (List.mem_cons_self ..))
  | cons p t ih =>
    obtain ⟨a, x⟩ := p
    have hx : x ≠ d := ((wf_iff _).1 hm).2 (a, x) (List.mem_cons_self ..)
    have ha : above a t = true := ((wf_iff _).1 hm).1
    cases n with
    | nil =>
      have := h a
      simp only [get, if_true] at this
      exact absurd this hx
    | cons q u =>
      obtain ⟨b, y⟩ := q
      have hy : y ≠ d := ((wf_iff _).1 hn).2 (b, y) (List.mem_cons_self ..)
      have hb : above b u = true := ((wf_iff _).1 hn).1
      have e1 := h a
      have e2 := h b
      simp only [get, if_true] at e1 e2
      have hab : a = b := by
        rcases Nat.lt_trichotomy a b with hl | hl | hl
        · rw [if_neg (by omega), get_below u b a hb (by omega)] at e1
          exact absurd e1 hx
        · exact hl
        · rw [if_neg (by omega), get_below t a b ha (by omega)] at e2
          exact absurd e2.symm hy
      subst hab
      simp only [if_true] at e1
      subst e1
      have : t = u := by
        refine ih u (tail a x t hm) (tail a x u hn) (fun k => ?_)
        by_cases hk : k ≤ a
        · rw [get_below t a k ha hk, get_below u a k hb hk]
        · have := h k
          simp only [get] at this
          rwa [if_neg (by omega), if_neg (by omega)] at this
      rw [this]

theorem wf_setAll (m : SMap β) (l : List (Nat × β)) (h : wf d m = true) : wf d (setAll d m l) = true := by
  induction l generalizing m with
  | nil => exact h
  | cons p t ih => exact ih _ (wf_set m p.1 p.2 h)

end SMap

namespace Memory

theorem get_set (m : Memory) (a b : Nat) (v : Byte) (h : m.wf = true) : (m.set a v).get b = if b = a then v else m.get b := by
  split
  · rename_i hb
    subst hb
    exact SMap.get_set_self m b v h
  · rename_i hb
    exact SMap.get_set_other m a b v hb

theorem wf_set (m : Memory) (a : Nat) (v : Byte) (h : m.wf = true) : (m.set a v).wf = true := SMap.wf_set m a v h

theorem wf_write (m : Memory) (a : Nat) (l : List Byte) (h : m.wf = true) : (m.write a l).wf = true := by
  induction l generalizing m a with
  | nil => exact h
  | cons b t ih => exact ih (m.set a b) (a + 1) (wf_set m a b h)

theorem wf_writeNat (m : Memory) (a n x : Nat) (h : m.wf = true) : (m.writeNat a n x).wf = true := wf_write m a _ h

/-- The bytes that a write leaves, and those it does not touch. -/
theorem get_write (m : Memory) (a : Nat) (l : List Byte) (b : Nat) (h : m.wf = true) :
    (m.write a l).get b = if a ≤ b then (l[b - a]?).getD (m.get b) else m.get b := by
  induction l generalizing m a with
  | nil => simp [Memory.write]
  | cons x t ih =>
    rw [Memory.write, ih (m.set a x) (a + 1) (wf_set m a x h), get_set m a b x h]
    by_cases h1 : b = a
    · subst h1
      simp
    · by_cases h2 : a ≤ b
      · have : b - a = (b - (a + 1)) + 1 := by omega
        rw [if_pos (by omega), if_pos h2, if_neg h1, this, List.getElem?_cons_succ]
      · rw [if_neg (by omega), if_neg h2, if_neg h1]

end Memory

theorem natToBytes_length (n x : Nat) : (natToBytes n x).length = n := by
  induction n generalizing x with
  | zero => rfl
  | succ n ih => simp [natToBytes, ih]

/-- Little-endian bytes hold their number (R4). -/
theorem bytesToNat_natToBytes (n x : Nat) : bytesToNat (natToBytes n x) = x % 256 ^ n := by
  induction n generalizing x with
  | zero => simp [natToBytes, bytesToNat, Nat.mod_one]
  | succ n ih =>
    have h : 256 ^ (n + 1) = 2 ^ 8 * 256 ^ n := by ring
    rw [natToBytes, bytesToNat, ih, BitVec.toNat_ofNat, h, Nat.mod_mul]
    rfl

theorem bytesToNat_lt (l : List Byte) : bytesToNat l < 256 ^ l.length := by
  induction l with
  | nil => simp [bytesToNat]
  | cons b t ih =>
    have := b.isLt
    simp only [bytesToNat, List.length_cons, Nat.pow_succ]
    omega

end Sys2Proof.Machine
end

