-- ==== Sys2Proof/Laws/Place.lean ====
section
/-! SUPPORT. The places of the machine's bytes: what a byte's write changes, and the schedule that follows every step. -/

namespace Sys2Proof.Machine

namespace State

theorem core_updCore_self (s : State) (c : Nat) (f : Core → Core) (h : c < s.cores.length) : (s.updCore c f).core c = f (s.core c) := by
  simp [State.core, State.updCore, h]

theorem core_updCore_ne (s : State) (c e : Nat) (f : Core → Core) (h : e ≠ c) : (s.updCore c f).core e = s.core e := by
  simp [State.core, State.updCore, Ne.symm h]

@[simp] theorem updCore_length (s : State) (c : Nat) (f : Core → Core) : (s.updCore c f).cores.length = s.cores.length := by
  simp [State.updCore]

theorem memOk_updCore (s : State) (c : Nat) (f : Core → Core) (h : s.memOk) (hf : (f (s.core c)).comb.wf = true) :
    (s.updCore c f).memOk := by
  refine ⟨h.1, h.2.1, h.2.2.1, fun x hx => ?_⟩
  rcases List.mem_or_eq_of_mem_set hx with hx | rfl
  · exact h.2.2.2 x hx
  · exact hf

theorem core_comb_wf (s : State) (c : Nat) (h : s.memOk) : (s.core c).comb.wf = true := by
  unfold State.core
  by_cases hc : c < s.cores.length
  · rw [List.getD_eq_getElem?_getD, List.getElem?_eq_getElem hc]
    exact h.2.2.2 _ (List.getElem_mem hc)
  · rw [List.getD_eq_getElem?_getD, List.getElem?_eq_none (by omega)]
    rfl

/-- Every write of a byte keeps the canonical form. -/
theorem memOk_setByte (s : State) (t : Target) (b : Byte) (h : s.memOk) : (s.setByte t b).memOk := by
  cases t with
  | dev a => exact ⟨Memory.wf_set _ a b h.1, h.2⟩
  | host p a => exact ⟨h.1, Memory.wf_set _ _ b h.2.1, h.2.2⟩
  | peer r a => exact ⟨h.1, h.2.1, Memory.wf_set _ _ b h.2.2.1, h.2.2.2⟩
  | comb c o => exact memOk_updCore s c _ h (Memory.wf_set _ o b (core_comb_wf s c h))
  | rawComb c o =>
    have key : (s.updCore c (fun x => { x with comb := x.comb.set o b })).memOk :=
      memOk_updCore s c _ h (Memory.wf_set _ o b (core_comb_wf s c h))
    simp only [State.setByte, rawCombSet]
    split
    · exact h
    · exact h
    · split
      · exact key
      · exact h
    · split
      · exact key
      · exact memOk_updCore s c _ h (Memory.wf_set _ o b (core_comb_wf s c h))
    · exact key

theorem memOk_setBytes (s : State) (t : Target) (l : List Byte) (h : s.memOk) : (s.setBytes t l).memOk := by
  induction l generalizing s t with
  | nil => exact h
  | cons b l ih => exact ih _ _ (memOk_setByte s t b h)

theorem memOk_writeAt (s : State) (t : Target) (n x : Nat) (h : s.memOk) : (s.writeAt t n x).memOk := memOk_setBytes s t _ h

theorem memOk_reset : State.reset.memOk := by
  refine ⟨rfl, rfl, rfl, fun c hc => ?_⟩
  rw [List.eq_of_mem_replicate hc]
  rfl

end State

/-! ## The schedule -/

/-- A place given leaves the wave as it was, or takes it out of Pending. -/
theorem settlePlace_spec (l : List Wave) (w : Wave) :
    settlePlace l w = w ∨ (w.sched = .pending ∧ (settlePlace l w = { w with sched := .blocked } ∨ settlePlace l w = { w with sched := .active })) := by
  unfold settlePlace
  split
  · exact .inl rfl
  · rename_i h
    simp only [not_or, ne_eq, Decidable.not_not] at h
    split
    · exact .inr ⟨h.1, .inl rfl⟩
    · split
      · exact .inr ⟨h.1, .inr rfl⟩
      · exact .inl rfl

theorem settlePlaces_length (d l : List Wave) : (settlePlaces d l).length = d.length + l.length := by
  induction l generalizing d with
  | nil => simp [settlePlaces]
  | cons w t ih => simp [settlePlaces, ih]; omega

end Sys2Proof.Machine
end

