-- ==== Sys2Proof/Tests/Slice0.lean ====
section
/-! SUPPORT. The model's own tests: words decoded, ill-formed terms refused, single steps, and for each statement states that
meet its hypotheses. Expected values are the spec's own, from its encodings and worked examples. -/

namespace Sys2Proof.Tests

open Sys2Proof Sys2Proof.Machine

/-! ## Decoding -/

/-- A word by its fields, in the order of R98 and R99. -/
def wordA (opc : BitVec 9) (dst : BitVec 8) (a b c : BitVec 16) (m : BitVec 18) : InstrWord := opc ++ 0#13 ++ dst ++ a ++ b ++ c ++ m

def src (n : BitVec 8) : Src := ⟨n, 0, 0⟩

/-- 04, example after R110: `!p2? FFMA.f32.rne v10, v4, v6.bcast(0), v8 ^4`. -/
theorem test_decode_ffma : decodeWord 0x41A01428_10001900_20002000#96
    = .ok (.ffma ⟨4, false, 2, true, 10⟩ ⟨src 4, ⟨6, 2, 0⟩, src 8, ⟨1, 0, false, false, false, false, false, 0⟩⟩) := by decide

/-- 05, after R134: `p1? BRA L_else, L_end`. -/
theorem test_decode_bra : decodeWord 0x01000800_00000500_01000001#96
    = .ok (.bra ⟨0, false, 1, false, 0⟩ ⟨1, 2, 2, 0, 0, ⟨0, 0, false, false, false, false, false, 1⟩⟩) := by decide

/-- 10, program A: `LD.f32 v11, h:[v6:v7]`. -/
theorem test_decode_ld : decodeWord 0x7000002C_18000000_00003080#96
    = .ok (.ld ⟨0, false, 0, false, 11⟩ ⟨src 6, src 0, 0, ⟨1, 4, 0, 2, false, 0⟩⟩) := by decide

/-- 09, after R305: `MMA.f8p.split1 t4, v10:v11`. -/
theorem test_decode_mma : decodeWord 0xA2000000_28000000_00008808#96
    = .ok (.mma ⟨0, false, 0, false, 0⟩ ⟨src 10, src 0, src 0, ⟨4, 4, false, false, false, 1, 0⟩⟩) := by decide

/-- 11, program D: MXCHOL of order 6 on a window at v24. -/
theorem test_decode_mxchol : decodeWord 0x6B000060_60001400_50000070#96
    = .ok (.mxchol ⟨0, false, 0, false, 24⟩ ⟨src 24, src 5, src 20, ⟨0, 0, false, false, true, 6, 0⟩⟩) := by decide

/-- R122, R155: `IADD.n32 v3, v1, v2`, OPC 0x033, TYPE 9. -/
theorem test_decode_iadd : decodeWord (wordA 0b000110011 0x03 0x0100 0x0200 0 0b01001_000_0_000_0_00000)
    = .ok (.iadd ⟨0, false, 0, false, 3⟩ ⟨src 1, src 2, src 0, ⟨9, 0, false, false, false, false, false, 0⟩⟩) := by decide

/-- R122, R249: `QBIND q0, none`, OPC 0x0EE, DST 240, SBASE 1, SUB bit 4. -/
theorem test_decode_qbind : decodeWord (wordA 0b011101110 0xF0 0 0 0 0b00000_000_00_00_1_10000)
    = .ok (.qbind ⟨0, false, 0, false, 240⟩ ⟨src 0, src 0, 0, ⟨0, 0, 0, 0, true, 16⟩⟩) := by decide

/-- R122, R258: the section word of 08, `SHIP v8, s16:s17, s10:s11, v6`. -/
theorem test_decode_ship : decodeWord 0x90000020_40002800_18000390#96
    = .ok (.ship ⟨0, false, 0, false, 8⟩ ⟨src 16, src 10, src 6, ⟨0, 1, true, true, false, 2, 0⟩⟩) := by decide

/-- R122, R261: COPY on channel 2, its three sources scalar: SCL 7, AUX 2. -/
theorem test_decode_copy : decodeWord (wordA 0b100100011 0 0x0200 0x0400 0x0600 0b00000_0000_111_010_000)
    = .ok (.copy ⟨0, false, 0, false, 0⟩ ⟨src 2, src 4, src 6, ⟨0, 0, true, true, true, 2, 0⟩⟩) := by decide

/-- R122, R271: TBARR on a pair in s4:s5, SBASE 1, ORDER 2. -/
theorem test_decode_tbarr : decodeWord (wordA 0b100101001 0 0x0400 0 0 0b00000_000_10_00_1_00000)
    = .ok (.tbarr ⟨0, false, 0, false, 0⟩ ⟨src 4, src 0, 0, ⟨0, 0, 2, 0, true, 0⟩⟩) := by decide

/-- R122, R276: the memory form of SCATTER, SUB3 bit 0. -/
theorem test_decode_scatter : decodeWord (wordA 0b100101101 0 0x0200 0x0400 0 0b00000_0000_110_000_001)
    = .ok (.scatter ⟨0, false, 0, false, 0⟩ ⟨src 2, src 4, src 0, ⟨0, 0, true, true, false, 0, 1⟩⟩) := by decide

/-- R122, R279: `IOWR` through port q3: TILE 3. -/
theorem test_decode_iowr : decodeWord (wordA 0b100110000 0 0x0800 0 0 0b00000_0011_000_000_000)
    = .ok (.iowr ⟨0, false, 0, false, 0⟩ ⟨src 8, src 0, src 0, ⟨0, 3, false, false, false, 0, 0⟩⟩) := by decide

/-- R122, R170: `RDCNT.iss s8:s9`: DS, SUB 1. -/
theorem test_decode_rdcnt : decodeWord (wordA 0b101100011 8 0 0 0 0b00000_000_0_000_1_00001)
    = .ok (.rdcnt ⟨0, false, 0, false, 8⟩ ⟨src 0, src 0, src 0, ⟨0, 0, false, false, false, false, true, 1⟩⟩) := by decide

/-- R122: opcode 0x01F is unassigned. -/
theorem test_decode_unassigned : decodeWord (wordA 0x01F 0 0 0 0 0) = .error (.unassignedOpcode 0x01F) := by decide

/-- R148: one opcode, two rows. -/
theorem test_decode_launch :
    ((decodeWord (wordA 0x011 0 0 0 0 0x100)).toOption.map (fun i => match i with | .launch _ _ => true | _ => false)) = some true
    ∧ ((decodeWord (wordA 0x011 0 0 0 0 0x101)).toOption.map (fun i => match i with | .launchWait _ _ => true | _ => false)) = some true := by
  decide

/-! ## Well-formedness -/

/-- LAUNCH with the SUB of LAUNCH.wait, and the reverse (R148). -/
theorem test_wf_launch :
    (Instr.launch ⟨0, false, 0, false, 0⟩ ⟨src 0, src 0, src 0, ⟨0, 0, false, false, false, false, false, 1⟩⟩).wf = false
    ∧ (Instr.launchWait ⟨0, false, 0, false, 0⟩ ⟨src 0, src 0, src 0, ⟨0, 0, false, false, false, false, false, 0⟩⟩).wf = false := by
  decide

/-- A wave key outside the compute and Benuri cores, a slot of 4, a place of 24. -/
theorem test_wf_waves : ([
    .scoreboardWriteback ⟨200, 0, 0⟩ 0, .scoreboardWriteback ⟨0, 4, 0⟩ 0, .scoreboardWriteback ⟨0, 0, 24⟩ 0,
    .scoreboardWriteback ⟨256, 0, 1⟩ 0, .queueWaitWake ⟨200, 0, 0⟩ 0, .queueWaitWake ⟨0, 0, 0⟩ 24, .sleepWake ⟨200, 0, 0⟩ 0,
    .sleepWake ⟨0, 0, 0⟩ 24, .fenceComplete ⟨200, 0, 0⟩ 0, .fenceComplete ⟨0, 0, 0⟩ 24, .fencetComplete ⟨200, 0, 0⟩ 0,
    .fencetComplete ⟨0, 0, 0⟩ 24, .drainstComplete ⟨200, 0, 0⟩ 0, .drainstComplete ⟨0, 0, 0⟩ 24, .wavePromote ⟨200, 0, 0⟩,
    .starvation ⟨200, 0, 0⟩, .wavePreemptStop ⟨200, 0, 0⟩, .preemptFallback ⟨200, 0, 0⟩, .asyncTrapDeliver ⟨200, 0, 0⟩] : List Instr).all (fun i => !i.wf) = true := by
  decide

/-- A core that does not exist, a bank of 64, a channel of 4. -/
theorem test_wf_cores : ([
    .combModeChangeDone 192 0, .combModeChangeDone 0 64, .bloadRun 192, .bswapRun 192, .mmaRun 192, .mmaGranuleCommit 192,
    .acczRun 192, .accwrRun 192, .accstRun 192, .batonBudgetExpire 192, .chainRecordRead 192 0, .chainRecordRead 0 4,
    .copySectorLand 192 0 0 0, .copySectorLand 0 4 0 0, .copyRecordComplete 192 0 0, .copyRecordComplete 0 4 0,
    .reductionChunkCommit 192 0 0 0, .reductionChunkCommit 0 4 0 0, .tableOpComplete 192 0, .teamAdmit 0 1 192, .rangeSplit 0 1 192,
    .teamResume 1 0 192, .sliceExpire 96, .trapQueueWrite 192, .eccCorrectedError 192, .machineCheck 192 0,
    .coreSelfTestComplete 192 true] : List Instr).all (fun i => !i.wf) = true := by
  decide

/-- Supervisor commands of a core that does not exist. -/
theorem test_wf_supervisor : ([
    .wcmdResume 192, .wcmdReplay 192, .wcmdTerminateWave 192, .wcmdTerminateTeam 192, .wcmdTerminateContext 192,
    .wcmdEngineRetry 192 8, .wcmdEngineFail 192 8, .wcmdEngineResume 192 8, .wcmdEngineDiscard 192 8, .wcmdEngineTerminate 192 8,
    .tcmdDiscardStores 192 1 0, .tcmdReplayStores 192 1 0, .tcmdTerminateTeam 192 1 0, .tcmdTerminateContext 192 1 0,
    .tcmdEngineResume 192 1 0 8, .tcmdEngineDiscard 192 1 0 8, .tcmdEngineTerminate 192 1 0 8, .pwstateWrite 192 0 [], .tinvGo 192 0,
    .tinvGo 0 1024, .tinvDone 192] : List Instr).all (fun i => !i.wf) = true := by
  decide

/-- A partition of 4, a queue of 256, a budget entry of 256, a region of 1024, a Benuri core of 48. -/
theorem test_wf_parts : ([
    .sectionStart 48, .sectionBudgetExpire 48, .shiptTokenPush 48, .ioMessageArrive 4 0 [], .ioRecordPush 4, .connectionError 4 0,
    .sqdbWrite 2 0 0 0, .sqdbWrite 0 4 0 0, .sqdbWrite 0 0 256 0, .sqEnable 4 0, .sqEnable 0 256, .sqFetch 4 0, .sqFetch 0 256,
    .gridAdmit 4, .teamAdmit 4 1 0, .rangeSplit 4 1 0, .periodStart 4 0, .periodStart 0 256, .budgetExhaust 4 0, .budgetExhaust 0 256,
    .prctlPreempt 4 0, .prctlTerminate 4 0, .preemptTimeout 4, .regionStateWrite 4 0 0, .regionStateWrite 0 1024 0,
    .regionChangeDone 4 0, .regionChangeDone 0 1024, .hostSnoop 4 0 true, .snoopResponse 4 0] : List Instr).all (fun i => !i.wf) = true := by
  decide

/-- A host port of 2, a function of 4, a context of 4096, an agent that does not exist. -/
theorem test_wf_ports : ([
    .registerWrite (.supervisor 192) 0 32 0, .registerWrite (.host 2 0) 0 32 0, .registerWrite (.host 0 4) 0 32 0, .hlrenew 2 1,
    .hostAccess 2 0 (.read 0 1), .hostAccess 0 4 (.read 0 1), .atsTranslationCompletion 2 0 0 .abort,
    .atsTranslationCompletion 0 4096 0 .abort, .pageRequestGroupResponse 2 0 0 true, .pageRequestGroupResponse 0 4096 0 true,
    .pageResponseTimeout 2 0 0, .pageResponseTimeout 0 4096 0, .atsInvalidateRequest 2 0 0 1, .invalidateCompletion 2,
    .errorRecordWrite 2 ⟨0, 0, 0, 0, 0, 0, 0, 0, 0, 0⟩, .errorRingWaitTimeout 2, .hostPortLinkDown 2, .hostPortLinkUp 2 true true 4] : List Instr).all (fun i => !i.wf) = true := by
  decide

/-- A fabric port of 15, a key slot of 2. -/
theorem test_wf_links : ([
    .flitTransmit 15 1 0 0 0 [], .dataFlitReceive 15 ⟨0, [], 0, 0, 1, 0, 0, 0, false, 0⟩,
    .keyMarkerReceive 15 ⟨0, [], 0, 0, 1, 0, 0, 0, false, 0⟩, .acknowledgementReceive 15 ⟨0, [], 0, 0, 3, 0, 0, 0, false, 0⟩,
    .negativeAckReceive 15 ⟨0, [], 0, 0, 4, 0, 0, 0, false, 0⟩, .timeFlitSend 15,
    .timeFlitReceive 15 ⟨⟨0, [], 0, 0, 5, 0, 0, 0, false, 0⟩, 0⟩, .linkDown 15, .linkUp 15, .txkeyWrite 15 0 0, .txkeyWrite 0 2 0, .rxkeyWrite 15 0 0, .rxkeyWrite 0 2 0,
    .lnkctlWrite 15 0] : List Instr).all (fun i => !i.wf) = true := by
  decide

/-! ## A small machine -/

/-- One team of one wave, 32 lanes, resident on core 0, with a window of 8 pages in bank 2 and all 16 tiles. -/
def kernel0 : Kernel :=
  { entry := 0x10000, shipped := false, width := 32, x := 32, y := 1, z := 1, cluster := 1, cls := 0, vregs := 240, scomb := 1,
    tiles := 0xFFFF#16, codeLo := 0x10000, codeHi := 0x20000 }

def launch0 : LaunchDesc :=
  { entry := 0x10000, param := 0, nx := 1, ny := 1, nz := 1, rsvA := 0, done := 0x40, lo := 0, hi := 0, chunk := 0, prio := 0, flags := 0,
    rsvB := 0 }

def grid0 : Grid := newGrid 1 0 0 0 launch0 kernel0 none (.dev 0x40)

def team0 : Team :=
  { gid := 1, num := 0, ctx := 0, seq := 0, rank := 0, core := 0, span := false, scomb := 32768, pages := [16, 17, 18, 19, 20, 21, 22, 23],
    tiles := (List.range 16).map (fun n => (n, n)), lo := 0, hi := 0, splitAt := none, res := .resident, saved := [], savedWindow := [], savedTiles := [],
    savedBufs := [], savedCmds := [], savedLocks := [], saveSlot := none, waitAddr := 0, eligibleAt := 0, terminated := false,
    failCode := 0, events := [] }

def key0 : WaveKey := ⟨0, 0, 0⟩

def wave0 : Wave := { blankWave key0 32 240 0x10000 0x200 with grid := 1, sched := .active }

def lab : State :=
  { State.reset with
    grids := [grid0], teams := [team0], waves := [wave0], cur := some { w := key0, quad := 0, pair := false },
    cores := State.reset.cores.set 0 { Core.reset with modes := [(2, 2)], scrPages := [16, 17, 18, 19, 20, 21, 22, 23] } }

/-- The instruction of a word passes its issue in a state, and meets `p`. -/
def runs (s : State) (w : InstrWord) (p : Instr → Issued → Bool := fun _ _ => true) : Bool :=
  match decodeWord w with
  | .ok i => (issued i s).any (p i)
  | .error _ => false

/-- As `lab`, with the wave changed. -/
def labWith (f : Wave → Wave) : State := { lab with waves := [f wave0] }

/-- The wave of `lab` has initialised the queue. -/
def made0 (q : QueueRef) : QueueInfo := { q := q, w := key0, sect := none, gid := 1, team := 0, wnum := 0 }

/-- As `lab`, with a FIFO of 32-bit elements in bank 5, with one in it, bound to port q0. -/
def labFifo : State :=
  { (labWith (fun w => { w with ports := [(0, .fifo 0 5, 5)] })) with
    queues := [made0 (.fifo 0 5)]
    cores := lab.cores.set 0 { lab.core 0 with
      modes := [(2, 2), (5, 4)],
      fifos := [{ bank := 5, scope := 1, esz := 0, hw := false, prec := BitVec.ofNat 128 (queueRecord lab wave0 false),
                  crec := BitVec.ofNat 128 (queueRecord lab wave0 false), creator := key0, elems := [7], tail := 1, head := 0 }] } }

/-- A shipped section on Benuri core 0. -/
def keyS : WaveKey := ⟨256, 0, 0⟩

def labSection : State :=
  { lab with
    waves := [{ blankWave keyS 1 240 0x10000 0x200 with sched := .active, info := some { ship := 0, lane := 0, start := 0, outcome := none } }],
    cur := some { w := keyS, quad := 0, pair := false } }

/-! ## Every instruction passes its issue somewhere, with an active lane -/

theorem test_issue_control : ([
    0x00000000_00000000_00000000, 0x00800000_00000000_00000000, 0x01000000_00000000_00000000, 0x01800000_00000000_00000000,
    0x02000000_00000000_00000000, 0x02800000_00000000_00000000, 0x03000000_00000000_00000000, 0x03800000_00000000_00000000,
    0x04000000_00000000_00000000, 0x04800000_00000000_00000000, 0x05000000_00000000_00000000, 0x05800000_00000000_00000000,
    0x06000000_00000000_00000000, 0x06800000_00000000_00000000, 0x07000000_00000000_00000000, 0x07800000_00000000_00000000,
    0x08000000_00000000_00000000, 0x08800000_00000000_00000100, 0x09000000_00000000_00000020, 0x08800000_00000000_00000101] : List InstrWord).all (fun w => runs lab w (fun _ x => !x.c.lanes.isEmpty)) = true := by
  decide +kernel

theorem test_issue_integer : ([
    0x18000000_00000000_0000E000, 0x18800000_00000000_00000000, 0x19000000_00000000_00000000, 0x19800000_00000000_00010000,
    0x1A000000_00000000_00010000, 0x1A800000_00000000_00010000, 0x1B000000_00000000_00010000, 0x1B800000_00000000_00010000,
    0x1C000000_00000000_00010000, 0x1C800000_00000000_00010000, 0x1D000000_00000000_00010000, 0x1D800000_00000000_00010000,
    0x1E000000_00000000_00010000, 0x1E800000_00000000_00012000, 0x1F000000_00000000_00012000, 0x1F800000_00000000_00012000,
    0x20000000_00000000_00012000, 0x20800000_00000000_00012000, 0x21000000_00000000_00012000, 0x21800000_00000000_00012000,
    0x22000000_00000000_00012000, 0x22800000_00000000_00012000, 0x23000000_00000000_00012000, 0x23800000_00000000_00012000,
    0x24000000_00000000_00012000, 0x24800000_00000000_00012000, 0x25000000_00000000_00010000, 0x25800000_00000000_0000C000,
    0x26000000_00000000_0000C000, 0x26800000_00000000_0000C000, 0x27000000_00000000_0000E000, 0x27800000_00000000_0000E000,
    0x28000000_00000000_0000E000, 0x28800000_00000000_0000C000, 0x29000000_00000000_0000C000, 0x29800000_00000000_0000C000,
    0x2A000000_00000000_0000E000, 0x2A800000_00000000_00000000, 0x2B000000_00000000_00000000, 0x2B800000_00000000_00000000,
    0x2C000000_00000000_0000E000, 0x2C800000_00000000_0000E000, 0x2D000000_00000000_0000C000, 0x2D800000_00000000_0000C000] : List InstrWord).all (fun w => runs lab w (fun _ x => !x.c.lanes.isEmpty)) = true := by
  decide +kernel

theorem test_issue_float : ([
    0x40000000_00000000_00000000, 0x40800000_00000000_00000000, 0x41000000_00000000_00000000, 0x41A01428_10001900_20002000,
    0x42000000_00000000_00000000, 0x42800000_00000000_00000000, 0x43000000_00000000_00000000, 0x43800000_00000000_00000000,
    0x44000000_00000000_00000000, 0x44800000_00000000_00000000, 0x45000000_00000000_00002000, 0x45800000_00000000_00002000,
    0x46000000_00000000_00002000, 0x46800000_00000000_00002000, 0x47000000_00000000_00002000, 0x47800000_00000000_00002000,
    0x48000000_00000000_00002000, 0x48800000_00000000_00000000, 0x49200030_10000014_1C028041, 0x49800000_00000000_00000000,
    0x4A000000_00000000_00000000, 0x4A800000_00000000_00000000, 0x4B000000_00000000_00000000, 0x4B800000_00000000_00004000,
    0x4C000008_10001800_2001800C, 0x4C800000_00000000_00000000, 0x4D000000_00000000_00000001] : List InstrWord).all (fun w => runs lab w (fun _ x => !x.c.lanes.isEmpty)) = true := by
  decide +kernel

theorem test_issue_small_matrix : ([
    0x68000000_00000000_00000001, 0x68800000_00000000_00000001, 0x69000000_00000000_00000020, 0x69800000_00000000_00000020,
    0x6A000000_00000000_00000020, 0x6A800000_00000000_00000020, 0x6B000000_00000000_00000020, 0x6B800000_00000000_00000020,
    0x6C000000_00000000_00000020, 0x6C800000_00000000_00000020] : List InstrWord).all (fun w => runs lab w (fun _ x => !x.c.lanes.isEmpty)) = true := by
  decide +kernel

theorem test_issue_memory : ([
    0x7000002C_18000000_00003080, 0x70800000_00000000_00000000, 0x71000000_00000000_00000020, 0x71800000_00000000_00000020,
    0x72000000_00000000_00000000, 0x72800000_00000000_0000C000, 0x73000000_00000000_00000000, 0x73800000_00000000_00000000,
    0x74000000_00000000_00000000, 0x74800000_00000000_00000000, 0x75000000_00000000_00000000, 0x75800000_00000000_00000000,
    0x76000000_00000000_00000000, 0x76800000_00000000_00000020, 0x770003C0_00000000_00000030, 0x78000000_00000000_00000020] : List InstrWord).all (fun w => runs lab w (fun _ x => !x.c.lanes.isEmpty)) = true := by
  decide +kernel

theorem test_issue_engines : ([
    0x90000020_40002800_18000390, 0x91800000_00000000_000001D0, 0x92000000_00000000_00000020, 0x92800000_00000000_00000000,
    0x93000000_00000000_00000100, 0x93800000_00000000_00000020, 0x94000000_10001800_00000420, 0x94800000_00000000_00000220,
    0x95000000_00000000_00000020, 0x95800000_00000000_00000120, 0x96000000_00000000_0000C100, 0x96800000_00000000_0000C100,
    0x97000000_00000000_00000120, 0x97800000_00000000_00000000, 0x98000000_00000000_00000000, 0x98800000_00000000_00000000] : List InstrWord).all (fun w => runs lab w (fun _ x => !x.c.lanes.isEmpty)) = true := by
  decide +kernel

theorem test_issue_matrix : ([
    0xA0000000_00000000_00000000, 0xA0800000_00000000_00000000, 0xA1000000_00000000_00000180, 0xA1800000_00000000_00000000,
    0xA2000000_00000000_00000000, 0xA2800000_00000000_00000000, 0xA3000000_00000000_00000000, 0xA3800000_00000000_00000000,
    0xA4000000_00000000_00000000, 0xA4800000_00000000_00000000, 0xA5000000_00000000_00000001, 0xA5800000_00000000_00000000] : List InstrWord).all (fun w => runs lab w (fun _ x => !x.c.lanes.isEmpty)) = true := by
  decide +kernel

theorem test_issue_system : ([
    0xB0000000_00000000_00000000, 0xB0800000_00000000_00000000, 0xB1000000_00000000_00000100, 0xB1800000_00000000_00000020] : List InstrWord).all (fun w => runs lab w (fun _ x => !x.c.lanes.isEmpty)) = true := by
  decide +kernel

theorem test_issue_ports : runs labFifo (wordA 0x0EF 2 0xF000 0 0 0) = true ∧ runs labFifo (wordA 0x0EF 0 0xF000 0 0x0400 1) = true
    ∧ runs labFifo 0x90800000_40002800_18000190#96 = true := by decide +kernel

theorem test_issue_section : runs labSection (wordA 0x122 0 0x0400 0 0 0) = true := by decide +kernel

/-! ## States that meet the hypotheses of the statements -/

def splitB (w : Wave) (pc : Pc) : Bool := w.gangs.length != 1 && (w.levels.head?.map (·.2)) == some pc

/-- NOP, the plainest instruction. -/
def nopW : InstrWord := 0#96

def waits (x : Wait) (w : Wave) : Wave := { w with gangs := w.gangs.map (fun g => { g with wait := x }), sched := .blocked }

/-- The wave of a state with its gang, when the wave is not parked and not split at the end of a loop body. -/
def waiting (s : State) (p : State → Wave → Gang → Bool) : Bool :=
  (s.wave? key0).any (fun w => w.sched != .trapped && !splitB w (w.pcOf 0) && (w.gangOf 0).any (p s w))

/-- A wave with a result of variable latency still to be written. -/
def labPend : State :=
  labWith (fun w => { w with pend := [{ writes := [⟨.vec, 2, 0, 5⟩], flags := 1, amax := [], keys := [⟨.vec, 2⟩], push := none }] })

theorem witness_SequentialFlow :
    (runs lab nopW (fun _ x => (lab.wave? x.c.k).any (fun w => !splitB w x.c.pc))) = true := by decide +kernel

/-- A result of fixed latency, one of variable latency, and one for port q0. -/
theorem witness_ResultsOfAnIssue :
    (runs lab nopW (fun _ x => (x.s.wave? x.c.k).any (fun w => !splitB w x.c.pc) && !x.g.sb)) = true
    ∧ (runs lab 0x7000002C_18000000_00003000#96 (fun _ x => (x.s.wave? x.c.k).any (fun w => !splitB w x.c.pc) && x.g.sb && (x.g.dst.find? Opnd.isPort).isNone)) = true
    ∧ (runs labFifo (wordA 0x033 0xF0 0x0100 0x0200 0 0x12000) (fun _ x => !x.g.sb && (x.g.dst.find? Opnd.isPort).any (fun o => (x.c.w.portQueue o.n).isSome))) = true
    ∧ ((labPend.wave? key0).any (fun w => (w.pend[0]?).any (fun p => p.push.isNone))) = true := by decide +kernel

theorem witness_WaitingGangs :
    (runs lab nopW (fun _ x => (lab.wave? x.c.k).any (fun w => (w.gangOf x.c.q).isSome))) = true
    ∧ (waiting (labWith (waits (.sleep 0))) (fun s _ g => g.wait == .sleep 0 && decide (0 ≤ s.gtb))) = true
    ∧ (waiting (labWith (waits (.fence 4 0 false))) (fun s w g => g.wait == .fence 4 0 false && fenceReady s w 4 0)) = true
    ∧ (waiting (labWith (fun w => waits (.fence 3 9 false) { w with wct := [(3, 5)] })) (fun s w _ => !fenceReady s w 3 9)) = true
    ∧ (waiting (labWith (fun w => waits (.fence 4 9 false) { w with wct := [(3, 5)] })) (fun s w _ => fenceReady s w 4 9)) = true
    ∧ (waiting (labWith (waits (.release 4 0))) (fun s w g => g.wait == .release 4 0 && fenceReady s w 4 0)) = true
    ∧ (waiting (labWith (waits (.fence 4 0 true))) (fun s w g => g.wait == .fence 4 0 true && fenceReady s w 4 0)) = true
    ∧ (waiting (labWith (waits (.drain 4 0 0))) (fun s w g => g.wait == .drain 4 0 0 && drained s w.ctx 0 (scopeCores s w 4))) = true
    ∧ (waiting (labWith (waits (.drainst 9))) (fun s _ g => g.wait == .drainst 9 && s.mops.isEmpty && s.engCmds.isEmpty)) = true
    ∧ (waiting { labFifo with waves := [waits (.queue false (.fifo 0 5) 1 5) wave0] } (fun s _ _ => (readQueue s (.fifo 0 5)).any (fun h => decide (1 ≤ h.count)))) = true
    ∧ (waiting { labFifo with waves := [waits (.queue true (.fifo 0 5) 1 5) wave0] } (fun s _ _ => (readQueue s (.fifo 0 5)).any (fun h => decide (1 ≤ roomOf s (.fifo 0 5) h)))) = true := by decide +kernel

/-- Lane 31 lies in the last live quad of 32 lanes. -/
theorem witness_RegisterWrites :
    (wave0.stale.isEmpty && SMap.wf 0#32 wave0.vregs && SMap.wf 0#32 wave0.sregs && SMap.wf false wave0.preds) = true
    ∧ (wave0.quadLive 7 && !wave0.quadLive 8) = true := by decide +kernel

/-- PMOV in its ten forms, VOTE in its four. -/
theorem witness_MovesAndPredicates :
    (([0, 1, 2, 5, 6, 9] : List Nat).all (fun n => [wordA 0x056 2 0x0200 0 0 (BitVec.ofNat 18 n), wordA 0x056 2 0 0 0 (BitVec.ofNat 18 n), wordA 0x056 0 0x0200 0 0 (BitVec.ofNat 18 n)].any (fun w => runs lab w))) = true
    ∧ (([0, 1, 2, 3, 0x20, 0x23] : List Nat).any (fun n => runs lab (wordA 0x057 2 0x0200 0 0 (BitVec.ofNat 18 n)))) = true
    ∧ (([3, 0x23] : List Nat).any (fun n => runs lab (wordA 0x057 4 0x0200 0 0 (BitVec.ofNat 18 n)))) = true := by decide +kernel

/-- A rounding mode that SETWC takes, and one that it does not. -/
theorem witness_SpecialRegisters :
    (runs lab 0xB1000000_00000000_00000100#96 (fun _ x => !x.c.lanes.isEmpty && decide ((x.c.w.rdS 0).toNat % 8 ≤ 4))) = true
    ∧ (runs (labWith (fun w => { w with sregs := [(0, 5)] })) 0xB1000000_00000000_00000100#96 (fun _ x => !x.c.lanes.isEmpty && decide (4 < (x.c.w.rdS 0).toNat % 8))) = true
    ∧ (runs lab (wordA 0x099 2 0 0 0 0) (fun _ x => !amaxPending x.c.w (fun i => i == 0))) = true
    ∧ (runs lab (wordA 0x09A 0 0 0 0 0xF) (fun _ x => !x.c.lanes.isEmpty && !amaxPending x.c.w (fun _ => true)) && wave0.info.isNone
      && SMap.wf 0#32 wave0.amax) = true := by decide +kernel

/-- Sums without a NaN, and with one while the first-NaN trap is on. -/
theorem witness_FloatArithmetic :
    (runs lab (wordA 0x080 2 0x0400 0x0600 0 0x02000) (fun _ x => !x.c.w.wcw.getLsbD 3)) = true
    ∧ (runs (labWith (fun w => { w with wcw := w.wcw ||| 8, vregs := [(vkey 4 3, 0x7FC00000#32)] })) (wordA 0x080 2 0x0400 0x0600 0 0x02000) (fun _ x => x.c.w.wcw.getLsbD 3 && (decodeFloat 1 (x.c.w.rdV 4 3).toNat).isNan && x.c.lanes.contains 3)) = true := by decide +kernel

theorem witness_TrapsParkTheWave :
    (runs lab nopW (fun _ x => (lab.wave? x.c.k).any (fun w => !w.section? && !splitB w x.c.pc))) = true := by decide +kernel

/-- A queue with room, a queue without, a section, and the largest slot, place and slot number of an entry. -/
theorem witness_TrapQueueEntries :
    (((lab.core 0).tqWait.isEmpty && lab.lineFree ((lab.core 0).tqBase.toNat)
      && decide (((lab.core 0).tqTail - (lab.core 0).tqHead).toNat < ringCapacity (lab.core 0).tqCfg))
      && decide (0 < lab.cores.length)) = true
    ∧ (decide (ringCapacity (lab.core 0).tqCfg ≤ (({ lab.core 0 with tqTail := 65536 : Core }).tqTail - (lab.core 0).tqHead).toNat)) = true
    ∧ ((labSection.wave? keyS).any (fun w => w.section? && w.info.map (·.outcome) == some none)) = true
    ∧ (decide (Pc.slot (4#48) < 5) && decide ((4#48 : Pc).toNat / 8 % 8 = 0) && decide (3 < 4) && decide (23 < 32)) = true := by decide +kernel

def issueAt (s : State) (w : InstrWord) (p : Ctx → Bool → Sig → Bool) : Bool :=
  match decodeWord w with
  | .ok i => (issueOf i s).any (fun (q : Hdr × (Ctx → Bool) × (Ctx → Sig)) => (ctxOf q.1 s).any (fun (c : Ctx × Bool) => p c.1 (q.2.1 c.1) (q.2.2 c.1)))
  | .error _ => false

/-- An opcode that the core lacks, an illegal field, a register outside the window, and a result that is not covered. -/
theorem witness_DecodeTraps :
    (issueAt lab (wordA 0x122 0 0x0400 0 0 0) (fun _ ok _ => !ok)) = true
    ∧ (issueAt lab (wordA 0x000 1 0 0 0 0) (fun _ ok g => ok && firstIllegal g.legal == some 73)) = true
    ∧ (issueAt lab (wordA 0x033 250 0x0100 0x0200 0 0x12000) (fun c ok g => ok && (firstIllegal g.legal).isNone && (rangeFault lab c.w g.ranged).isSome)) = true
    ∧ (issueAt (labWith (fun w => { w with wcw := 0x100, gangs := w.gangs.map (fun g => { g with hist := [{ key := ⟨.vec, 1⟩, lanes := 0xFFFFFFFF, stale := 0xFFFFFFFF, need := 9, dist := 0, ready := 9, inter := false, old := [] }] }) })) (wordA 0x033 3 0x0100 0x0200 0 0x12000) (fun c ok g => ok && (firstIllegal g.legal).isNone && (rangeFault lab c.w g.ranged).isNone && c.w.sbm == 1 && !((c.judged g).filter (·.lanes != 0)).isEmpty)) = true := by decide +kernel

theorem witness_IntegerArithmetic :
    (([0x19800000_00000000_00010000, 0x1A000000_00000000_00010000, 0x1A800000_00000000_00010000, 0x1B000000_00000000_00010000, 0x1B800000_00000000_00010000, 0x1D000000_00000000_00010000, 0x1D800000_00000000_00010000, 0x1E000000_00000000_00010000, 0x1C000000_00000000_00010000, 0x1C800000_00000000_00010000, 0x26000000_00000000_0000C000, 0x26800000_00000000_0000C000, 0x29000000_00000000_0000C000, 0x29800000_00000000_0000C000] : List InstrWord).all (fun w => runs lab w (fun _ x => !x.c.lanes.isEmpty))
      && decide (6 ≤ 13 ∧ 13 ≤ 13)) = true := by decide +kernel

theorem witness_LogicAndShifts :
    (([0x1E800000_00000000_00012000, 0x1F000000_00000000_00012000, 0x1F800000_00000000_00012000, 0x20000000_00000000_00012000, 0x20800000_00000000_00012000, 0x21000000_00000000_00012000, 0x21800000_00000000_00012000, 0x22000000_00000000_00012000, 0x22800000_00000000_00012000, 0x23000000_00000000_00012000, 0x23800000_00000000_00012000, 0x24000000_00000000_00012000, 0x24800000_00000000_00012000, 0x27000000_00000000_0000E000, 0x27800000_00000000_0000E000, 0x28000000_00000000_0000E000, 0x2A000000_00000000_0000E000] : List InstrWord).all (fun w => runs lab w (fun _ x => !x.c.lanes.isEmpty))) = true := by decide +kernel

theorem witness_Collectives :
    (([0x2C000000_00000000_0000E000, 0x2C800000_00000000_0000E000, 0x2D000000_00000000_0000C000, 0x2D800000_00000000_0000C000, 0x4A800000_00000000_00000000, 0x4B000000_00000000_00000000] : List InstrWord).all (fun w => runs lab w (fun _ x => !x.c.lanes.isEmpty))
      && decide (6 ≤ 8 ∧ 31 < codeWidth 8)) = true := by decide +kernel

theorem witness_FloatFunctions :
    (([0x42000000_00000000_00000000, 0x42800000_00000000_00000000, 0x45000000_00000000_00002000, 0x45800000_00000000_00002000, 0x46000000_00000000_00002000, 0x46800000_00000000_00002000, 0x47000000_00000000_00002000, 0x47800000_00000000_00002000, 0x48000000_00000000_00002000, 0x43000000_00000000_00000000, 0x43800000_00000000_00000000, 0x48800000_00000000_00000000, 0x44000000_00000000_00000000, 0x44800000_00000000_00000000, 0x4B800000_00000000_00004000, 0x4C000008_10001800_2001800C] : List InstrWord).all (fun w => runs lab w (fun _ x => !x.c.lanes.isEmpty))
      && !(decodeFloat 1 0x3F800000).isNan) = true := by decide +kernel

theorem witness_Conversions :
    (([0x49200030_10000014_1C028041, 0x49800000_00000000_00000000, 0x4A000000_00000000_00000000] : List InstrWord).all (fun w => runs lab w (fun _ x => !x.c.lanes.isEmpty))) = true := by decide +kernel

theorem witness_SmallMatrices :
    (([0x69000000_00000000_00000020, 0x69800000_00000000_00000020, 0x6A000000_00000000_00000020, 0x6A800000_00000000_00000020, 0x6B000000_00000000_00000020, 0x6B800000_00000000_00000020, 0x6C800000_00000000_00000020, 0x6C000000_00000000_00000020] : List InstrWord).all (fun w => runs lab w (fun _ x => !x.c.lanes.isEmpty))) = true := by decide +kernel

/-- As `lab`, with the addresses below 2^30 mapped to themselves by one leaf of level 2 (R384), whose tables stand at 0x100000, in one window of the partition. -/
def labMem : State :=
  { lab with
    mem := ((Memory.writeNat [] 0x100000 8 (1 + 0x101 * 2 ^ 10)).writeNat 0x101000 8 (1 + 0x102 * 2 ^ 10)).writeNat 0x102000 8 0xDF,
    cores := lab.cores.set 0 { lab.core 0 with descs := [(0, 0x100000)] },
    parts := lab.parts.set 0 { lab.part 0 with mwin := [(0, BitVec.ofNat 128 (2 ^ 46))] } }

/-- As `labMem`, with the wave changed and a number written to memory. -/
def memWith (f : Wave → Wave) (a n x : Nat) : State := { labMem with waves := [f wave0], mem := labMem.mem.writeNat a n x }

/-- The scalar pair s4:s5 holds an address. -/
def at4 (a : Nat) (w : Wave) : Wave := { w with sregs := SMap.set 0 w.sregs 4 (BitVec.ofNat 32 a) }

def codeMem : State := memWith id 0x10000 64 (lineOf 0)

/-- EXIT and SLEEP with active lanes, EXIT in a section. -/
theorem witness_PlainControl :
    (runs lab (wordA 0x001 0 0 0 0 0) (fun _ x => !x.c.w.section? && (x.s.wave? x.c.k).isSome)) = true
    ∧ (runs labSection (wordA 0x001 0 0 0 0 0) (fun _ x => x.c.w.section?)) = true := by decide +kernel

/-- A quad at its first branch, at a divergent one, and a branch of the whole wave to a legal target. -/
theorem witness_Branches :
    ((wave0.quads[0]?).isSome && nibble [0, 1, 2, 3] 0 == 0xF#4) = true
    ∧ (runs codeMem (wordA 0x002 0 0 0 0 0) (fun _ x => (checkTargets x.s x.c [0x10000]).1.isNone && (match branchAll x.c.w x.c.pc x.c.live x.c.lanes (fun _ => 0x10000) none (x.c.g.quads.filter x.c.w.quadLive) with | .ok l => (l.map (·.q)).eraseDups.length == l.length && l.all (fun m => m.taken != 0 && x.c.g.quads.contains m.q) && (match moveQuads x.c noLink x.s l with | .jump _ => true | _ => false) | _ => false))) = true
    ∧ (runs codeMem (wordA 0x002 0 0 0 0 0) (fun _ x => match branchAll x.c.w x.c.pc x.c.live [] (fun _ => 0x10000) none (x.c.g.quads.filter x.c.w.quadLive) with | .ok l => (match moveQuads x.c noLink x.s l with | .done _ => true | _ => false) | _ => false)) = true
    ∧ (runs lab (wordA 0x006 0 0x0400 0 0 0x00000) (fun _ x => x.c.lanes.all (fun l => pcFormed (x.c.src 0 false ⟨4, 0, 0⟩ true l)))) = true
    ∧ (runs (labWith (fun w => { w with vregs := [(vkey 4 2, 7#32)] })) (wordA 0x006 0 0x0400 0 0 0x00000) (fun _ x => x.c.lanes.any (fun l => !pcFormed (x.c.src 0 false ⟨4, 0, 0⟩ true l)))) = true := by decide +kernel

/-- A quad whose stack holds a dead entry above a live one; JOIN in a wave and in a section. -/
theorem witness_Joins :
    ((({ wave0 with quads := wave0.quads.set 0 { pc := 0, mask := 0xF, ended := false, stack := [(0, 0), (5, 3)] } : Wave }.quads[0]?).any (fun x => x.stack[1]? == some (5, 3)))) = true
    ∧ (runs lab (wordA 0x007 0 0 0 0 0) (fun _ x => !x.c.w.section?)) = true
    ∧ ([[], [(5, 1)]].map (fun l => runs { labSection with waves := labSection.waves.map (fun w => { w with quads := w.quads.map (fun q => { q with stack := l }) }) }
      (wordA 0x007 0 0 0 0 0) (fun _ x => x.c.w.section? && (x.c.g.quads.filter x.c.w.quadLive).all (fun q => (x.c.w.quads[q]?).all (fun y => y.stack.all (fun e => e.2 == 0)))))
        == [true, false]) = true := by decide +kernel

/-- A mask of 25 bits, one of all quads, one that leaves quad 0 out. -/
theorem witness_Regangs :
    (runs (labWith (fun w => { w with sregs := [(4, 0x1000000#32)] })) (wordA 0x008 0 0x0400 0 0 0x101) (fun _ x => decide (2 ^ 24 ≤ (x.c.w.rdS 4).toNat))) = true
    ∧ (runs (labWith (fun w => { w with sregs := [(4, 0xFFFFFF#32)] })) (wordA 0x008 0 0x0400 0 0 0x101) (fun _ x => decide ((x.c.w.rdS 4).toNat < 2 ^ 24) && !(x.c.g.quads.filter x.c.w.quadLive).isEmpty)) = true
    ∧ (runs (labWith (fun w => { w with sregs := [(4, 0xFFFFFE#32)] })) (wordA 0x008 0 0x0400 0 0 0x101) (fun _ x => (x.s.wave? x.c.k).any (fun w => !splitB w x.c.pc && w.levels.isEmpty && w.quads == x.c.w.quads) && !(x.c.w.rdS 4).getLsbD 0 && (wave0.gangOf 0).any (fun g => g.quads == x.c.g.quads && g.wait == .none))) = true := by decide +kernel

/-- A body of 2 instructions taken 3 times, none, and one at each limit: a body of 0 and of 256, three open levels, LBRK with and without a level. -/
theorem witness_HardwareLoops :
    (runs lab (wordA 0x009 0 0 0 0 0 ||| BitVec.ofNat 96 ((3 * 2 ^ 16 + 2) * 2 ^ 18)) (fun _ x => !x.c.lanes.isEmpty && x.c.lanes == x.c.live && x.c.w.gangs.length == 1 && x.c.w.levels.isEmpty)) = true
    ∧ (([0, 256, 257] : List Nat).all (fun n => runs lab (wordA 0x009 0 0 0 0 0 ||| BitVec.ofNat 96 ((3 * 2 ^ 16 + n) * 2 ^ 18)))) = true
    ∧ (runs (labWith (fun w => { w with levels := [(0x10000, 0x10001), (0x10000, 0x10002), (0x10000, 0x10003)] })) (wordA 0x009 0 0 0 0 0 ||| BitVec.ofNat 96 ((3 * 2 ^ 16 + 2) * 2 ^ 18)) (fun _ x => x.c.w.levels.length == 3)) = true
    ∧ (runs (labWith (fun w => { w with levels := [(0x10000, 0x10001)] })) (wordA 0x009 0 0 0 0 0 ||| BitVec.ofNat 96 ((3 * 2 ^ 16 + 2) * 2 ^ 18)) (fun _ x => decide (pcOrder (0x10001#48) < pcOrder (pcAfter x.c.pc 2)))) = true
    ∧ (runs (labWith (fun w => { w with levels := [(0x10000, 0x10040)] })) (wordA 0x009 0 0 0 0 0 ||| BitVec.ofNat 96 ((3 * 2 ^ 16 + 2) * 2 ^ 18)) (fun _ x => decide (pcOrder (pcAfter x.c.pc 2) ≤ pcOrder (0x10040#48)))) = true
    ∧ (runs (labWith (fun w => { w with levels := [(0x10000, 0x10040)] })) (wordA 0x00A 0 0 0 0 0) (fun _ x => !x.c.w.levels.isEmpty && x.c.lanes == x.c.live)) = true
    ∧ (runs lab (wordA 0x00A 0 0 0 0 0) (fun _ x => x.c.w.levels.isEmpty)) = true
    ∧ (runs (labWith (fun w => { w with act := 1 })) (wordA 0x009 0 0 0 0 0 ||| BitVec.ofNat 96 ((3 * 2 ^ 16 + 2) * 2 ^ 18)) (fun _ x => !x.c.lanes.isEmpty)) = true := by decide +kernel

theorem witness_Barriers :
    (runs lab (wordA 0x00E 0 0 0 0 0) (fun _ x => fenceReady x.s x.c.w 1 x.c.w.opSeq && !x.c.w.section?)) = true
    ∧ (runs lab (wordA 0x010 0 0 0 0 0) (fun _ x => x.s.waveClass x.c.w == 0)) = true
    ∧ (runs (labWith (fun w => { w with wct := [(4, 9)] })) (wordA 0x010 0 0 0 0 0) (fun _ x => !fenceReady x.s x.c.w 4 x.c.w.opSeq && !x.c.g.released)) = true
    ∧ (runs labSection (wordA 0x00E 0 0 0 0 0) (fun _ x => x.c.w.section?)) = true
    ∧ (runs { lab with grids := [{ grid0 with cls := 1 }] } (wordA 0x010 0 0 0 0 0) (fun _ x => x.s.waveClass x.c.w != 0 && !x.c.w.section?)) = true := by decide +kernel

/-- A descriptor of zeros at address 0, with room and with none; a wait on it; a range task with and without work left. -/
theorem witness_Launches :
    (runs labMem (wordA 0x011 2 0x0400 0 0 0x100) (fun _ x => !x.c.lanes.isEmpty && fenceReady x.s x.c.w 4 x.c.w.opSeq && (match oneAccess x.c .load 0 64 (x.c.src 0 true ⟨4, 0, 0⟩ true 0) 64 x.s with | .at_ t s0 => (match readOne x.c t 64 s0 with | .ok v => (match donePlace x.c (descOf v).done s0 with | .at_ d s1 => s1.writable d 32 && decide ((s1.part 0).lq.length < 1024) && decide (0 < s1.parts.length) | _ => false) | .error _ => false) | _ => false))) = true
    ∧ (decide (1024 ≤ (List.replicate 1024 ({ gid := 1, prio := 0 } : LqEntry)).length)
      && decide ((lab.part 0).ringCap ≤ (lab.part 0).ring.length)) = true
    ∧ (runs labMem (wordA 0x011 0 0x0400 0 0 0x101) (fun _ x => match oneAccess x.c .load 0 32 (x.c.src 0 true ⟨4, 0, 0⟩ true 0) 32 x.s with | .at_ t s1 => (match readOne x.c t 32 s1 with | .ok v => (judge s1 x.c.w false (field v 255 128)).isSome | .error _ => false) | _ => false)) = true
    ∧ (runs (memWith id 16 8 8) (wordA 0x011 0 0x0400 0 0 0x101) (fun _ x => match oneAccess x.c .load 0 32 (x.c.src 0 true ⟨4, 0, 0⟩ true 0) 32 x.s with | .at_ t s1 => (match readOne x.c t 32 s1 with | .ok v => (judge s1 x.c.w false (field v 255 128)).isNone | .error _ => false) | _ => false)) = true
    ∧ (runs { lab with teams := [{ team0 with hi := 5 }] } (wordA 0x012 4 0 0x0200 0 0x020) (fun _ x => (x.s.waveTeam x.c.w).any (fun t => decide (t.lo < t.hi)) && !x.c.lanes.isEmpty)) = true
    ∧ (runs lab (wordA 0x012 4 0 0x0200 0 0x020) (fun _ x => (x.s.waveTeam x.c.w).all (fun t => decide (t.hi ≤ t.lo)))) = true := by decide +kernel

/-- Loads of each form whose elements all have places, in global memory and in the combined store. -/
theorem witness_LoadsIssue :
    ([wordA 0x0E0 2 0x0400 0 0x4000 0x12020, wordA 0x0E0 2 0x0400 0 0x4000 0x12060, wordA 0x0E0 2 0x0400 0 0x7FFC 0x12020].all (fun v => match decodeWord v with | .ok (.ld h f) => (issued (.ld h f) labMem).any (fun (x : Issued) => !x.c.lanes.isEmpty && (x.reached .load f.m.space.toNat (codeWidth f.m.ty.toNat / 8 * 2 ^ (f.m.sub.toNat / 4 % 4)) (x.elems f (2 ^ (f.m.sub.toNat / 4 % 4)) (codeWidth f.m.ty.toNat / 8) h.dst.toNat (if 32 < codeWidth f.m.ty.toNat then 2 else 1) x.c.lanes (fun _ _ => 0))).isSome) | _ => false)) = true
    ∧ (match decodeWord (wordA 0x0E2 2 0x0400 0 0x4000 0x12020) with | .ok (.lds h f) => (issued (.lds h f) labMem).any (fun (x : Issued) => !x.c.lanes.isEmpty && (x.reached .load f.m.space.toNat 4 (x.elems f 1 4 h.dst.toNat 1 [x.c.lanes.headD 0] (fun _ _ => 0))).isSome) | _ => false) = true
    ∧ (match decodeWord (wordA 0x0D0 4 0x0400 0 0x4000 0x02022) with | .ok (.mxld h f) => (issued (.mxld h f) labMem).any (fun (x : Issued) => !x.c.lanes.isEmpty && (x.placed .load f.m.space.toNat (x.c.lanes.flatMap (fun l => (List.range 4).map (fun i => { lane := l, va := x.c.addr f l + 4 * i, size := 4, dst := h.dst.toNat + i })))).isSome) | _ => false) = true := by decide +kernel

/-- Stores of each form, and one that releases while an earlier store is unapplied. -/
theorem witness_StoresIssue :
    ([wordA 0x0E1 0 0x0400 0x0200 0x4000 0x12020, wordA 0x0E1 0 0x0400 0x0200 0x4000 0x12060, wordA 0x0E1 0 0x0400 0x0200 0x4000 0x13220].all (fun v => match decodeWord v with | .ok (.st h f) => (issued (.st h f) labMem).any (fun (x : Issued) => !x.c.lanes.isEmpty && (accessChecks x.s x.c true f.m.space.toNat 4 (x.elems f 1 4 0 (lsStep f) x.c.lanes (stData x.c f false))).isNone && (decide (f.m.order.toNat < 2) || fenceReady x.s x.c.w f.m.scope.toNat x.c.w.opSeq)) | _ => false)) = true
    ∧ (match decodeWord (wordA 0x0E1 0 0x0400 0x0200 0x4000 0x13220) with | .ok (.st h f) => (issued (.st h f) { labMem with waves := [{ wave0 with wct := [(4, 9)] }] }).any (fun (x : Issued) => !x.c.lanes.isEmpty && decide (2 ≤ f.m.order.toNat) && !x.c.g.released && !fenceReady x.s x.c.w f.m.scope.toNat x.c.w.opSeq) | _ => false) = true
    ∧ (match decodeWord (wordA 0x0E3 0 0x0400 0x0200 0x4000 0x12020) with | .ok (.sts h f) => (issued (.sts h f) labMem).any (fun (x : Issued) => !x.c.lanes.isEmpty && (accessChecks x.s x.c true f.m.space.toNat 4 (x.elems f 1 4 0 (lsStep f) [x.c.lanes.headD 0] (stData x.c f true))).isNone) | _ => false) = true
    ∧ (match decodeWord (wordA 0x0D1 0 0x0400 0x0800 0x4000 0x02022) with | .ok (.mxst h f) => (issued (.mxst h f) labMem).any (fun (x : Issued) => !x.c.lanes.isEmpty && (accessChecks x.s x.c true f.m.space.toNat 4 (x.c.lanes.map (fun l => { lane := l, va := x.c.addr f l, size := 4 }))).isNone) | _ => false) = true := by decide +kernel

/-- The four read-modify-writes. -/
theorem witness_AtomicsIssue :
    ([wordA 0x0E4 2 0x0400 0x0200 0x4000 0x12021, wordA 0x0E7 0 0x0400 0x0200 0x4000 0x12021, wordA 0x0E5 2 0x0400 0x0200 0x4000 0x12020, wordA 0x0E6 4 0x0400 0x0800 0x4000 0x00020].all (fun v => match decodeWord v with | .ok (.atom h f) => (issued (.atom h f) labMem).any (fun (x : Issued) => !x.c.lanes.isEmpty && (x.reached .store 0 4 (x.c.lanes.map (fun l => { lane := l, va := x.c.addr f l, size := 4, dst := h.dst.toNat, data := x.c.src 1 false f.sb false l }))).isSome) | .ok (.red h f) => (issued (.red h f) labMem).any (fun (x : Issued) => !x.c.lanes.isEmpty && (x.reached .store 0 4 (x.c.lanes.map (fun l => { lane := l, va := x.c.addr f l, size := 4, dst := h.dst.toNat, data := x.c.src 1 false f.sb false l }))).isSome) | .ok (.cas h f) => (issued (.cas h f) labMem).any (fun (x : Issued) => !x.c.lanes.isEmpty && (x.reached .store 0 4 (x.c.lanes.map (fun l => { lane := l, va := x.c.addr f l, size := 4, dst := h.dst.toNat, data := winWord x.c f 1 1 l, cmp := winWord x.c f 0 1 l }))).isSome) | .ok (.cas128 h f) => (issued (.cas128 h f) labMem).any (fun (x : Issued) => !x.c.lanes.isEmpty && (x.reached .store 0 16 (x.c.lanes.map (fun l => { lane := l, va := x.c.addr f l, size := 16, dst := h.dst.toNat, data := winWord x.c f 4 4 l, cmp := winWord x.c f 0 4 l }))).isSome) | _ => false)) = true := by decide +kernel

/-- FLUSH of lines that have a place, with the key of a plain core. -/
theorem witness_FencesAndFlush :
    (match decodeWord (wordA 0x0EC 0 0x0400 0 0x4000 0x00020) with | .ok (.flush h f) => (issued (.flush h f) labMem).any (fun (x : Issued) => !x.c.lanes.isEmpty && (x.placed .user f.m.space.toNat (x.c.lanes.map (fun l => { lane := l, va := x.c.addr f l, size := 1 }))).isSome && decide (x.c.k.core < 256)) | _ => false) = true
    ∧ (match decodeWord (wordA 0x0EC 0 0x0400 0 0x4000 0x00021) with | .ok (.flush h f) => (issued (.flush h f) labMem).any (fun (x : Issued) => !x.c.lanes.isEmpty && f.m.sub == 1 && (x.placed .user f.m.space.toNat (x.c.lanes.map (fun l => { lane := l, va := x.c.addr f l, size := 1 }))).isSome) | _ => false) = true := by decide +kernel

/-- A header of a ring of 4 elements of 4 bytes at address 0x5000, and one of no legal form. -/
def header0 : Nat := 0x5000 + 4 * 2 ^ 64

/-- As `labMem`, with the header of a valid ring at address 0x4000. -/
def labRing : State := memWith (fun w => at4 0x4000 { w with ports := [(0, .ring 0 none 0x4000, 0x4000)] }) 0x4000 64 (header0 + 2 ^ 120 + queueRecord lab wave0 false * (2 ^ 256 + 2 ^ 384))

/-- A FIFO with an element; a ring, its head and its tail; a header of a ring, and one of no legal form; the FIFO form. -/
theorem witness_QueuesInOrder :
    ((labFifo.fifo? 0 5).any (fun q => q.elems.length == 1) && decide (0 < labFifo.cores.length)) = true
    ∧ ((readQueue labRing (.ring 0 none 0x4000)).any (fun h => decide (h.head + 1 < 2 ^ 64) && (elemPlace labRing 0 (.ring 0 none 0x4000) h h.head .load).1.isSome && !labRing.isTainted (.ring 0 none 0x4000))) = true
    ∧ ((readQueue labRing (.ring 0 none 0x4000)).any (fun h => match elemPlace labRing 0 (.ring 0 none 0x4000) h h.tail .store with | (some (.dev b), s1) => (readQueue s1 (.ring 0 none 0x4000)).isSome && (decide (b + h.size ≤ 0x4000) || decide (0x4040 ≤ b)) | _ => false)) = true
    ∧ ([memWith (at4 0x4000) 0x4000 64 header0, memWith (at4 0x4000) 0x4000 64 0].map (fun s => match decodeWord (wordA 0x0ED 0 0x0400 0 0 0x00020) with | .ok (.qinit h f) => (issued (.qinit h f) s).any (fun (x : Issued) => !x.c.lanes.isEmpty && fenceReady x.s x.c.w f.m.scope.toNat x.c.w.opSeq && (match oneAccess x.c .store f.m.space.toNat 64 (x.c.addr f 0) 64 x.s with | .at_ t s1 => !ownPending s1 x.c.k t 64 && s1.writable t 64 && (queueAt s1 x.c.w.ctx t).isSome && (match readOne x.c t 64 s1 with | .ok v => !headerBad v | _ => false) | _ => false)) | _ => false) == [true, false]) = true
    ∧ (match decodeWord (wordA 0x0ED 0 0x0400 0 0 0x00064) with | .ok (.qinit h f) => (issued (.qinit h f) { labFifo with waves := [at4 5 wave0] }).any (fun (x : Issued) => !x.c.lanes.isEmpty && f.m.sub.getLsbD 2 && fifoReady x.s 0 ((x.c.w.rdS f.sa.reg.toNat).toNat % 64)) | _ => false) = true
    ∧ (match decodeWord (wordA 0x0ED 0 0x0400 0 0 0x00064) with | .ok (.qinit h f) => (issued (.qinit h f) labFifo).any (fun (x : Issued) => !x.c.lanes.isEmpty && !fifoReady x.s x.c.k.core 0) | _ => false) = true
    ∧ (!headerBad header0 && headerBad 0 && headerBad (header0 + 3 * 2 ^ 96)) = true := by decide +kernel

/-- Binding a ring, a header without its V bit, a FIFO; unbinding; taking from a FIFO and putting into one. -/
theorem witness_PortsAndTries :
    ([labRing, memWith (at4 0x4000) 0x4000 64 header0].map (fun s => match decodeWord (wordA 0x0EE 0xF0 0x0400 0 0 0x00020) with | .ok (.qbind h f) => (issued (.qbind h f) s).any (fun (x : Issued) => !x.c.lanes.isEmpty && !f.m.sub.getLsbD 4 && !f.m.sub.getLsbD 2 && (match oneAccess x.c .load f.m.space.toNat 64 (x.c.addr f 0) 64 x.s with | .at_ t s1 => (queueAt s1 x.c.w.ctx t).isSome && (match readOne x.c t 64 s1 with | .ok v => v.testBit 120 | _ => false) | _ => false)) | _ => false) == [true, false]) = true
    ∧ (match decodeWord (wordA 0x0EE 0xF0 0x0400 0 0 0x00064) with | .ok (.qbind h f) => (issued (.qbind h f) { labFifo with waves := [at4 5 wave0] }).any (fun (x : Issued) => !x.c.lanes.isEmpty && f.m.sub.getLsbD 2 && (x.s.fifo? 0 5).isSome && fifoReady x.s 0 5) | _ => false) = true
    ∧ (runs lab (wordA 0x0EE 0xF0 0 0 0 0x00030) (fun _ x => !x.c.lanes.isEmpty)) = true
    ∧ ([wordA 0x0EF 2 0xF000 0 0 0, wordA 0x0EF 0 0xF000 0 0x0400 1].all (fun v => match decodeWord v with | .ok (.qtry h f) => (issued (.qtry h f) labFifo).any (fun (x : Issued) => !x.c.lanes.isEmpty && !f.m.sub.getLsbD 1 && (x.c.w.portQueue f.sa.reg.toNat).any (fun q => (readQueue x.s q).any (fun v => queueScopeOk x.s x.c.w q v.scope && fenceReady x.s x.c.w v.scope x.c.w.opSeq))) | _ => false)) = true := by decide +kernel

/-- A change granted, one refused, one that changes nothing, and one that is over, with its wave waiting. -/
theorem witness_BankModes :
    ([(0x400 : Nat), 0x000, 0x002].map (fun m => match decodeWord (wordA 0x0F0 8 0 0 0 0x20 ||| BitVec.ofNat 96 ((m + 6) * 2 ^ 18)) with | .ok (.combcfg h f) => (issued (.combcfg h f) { lab with cores := lab.cores.set 0 { lab.core 0 with descs := [(0, 2 ^ 498)] } }).any (fun (x : Issued) => !x.c.lanes.isEmpty && (x.s.core 0).changes.isEmpty && bankReason x.s 0 6 (field f.imm.toNat 10 8) (x.s.waveDesc x.c.w 498 498 == 1 && !x.c.w.section?) == 0 && x.s.bankMode 0 6 != field f.imm.toNat 10 8) | _ => false) == [true, false, false]) = true
    ∧ (runs lab (wordA 0x0F0 8 0 0 0 0x20 ||| BitVec.ofNat 96 ((0x400 + 6) * 2 ^ 18)) (fun _ x => bankReason x.s 0 6 4 (x.s.waveDesc x.c.w 498 498 == 1 && !x.c.w.section?) != 0)) = true
    ∧ (((({ lab.core 0 with changes := [{ bank := 6, mode := 4, taken := 0, ready := 0 }] } : Core).changes.find? (fun x => x.bank == 6)).any (fun b => decide (b.ready ≤ lab.cyc)))
      && SMap.wf 0 (lab.core 0).modes && decide ((lab.core 0).comb.wf)) = true := by decide +kernel

/-- As `labMem`, with a shipped section's code at 0x10000, named by s16:s17. -/
def labShip : State :=
  { memWith (fun w => { w with sregs := [(16, 0x10000)] }) 0x10000 64 (lineOf 0) with codeObjs := [{ ctx := 0, kernels := [{ kernel0 with shipped := true }], side := [] }] }

/-- SHIP and SHIPT of a section in place, SRET with a lane, and the end of a section still open. -/
theorem witness_SectionInstructions :
    ([labShip, { labShip with waves := [{ wave0 with sregs := [(16, 0x10000)], ports := [(0, .fifo 0 5, 5)] }], queues := [made0 (.fifo 0 5)], cores := labShip.cores.set 0 { labShip.core 0 with modes := [(2, 2), (5, 4)], fifos := (labFifo.core 0).fifos } }].zip [(0x90000020_40002800_18000390#96, false), (0x90800000_40002800_18000190#96, true)] |>.all (fun p => runs p.1 p.2.1 (fun i x => (match i with | .ship _ f => some f | .shipt _ f => some f | _ => none).any (fun (f : FmtX) => !x.c.lanes.isEmpty && !x.c.w.section? && (sectionAt x.s x.c.w.ctx (x.c.src 0 true f.sa true 0)).isSome && (match checkTarget x.s x.c.k.core x.c.w.ctx (x.c.src 0 true f.sa true 0) with | (.ok, s1) => (shipReqs f p.2.2 x.c s1).all (fun r => r.slotAddr % 32 == 0) && fenceReady s1 x.c.w 4 x.c.w.opSeq && (x.c.w.portQueue (240 + f.m.tile.toNat)).all (fun q => (readQueue s1 q).all (fun (v : QHead) => queueScopeOk s1 x.c.w q v.scope)) | _ => false))))) = true
    ∧ (runs labSection (wordA 0x122 0 0x0400 0 0 0) (fun _ x => !x.c.lanes.isEmpty)) = true
    ∧ ((labSection.wave? keyS).any (fun w => w.info.any (fun i => i.outcome.isNone))) = true := by decide +kernel

/-- An aligned transfer and a misaligned reduction; a chain on an idle channel, on a busy one, on one in error, misaligned and empty; a wave with a lane for the others. -/
theorem witness_CopyInstructions :
    (runs lab 0x91800000_00000000_000001D0#96 (fun i x => match i with | .copy _ f => !x.c.lanes.isEmpty && decide ((copyDesc f x.c).xb % (copyDesc f x.c).elem = 0) && (addLocks x.s 0 x.c.w.ctx x.c.w.grid x.c.w.team x.s.nextId 0x123 (copyDesc f x.c).ranges).isSome && decide (f.m.aux.toNat % 4 < (x.s.core 0).chans.length) | _ => false)) = true
    ∧ (runs (labWith (at4 2)) (wordA 0x123 0 0x0400 0x0600 0x0800 0x121D1) (fun i x => match i with | .copy _ f => !x.c.lanes.isEmpty && (copyDesc f x.c).dst % (copyDesc f x.c).elem != 0 | _ => false)) = true
    ∧ ([wordA 0x124 2 0 0 0 0x20, wordA 0x125 0 0 0 0 0, wordA 0x127 2 0 0 0 0x20].all (fun v => runs lab v (fun _ x => !x.c.lanes.isEmpty && decide (x.c.w.batches.length < 2 ^ 15)))) = true
    ∧ (runs (labWith (at4 64)) (wordA 0x126 0 0x0400 0 0 0x100) (fun i x => match i with | .chain _ f => x.c.src 0 true f.sa true 0 == 64 && (x.s.chan 0 0).heads.isEmpty && (x.s.chan 0 0).walking.isNone && !(x.s.chan 0 0).err && decide (0 < (x.s.core 0).chans.length) | _ => false)) = true
    ∧ (runs ((labWith (at4 64)).updChan 0 0 (fun ch => { ch with heads := [⟨64, key0, 1, 0, 0, 0, 0⟩] })) (wordA 0x126 0 0x0400 0 0 0x100) (fun _ x => (x.s.chan 0 0).heads.length == 1)) = true
    ∧ (runs ((labWith (at4 64)).updChan 0 0 (fun ch => { ch with err := true })) (wordA 0x126 0 0x0400 0 0 0x100) (fun _ x => (x.s.chan 0 0).err)) = true
    ∧ (runs (labWith (at4 32)) (wordA 0x126 0 0x0400 0 0 0x100) (fun i x => match i with | .chain _ f => x.c.src 0 true f.sa true 0 % 64 != 0 | _ => false)) = true
    ∧ (runs lab (wordA 0x126 0 0x0400 0 0 0x100) (fun i x => match i with | .chain _ f => x.c.src 0 true f.sa true 0 == 0 | _ => false)) = true := by decide +kernel

/-- A barrier with arrivals to come, one that a last arrival, expectation or sector completes, one with none to come; each instruction on a barrier of 8 arrivals in memory, and a wait that is not for its wave. -/
theorem witness_TransactionBarriers :
    (field (tbInit 8 0 0 0) 47 28 == 8 && field (tbInit 1 0 0 0) 47 28 == 1 && field (tbInit 0 0 0 0) 47 28 == 0
      && decide (tbInit 1 0 0 0 < 2 ^ 128) && field (tbExpect (tbInit 1 0 0 0) 5) 95 64 == 5) = true
    ∧ (runs (memWith (at4 0x4000) 0x4000 16 (tbInit 8 0 0 0)) (wordA 0x128 0 0x0400 0x0600 0 0x00420) (fun i x => match i with | .tbinit _ f => !x.c.lanes.isEmpty && (match oneAccess x.c .store f.m.space.toNat 16 (x.c.addr f 0) 16 x.s with | .at_ _ _ => true | _ => false) | _ => false)) = true
    ∧ ([wordA 0x129 0 0x0400 0 0 0x00220, wordA 0x12A 0 0x0400 0x0600 0 0x00020].all (fun v => runs (memWith (at4 0x4000) 0x4000 16 (tbInit 8 0 0 0)) v (fun i x => (match i with | .tbarr _ f => some f | .tbexp _ f => some f | _ => none).any (fun (f : FmtM) => !x.c.lanes.isEmpty && (match oneAccess x.c .store f.m.space.toNat 16 (x.c.addr f 0) 16 x.s with | .at_ t s1 => !ownPending s1 x.c.k t 16 && (match readOne x.c t 16 s1 with | .ok v => fenceReady s1 x.c.w (tbScope v) x.c.w.opSeq | _ => false) | _ => false))))) = true
    ∧ ([tbInit 8 0 0 0, tbInit 8 0 2 9].map (fun b => runs (memWith (at4 0x4000) 0x4000 16 b) (wordA 0x12B 0 0x0400 0 0 0x00120) (fun i x => match i with | .tbwait h f => !x.c.w.section? && (match oneAccess x.c .load f.m.space.toNat 16 (x.c.addr f 0) 16 x.s with | .at_ t s1 => !ownPending s1 x.c.k t 16 && (match readOne x.c t 16 s1 with | .ok v => (judgeBarrier s1 x.c.w h.yld (field v 5 4) (field v 63 48)).isNone | _ => false) | _ => false) | _ => false)) == [true, false]) = true := by decide +kernel

/-- As `labMem`, with a table of 64 rows of 8 bytes at 0x8000, described in slot 0 at 0x3000, and a descriptor of 32 bytes at 0x4000. -/
def labTable : State :=
  let m := ((((((labMem.mem.writeNat 0x3008 8 0x8000).writeNat 0x3010 4 64).writeNat 0x3014 4 8).writeNat 0x3018 1 9).writeNat 0x4000 8 0x5000).writeNat 0x4008 8 0x6000).writeNat 0x4010 8 (4 + 8 * 2 ^ 32)
  { labMem with mem := m, waves := [at4 0x4000 wave0], cores := labMem.cores.set 0 { labMem.core 0 with descs := [(0, 0x100000 + 0x3000 * 2 ^ 128)] } }

/-- A stale handle, rows in registers with and without a lane dropped, the memory form, and TBLSTAT with its two sides. -/
theorem witness_TableInstructions :
    (runs (labWith (fun w => { w with sregs := [(6, 0x10000)] })) (wordA 0x12C 4 0x0600 0x0800 0 0x10100) (fun i x => match i with | .gather _ f => (useHandle x.s x.c (handleOf x.c f.sa)).toOption.isNone | _ => false)) = true
    ∧ (runs labTable (wordA 0x12C 4 0x0600 0x0800 0 0x10100) (fun i x => match i with | .gather h f => (useHandle x.s x.c (handleOf x.c f.sa)).toOption.any (fun d => !x.c.lanes.isEmpty && d.rowBytes == 8 && !(keptRows (laneRows x.c f d)).isEmpty && (x.reached .load 0 4 ((keptRows (laneRows x.c f d)).flatMap (fun p => (List.range 2).map (fun i => { lane := p.1, va := d.base + p.2 * d.rowBytes + 4 * i, size := 4, dst := h.dst.toNat + i })))).any (fun (r : List (Acc × Target × Nat) × State) => (countDrops r.2 d.at_ (droppedLanes (laneRows x.c f d)).length).isSome)) | _ => false)) = true
    ∧ (runs { labTable with waves := [{ at4 0x4000 wave0 with vregs := [(vkey 8 3, 64#32)] }] } (wordA 0x12C 4 0x0600 0x0800 0 0x10100) (fun i x => match i with | .gather _ f => (useHandle x.s x.c (handleOf x.c f.sa)).toOption.any (fun d => droppedLanes (laneRows x.c f d) == [3] && (countDrops x.s d.at_ 1).isSome) | _ => false)) = true
    ∧ (runs labTable (wordA 0x12D 0 0x0600 0x0800 0x0A00 0x10100) (fun i x => match i with | .scatter _ f => (useHandle x.s x.c (handleOf x.c f.sa)).toOption.any (fun d => !x.c.lanes.isEmpty && (droppedLanes (laneRows x.c f d)).isEmpty && !(keptRows (laneRows x.c f d)).isEmpty && (accessChecks x.s x.c true 0 4 ((keptRows (laneRows x.c f d)).flatMap (fun p => (List.range 2).map (fun i => { lane := p.1, va := d.base + p.2 * 8 + 4 * i, size := 4 })))).isNone) | _ => false)) = true
    ∧ ([wordA 0x12C 0 0x0600 0x0400 0 0x10181, wordA 0x12D 0 0x0600 0x0400 0 0x10181].all (fun v => runs labTable v (fun i x => (match i with | .gather _ f => some f | .scatter _ f => some f | _ => none).any (fun (f : FmtX) => f.m.sub3.getLsbD 0 && (useHandle x.s x.c (handleOf x.c f.sa)).toOption.any (fun d => match oneAccess x.c .load 0 32 (x.c.src 1 true f.sb true 0) 32 x.s with | .at_ t s1 => (readOne x.c t 32 s1).toOption.any (fun v => (memForm d v).isSome) | _ => false))))) = true
    ∧ ([wordA 0x12E 2 0x0600 0 0 0x00120, wordA 0x12E 2 0x0600 0 0 0x00121, wordA 0x12E 2 0x0600 0 0 0x00122].all (fun v => runs labTable v (fun i x => match i with | .tblstat _ f => !x.c.lanes.isEmpty && (useHandle x.s x.c (handleOf x.c f.sa)).toOption.any (fun d => x.s.writable (.dev (d.at_ + 40)) 8) | _ => false))) = true := by decide +kernel

/-- As `labFifo`, with connection 0 on the given kind of port, and a descriptor of the given kind for every lane at address 0x4000. -/
def labIo (kind port : Nat) : State :=
  { labMem with
    mem := ((labMem.mem.writeNat 0x4000 8 0x9000).writeNat 0x4008 8 (4 + 5 * 2 ^ 32)).writeNat 0x4010 8 (kind * 2 ^ 32)
      |>.writeNat 0 64 (1 + port * 2 ^ 124)
    waves := [{ at4 0x4000 wave0 with ports := [(0, .fifo 0 5, 5)],
                                       quads := (wave0.quads.map (fun q => { q with mask := 0 })).set 0 (wave0.quads.getD 0 noQuad) }]
    cores := labMem.cores.set 0 { labMem.core 0 with
      modes := [(2, 2), (5, 4)]
      fifos := [{ bank := 5, scope := 1, esz := 2, hw := false, prec := BitVec.ofNat 128 (queueRecord lab wave0 false),
                  crec := BitVec.ofNat 128 (queueRecord lab wave0 false), creator := key0, elems := [], tail := 0, head := 0 }] } }

/-- A read, a write of either port kind and a post. -/
theorem witness_IoInstructions :
    ([(labIo 0 1, 0x12F, [0, 2]), (labIo 2 0, 0x12F, [0, 2]), (labIo 1 1, 0x130, [1, 3, 4]), (labIo 4 0, 0x130, [1, 3, 4]), (labIo 5 0, 0x131, [5])].all (fun (p : State × BitVec 9 × List Nat) => runs p.1 (wordA p.2.1 0 0x0400 0 0 0x100) (fun i x => (match i with | .iord _ f => some f | .iowr _ f => some f | .iopost _ f => some f | _ => none).any (fun (f : FmtX) => !x.c.lanes.isEmpty && (x.reached .load 0 64 (x.c.lanes.map (fun l => { lane := l, va := x.c.src 0 f.m.sa f.sa true l, size := 64 }))).any (fun (r : List (Acc × Target × Nat) × State) => r.1.all (fun (y : Acc × Target × Nat) => (readOne x.c y.2.1 64 r.2).toOption.any (fun d => (ioCause r.2 x.c p.2.2 d).isNone)) && (ioQueue r.2 x.c 240).any (fun q => (beginAll x.c q (x.c.lanes.zip (r.1.filterMap (fun (y : Acc × Target × Nat) => (readOne x.c y.2.1 64 r.2).toOption))) r.2).1.isEmpty)))))) = true
    ∧ (!isBroken lab 0 0 && decide ((lab.core 0).locks.length < 64)) = true := by decide +kernel

/-- The state with the baton in the wave's hands and the given commands in the engine's list. -/
def withCmds (l : List CmdKind) (s : State) : State :=
  s.updEng 0 (fun e => { e with baton := some key0,
                                cmds := l.map (fun k => { id := 7, w := key0, gid := 1, team := 0, ctx := 0, pc := 0, seq := 0, ntm := false,
                                                          kind := k, started := false, granule := 0, seen := [], stop := none }) })

/-- A block of a long MMA in the given stage. -/
def block0 (stage : Nat) : LongMma := { sp := true, bfmt := 4, nb := 1, bblk := 0, bstr := 64, bscl := 0, bsrc := 0, block := 0, stage := stage }

/-- Of `BatonAndBuffers`. -/
theorem witness_BatonAndBuffers_1 :
    (([.bload true 0 64 0 4] : List CmdKind).all (fun k => ((withCmds [k] lab).engHead 0).any (fun c => engineSettled lab c.w c.seq && (match engReach (withCmds [k] lab) 0 c .load 1 ((List.range (depthOf 4)).map (fun i => (0, 0 + i * 64, brow 4))) with | .ok _ s1 => decide (0 < s1.cores.length) | _ => false)))) = true := by decide +kernel

/-- The baton free, held by the wave, held by another; one waiter; the instructions with and without it; BLOAD of a good and of a bad stride; each command at the head of the list (a block of a long MMA reads the places of the BLOAD); a budget run out. -/
theorem witness_BatonAndBuffers :
    (runs lab (wordA 0x140 0 0 0 0 0) (fun _ x => !x.c.lanes.isEmpty && (x.s.core (x.s.engineCore x.c.w)).eng.baton.isNone)) = true
    ∧ (runs (withCmds [] lab) (wordA 0x140 0 0 0 0 0) (fun _ x => (x.s.core (x.s.engineCore x.c.w)).eng.baton == some x.c.k)) = true
    ∧ (runs ((withCmds [] lab).updEng 0 (fun e => { e with baton := some keyS })) (wordA 0x140 0 0 0 0 0) (fun _ x => (x.s.core (x.s.engineCore x.c.w)).eng.baton == some keyS && keyS != x.c.k)) = true
    ∧ (wave0.gangs.all (fun g => g.wait != .baton) && (lab.wave? key0).isSome) = true
    ∧ (([0x141, 0x142, 0x143, 0x144, 0x145, 0x146, 0x147, 0x148, 0x149, 0x14A] : List (BitVec 9)).all (fun o => ([0, 0x180, 0x8100] : List (BitVec 18)).any (fun m => runs lab (wordA o 0 0 0 0 m) (fun _ x => (x.s.core (x.s.engineCore x.c.w)).eng.baton != some x.c.k)))) = true
    ∧ ((((lab.updEng 0 (fun e => { e with queue := [(key0, 0)] })).core 0).eng.queue == [(key0, 0)]) && !engineFull (lab.core 0).eng
      && (addLocks lab 0 0 1 0 9 0x142 []).isSome) = true
    ∧ ([(64 : Word), 32].map (fun n => runs (withCmds [] (labWith (fun w => { w with sregs := [(6, n)] }))) (wordA 0x142 0 0x0400 0x0600 0 0x08181) (fun i x => match i with | .bload _ f => !x.c.lanes.isEmpty && x.c.src 0 true f.sa false 0 == 0 && x.c.src 1 true f.sb false 0 == n.toNat && decide (8 * codeWidth f.m.ty.toNat ≤ n.toNat) && (commandCheck x.s x.c false 1 1 ((bloadLocks 1 0 n.toNat f.m.ty.toNat 0).map (fun r => { lane := 0, va := r.lo, size := r.hi - r.lo }))).isNone | _ => false)) == [true, false]) = true
    ∧ (([.bswap, .mma 4 0 false true 0 [] [] (some (block0 0)), .mma 4 0 false true 0 [] [] (some (block0 1))] : List CmdKind).all (fun k => ((withCmds [k] lab).engHead 0).any (fun c => c.kind == k))) = true
    ∧ (({ withCmds [] lab with gtbAdj := 9999999 }).gtb > 1000 * (lab.core 0).eng.budget && (lab.core 0).eng.queue.isEmpty) = true := by decide +kernel

/-- An MMA with rows in the window, a long one, and the tile instructions on a tile of floats with nothing left to do. -/
theorem witness_Accumulators :
    (runs (withCmds [] lab) (wordA 0x144 0 0x0400 0 0 0x08002) (fun i x => match i with | .mma _ f => !x.c.lanes.isEmpty && !f.m.sub3.getLsbD 2 && (x.s.core (x.s.engineCore x.c.w)).eng.baton == some x.c.k && (commandCheck x.s x.c false 1 32 ((x.c.lanes.map (fun l => (l, x.c.src 0 false f.sa false l))).map (fun p => { lane := p.1, va := p.2, size := rowLength x.s x.c f.m.ty.toNat none }))).isNone | _ => false)) = true
    ∧ ([0, 512 * 2 ^ 128 + 2 ^ 200].map (fun d => runs (withCmds [] (memWith (at4 0x4000) 0x4000 32 d)) (wordA 0x144 0 0x0800 0 0x0400 0x0A046) (fun i x => match i with | .mma _ f => f.m.sub3.getLsbD 2 && (match oneAccess x.c .load 0 32 (x.c.src 2 true f.sc true 0) 32 x.s with | .at_ t s1 => (readOne x.c t 32 s1).toOption.any (fun v => (longOf v).toOption.isSome == decide (d ≠ 0)) | _ => false) | _ => false)) == [true, true]) = true
    ∧ (runs (withCmds [] lab) (wordA 0x145 0 0 0 0 0x02000) (fun _ x => !x.c.lanes.isEmpty && !tileBusy x.s x.c.w.grid x.c.w.team (interlockTiles x.s x.c 0 true) x.s.nextId true)) = true
    ∧ ([wordA 0x146 2 0 0 0 0x02000, wordA 0x147 0 0 0 0x0400 0x02000, wordA 0x148 2 0 0 0 0x02000].all (fun v => runs (withCmds [] lab) v (fun i x => (match i with | .accrd _ f => some f | .accwr _ f => some f | .acccvt _ f => some f | _ => none).any (fun (f : FmtX) => !x.c.lanes.isEmpty && (windowCheck x.s x.c 0 0 0 1 (tagOf f.m.ty)).toOption.any (fun (p : Nat × BitVec 2) => (tilePoison x.s x.c p.1 (p.2 == 2)).isNone))))) = true
    ∧ (runs (withCmds [] lab) (wordA 0x149 0 0x0400 0 0 0x02001) (fun i x => match i with | .accst _ f => !x.c.lanes.isEmpty && (windowCheck x.s x.c 0 0 0 64 none).toOption.isSome && (commandCheck x.s x.c true 1 32 ((x.c.lanes.map (fun l => (l, x.c.src 0 false f.sa false l))).map (fun p => { lane := p.1, va := p.2, size := 256 }))).isNone | _ => false)) = true
    ∧ (runs (withCmds [] lab) (wordA 0x14A 0 0 0 0 1) (fun _ x => !x.c.lanes.isEmpty)
      && runs lab (wordA 0x14B 0 0 0 0 0 ||| BitVec.ofNat 96 (0x23 * 2 ^ 18)) (fun _ x => !x.c.lanes.isEmpty)) = true := by decide +kernel

/-- A load of one element on its way. -/
def load0 : LOp :=
  { id := 5, w := key0, ctx := 0, seq := 0, pc := 0, acquire := false, scope := 0, ty := 9, scalar := false, missed := true, keys := [⟨.vec, 2⟩],
    port := none, hint := 0, table := none, hot := [],
    elems := [{ lane := 0, va := 0x4000, size := 4, target := .dev 0x4000, lease := 7, dst := 2, done := false, value := 0 }] }

/-- A store or atomic of one element at address 0x4000, in the given phase. -/
def store0 (k : MKind) (checked : Bool) (p : Phase) : MOp :=
  { id := 5, w := key0, gid := 1, team := 0, ctx := 0, seq := 0, iss := 0, pc := 0, scope := 4, order := 0, space := 0, kind := k, checked := checked,
    keys := [], port := none, whole := 0, byElem := false, gtb := 0, cyc := 0, table := none,
    elems := [{ lane := 0, va := 0x4000, size := 4, data := 7, cmp := 0, old := 0, target := if checked then some (.dev 0x4000) else none,
                lease := 7, dst := 0, phase := p, removal := .notNeeded }] }

/-- A load alone and one of two elements; a dirty sector; a store to be checked, with a place and without; one at each step at its home. -/
theorem witness_AccessEvents :
    (loadMay { labMem with loads := [load0] } load0 { lane := 0, va := 0x4000, size := 4, target := .dev 0x4000, lease := 7, dst := 2, done := false, value := 0 }
      && (l1Find labMem 0 (.dev 0x4000)).isNone && !labMem.poisonedAt (.dev 0x4000) && !labMem.unreached (.dev 0x4000)) = true
    ∧ (!({ labMem with mops := [store0 .store true (.arrived 0 0)] } : State).lineFree 0x4000) = true
    ∧ ((({ labMem with mops := [store0 .store true (.dirty 0)] } : State).mop? 5).any (fun o => (o.elems[0]?).any (fun e => e.phase == .dirty 0 && e.target == some (.dev 0x4000)))) = true
    ∧ ((labMem.anyWave? key0).any (fun w => firstUnchecked { labMem with mops := [store0 .store false .unchecked] } (store0 .store false .unchecked) && !fencetAhead { labMem with mops := [store0 .store false .unchecked] } (store0 .store false .unchecked) && decide ((labMem.core 0).sfTail < (labMem.core 0).sfHead + 32) && (placeAll labMem (whoOf labMem w) .store 0 [{ lane := 0, va := 0x4000, size := 4 }]).1.all (fun p => match p.2 with | .ok t _ => (secureOf labMem 0 t).isNone | _ => false) && w.quads.any (fun x => !x.ended))) = true
    ∧ ((lab.anyWave? key0).any (fun w => (placeAll lab (whoOf lab w) .store 0 [{ lane := 0, va := 0x4000, size := 4 }]).1.all (fun p => match p.2 with | .fault _ => true | _ => false))) = true
    ∧ (let o := store0 .store true .sent
    o.elems.all (fun e => arriveMay { labMem with mops := [o] } o 0 e (.dev 0x4000) && flitMay labMem o e (.dev 0x4000) && (sharedRegion labMem 0 (.dev 0x4000)).isNone && arriveGroup o 0 e == [0])) = true
    ∧ (sharedRegion (labMem.updPart 0 (fun p => { p with rgn := [(3, BitVec.ofNat 128 (2 ^ 64 + 2 ^ 67 + 50))] })) 0 (.dev 0) == some 3) = true
    ∧ (let o := store0 .store true (.arrived 0 0); o.elems.all (fun e => applyMay { labMem with mops := [o] } e (.dev 0x4000))) = true
    ∧ (let o := store0 (.atomic 1 9 true) true (.arrived 0 0)
    o.elems.all (fun e => applyMay { labMem with mops := [o] } e (.dev 0x4000) && e.removal != .waiting && decide (0 < e.size))
      && !labMem.poisonedAt (.dev 0x4000) && decide (labMem.mem.wf)) = true
    ∧ (((store0 .store true (.applied 9)).elems.headD ⟨0, 0, 0, 0, 0, 0, none, 0, 0, .sent, none, none, none, .notNeeded⟩).phase == .applied 9
      && SMap.wf 0#64 wave0.wct) = true := by decide +kernel

/-- A command at the head of the engine's list. -/
def headOf (s : State) (p : Cmd → Bool) : Bool := (s.engHead 0).any p && decide ((s.core 0).eng.tiles.length = 16) && (s.core 0).eng.tiles.all (fun t => SMap.wf 0#32 t.cells)

/-- An MMA to be started, with no buffer and with a buffer of floats; one started, with a row to read; ACCZ, ACCWR and ACCST. -/
theorem witness_TileEvents :
    (headOf (withCmds [.mma 1 0 true true 0 [(0, 0)] [] none] lab) (fun c => !c.started && engineSettled lab c.w c.seq && tileOf lab c.gid c.team 0 == some 0 && !(lab.core 0).eng.b0.valid)) = true
    ∧ ((pairing 1 4 == some 0) && (pairing 0 4 == none) && (pairing 1 14 == some 0) && (pairing 8 9 == some 1)) = true
    ∧ (let s := ((withCmds [.mma 1 0 true true 0 [(0, 0)] [] none] lab).updEng 0 (fun e => { e with b0 := { e.b0 with valid := true, owner := some (1, 0), fmt := 1 }, cmds := e.cmds.map (fun c => { c with started := true }) }))
    headOf s (fun c => c.started && !c.ntm && (match engReach s 0 c .load 1 [(0, 0, 4)] with | .ok _ s1 => !s1.poison.contains (.engineTile 0 0) && decide ((s1.core 0).eng = (s.core 0).eng) | _ => false))) = true
    ∧ (([.accz 0 1, .accwr 0 false [(5, 3)]] : List CmdKind).all (fun k => headOf (withCmds [k] lab) (fun c => tileOf lab c.gid c.team 0 == some 0))) = true
    ∧ (headOf (withCmds [.accst 1 0 true 0 [(0, 0)] 0 0] lab) (fun c => engineSettled lab c.w c.seq && (match engReach (withCmds [.accst 1 0 true 0 [(0, 0)] 0 0] lab) 0 c .store 1 [(0, 0, 256)] with | .ok _ s1 => !s1.poison.contains (.engineTile 0 0) | _ => false))) = true := by decide +kernel

/-- A transfer of 32 bytes from 0x8000 to 0x9000, a copy or a sum of 32-bit numbers. -/
def xfer0 (op fmt : Nat) (landed : List Nat) : Xfer :=
  { id := 7, w := key0, gid := 1, team := 0, ctx := 0, pc := 0, seq := 0, recAddr := 0, landed := landed, counted := 0, fault := none, reread := false,
    desc := { op := op, fmt := fmt, src := 0x8000, dst := 0x9000, sspc := 0, dspc := 0, xb := 32, yn := 1, zn := 1, sys := 0, szs := 0, dys := 0,
              dzs := 0, sg := 4, cb := 0, next := 0, own := false, reserved := false } }

/-- As `labMem`, with a transfer, and a chain whose record stands at 0x4000. -/
def labChain (x : List Xfer) (rec : Nat) : State :=
  { labMem with mem := labMem.mem.writeNat 0x4000 64 rec }.updChan 0 0 (fun ch => { ch with xfers := x, walking := some ⟨0x4000, key0, 1, 0, 0, 0, 0⟩ })

/-- A record of a copy of 32 bytes, owned; with the next one's address. -/
def record0 (next : Nat) : Nat := next + 2 ^ 64 + 32 * 2 ^ 96 + 2 ^ 128 + 2 ^ 160 + 0x8000 * 2 ^ 320 + 0x9000 * 2 ^ 384

/-- A head to be taken; a channel in error; a record without OWN, a bad one, one of a bad barrier, a good one; a piece of a copy and of a reduction; a transfer with all of it in place. -/
theorem witness_CopyEvents :
    (((lab.updChan 0 0 (fun ch => { ch with heads := [⟨0x4000, key0, 1, 0, 0, 0, 0⟩] })).chan 0 0).running
      && decide (0 < (lab.core 0).chans.length)) = true
    ∧ (!((labChain [] 0).updChan 0 0 (fun ch => { ch with err := true }) |>.chan 0 0).running) = true
    ∧ ([0, record0 0, record0 0 - 32 * 2 ^ 96, record0 0 + 2 ^ 511].map (fun r => let s := labChain [] r; (s.chan 0 0).running && !s.ctxHeld 0 0 && !s.stops 1 0 && (s.chan 0 0).xfers.isEmpty && engineSettled s key0 0 && decide ((s.core 0).locks.length ≤ 62) && (match reach s (whoFor s 0 0 1 0) .load 0 ((List.range 64).map (0x4000 + ·)) with | (.ok l, s1) => let d := recordOf (bytesToNat (l.map s1.byteAt)); d.own && !d.bad && !cbBad s1 1 0 d.cb | _ => false)) == [false, true, false, false]) = true
    ∧ ([(record0 0 - 32 * 2 ^ 96), record0 0 + 2 ^ 511].map (fun r => (recordOf r).bad) == [true, false] && cbBad lab 1 0 (2 ^ 63)) = true
    ∧ ([((0 : Nat), (0 : Nat)), (1, 9)].all (fun p => let x := xfer0 p.1 p.2 []; let s := labChain [x] 0; x.mayMove s 0 0 (if p.1 = 0 then 0 else 9) && (p.1 == 0 || x.desc.pieces.contains 9) && (match reach s (whoFor s 0 0 1 0) .load 0 ((x.desc.bytesOf (if p.1 = 0 then 0 else 9)).map x.desc.srcAt) with | (.ok l, s1) => decide (l.length = 32) && (match reach s1 (whoFor s 0 0 1 0) .store 0 ((x.desc.bytesOf (if p.1 = 0 then 0 else 9)).map x.desc.dstAt) with | (.ok dst, s2) => writableAll s2 0 dst && dst.all (fun t => !s2.poisonedAt t) && decide dst.Nodup && decide (s2.mem.wf) && (match signalBarrier s2 (whoFor s 0 0 1 0) 0 0 with | .done s3 => decide ((s3.chan 0 0).xfers = (s.chan 0 0).xfers) | _ => false) | _ => false) | _ => false))) = true
    ∧ ((xfer0 0 0 [0]).landedAll && (labChain [xfer0 0 0 [0]] 0 |>.chan 0 0).running) = true := by decide +kernel

/-- An operation of the table unit on two rows of 8 bytes. -/
def tableOp0 (scatter add : Bool) : TableOp :=
  { id := 7, w := key0, gid := 1, team := 0, ctx := 0, pc := 0, seq := 0, scatter := scatter, add := add, wide := false, slot := 0, descAt := 0x3000,
    base := 0x8000, rows := 64, rowBytes := 8, fmt := 9, idx := 0x5000, rowsAddr := 0x6000, count := 2, stride := 8, tb := 0, hot := [], fault := none }

def labTableOp (o : TableOp) : State := labMem.updCore 0 (fun x => { x with tableOps := [o] })

/-- A gather of two rows, a scatter, and a scatter that adds, of two rows of one index. -/
theorem witness_TableEvents :
    (([(false, false), (true, false), (true, true)] : List (Bool × Bool)).all (fun p => let s := labTableOp (tableOp0 p.1 p.2); !s.ctxHeld 0 0 && engineSettled s key0 0 && (match tableRead s 0 (tableOp0 p.1 p.2) 0 (byteRun 0x5000 8) with | .ok l s1 => ((splitElems 4 2 (bytesToNat l)).map (rowIndex false 64)) == [some 0, some 0] && (match tableRead s1 0 (tableOp0 p.1 p.2) 0 (if p.1 then byteRun 0x6000 16 else byteRun 0x8000 8 ++ byteRun 0x8000 8) with | .ok _ s2 => (match reach s2 (whoFor s2 0 0 1 0) .store 0 (if p.1 then byteRun 0x8000 8 else byteRun 0x6000 16) with | (.ok dst, s3) => writableAll s3 0 dst && decide dst.Nodup && dst.all (fun t => !s3.poisonedAt t) && s3.writable (.dev 0x3028) 8 && decide (s3.mem.wf) | _ => false) | _ => false) | _ => false))) = true
    ∧ (let s := { labTableOp (tableOp0 true false) with mem := (labTableOp (tableOp0 true false)).mem.writeNat 0x5004 4 1 }
    (match tableRead s 0 (tableOp0 true false) 0 (byteRun 0x5000 8) with | .ok l s1 => ((splitElems 4 2 (bytesToNat l)).map (rowIndex false 64)) == [some 0, some 1] && (match reach s1 (whoFor s1 0 0 1 0) .store 0 (byteRun 0x8000 16) with | (.ok dst, s3) => writableAll s3 0 dst && decide dst.Nodup | _ => false) | _ => false)) = true := by decide +kernel

/-- A request of the wave to the home 3 for a lock, with its result if it has one. -/
def ship0 (r : Option (Nat × List Word)) (q : Option QueueRef) : ShipOp :=
  { id := 7, w := key0, ctx := 0, gid := 1, team := 0, seq := 0, pc := 0, fab := false, port := none, tokens := q, nres := 1, dst := 8, entry := 0x10000,
    kernel := { kernel0 with shipped := true },
    reqs := [{ lane := 0, home := 3, rank := 0, lock := 0x180, args := [5, 6], token := 0, slotAddr := 0x4000, arrived := r.isSome, result := r,
               written := true }] }

/-- A request not arrived, one at the head of its queue, a section past its budget, one that has returned, one that was aborted, a token to be pushed. -/
theorem witness_SectionEvents :
    (let s := { lab with ships := [ship0 none none] }
    (ship0 none none).reqs.all (fun r => !r.arrived && mayArrive s (ship0 none none) r && r.rank == s.fabric.rank && decide ((s.benuri r.home).queue.length < 512) && decide (r.home < s.benuris.length))) = true
    ∧ (!({ lab with fabric := { lab.fabric with rank := 1 } } : State).reachable 0) = true
    ∧ (ship0 (some (0, [9])) none).reqs.all (fun r => r.rank == lab.fabric.rank) = true
    ∧ (let s := { lab with ships := [ship0 none none] }.updBenuri 3 (fun b => { b with queue := [(7, 0)] })
    (s.wave? (sectionKey 3)).isNone && (s.benuri 3).queue == [(7, 0)]
      && (s.ship? 7).any (fun o => (o.reqs.find? (fun r => r.lane == 0)).isSome)) = true
    ∧ (({ labSection with gtbAdj := 50000 } : State).wave? (sectionKey 0) |>.any (fun w => w.info.any (fun i => i.outcome.isNone && decide (i.start + 50000 ≤ ({ labSection with gtbAdj := 50000 } : State).gtb)))) = true
    ∧ (let s := { labWith (waits (.ship 7)) with ships := [ship0 (some (0, [9])) none] }
    (s.wave? key0).any (fun w => !w.finished && w.sched != .trapped && (w.gangs.find? (fun g => g.wait == .ship 7)).any (fun g => g.quads.head? == some 0 && w.gangOf 0 == some g) && !splitB w (w.pcOf 0))) = true
    ∧ ((lab.wave? key0).any (fun w => !w.finished && w.sched != .trapped && w.info.isNone && w.trap.isNone)) = true
    ∧ (let s := { labFifo with ships := [ship0 (some (0, [9])) (some (.fifo 0 5))] }.updBenuri 3 (fun b => { b with held := [(7, 0)] })
    (readQueue s (.fifo 0 5)).any (fun h => decide (0 < roomOf s (.fifo 0 5) h)) && decide (3 < s.benuris.length)) = true := by decide +kernel

/-- A request of the I/O unit of 4 bytes at 0x9000, on connection 0. -/
def io0 (kind : Nat) (absent : Option (Nat × Nat)) : IoReq :=
  { id := 7, w := key0, gid := 1, team := 0, seq := 0, part := 0, ctx := 0, kind := kind, conn := 0, token := 5, len := 4, buf := 0x9000, raddr := 0,
    rkey := 0, queue := .fifo 0 5, core := 0, absent := absent, tries := 0, data := none, begun := true }

def withIo (r p : List IoReq) : State := { labIo 0 1 with io := { lab.io with reqs := r, posted := p } }

/-- A read and a write to be completed, a message for a posted buffer, a held record, a placement past its time, a connection in use. -/
theorem witness_IoEvents :
    (let s := withIo [io0 0 none] []
    engineSettled s key0 0
      && (match reach s (ioWho s (io0 0 none)) .store 0 ((List.range 4).map (fun i => (0x9000 + i) % 2 ^ 64)) with | (.ok l, s1) => writableAll s1 0 l && decide l.Nodup && decide (s1.mem.wf) && decide (s1.io = s.io) | _ => false)) = true
    ∧ (let s := withIo [io0 1 none] []
    (match reach s (ioWho s (io0 1 none)) .load 0 ((List.range 4).map (fun i => (0x9000 + i) % 2 ^ 64)) with | (.ok _, s1) => decide (s1.io = s.io) | _ => false)) = true
    ∧ (let s := withIo [io0 1 none] []; s.ioMay (io0 1 none) && engineSettled s key0 0 && (io0 1 none).data.isNone) = true
    ∧ ((withIo [] [io0 5 none]).io.posted.any (fun r => r.part == 0 && r.conn == 0) && !isBroken (withIo [] [io0 5 none]) 0 0
      && (connEntry (withIo [] []) 0 0).testBit 0) = true
    ∧ ((readQueue (labIo 0 1) (.fifo 0 5)).any (fun q => decide (0 < roomOf (labIo 0 1) (.fifo 0 5) q))) = true
    ∧ ((io0 0 (some (0, 0x9000))).absent == some (0, 0x9000) && decide (0 + 50000 ≤ ({ lab with gtbAdj := 50000 } : State).gtb)
      && !stillAbsent (withIo [] []) (io0 0 none) 0x9000 && stillAbsent labMem (io0 0 none) (2 ^ 30) && decide (ioRetries lab (io0 0 none) ≤ 0)) = true := by decide +kernel

/-- A machine of four partitions with one core pair in service and one grid in its launch queue, of one team of one wave, whose context and page tables stand in memory, and the distributor on. -/
def labGrid (k : Kernel) (d : LaunchDesc) : State :=
  { State.reset with
    mem := (((Memory.writeNat [] 0x100000 8 (1 + 0x101 * 2 ^ 10)).writeNat 0x101000 8 (1 + 0x102 * 2 ^ 10)).writeNat 0x102000 8 0xDF)
      |>.writeNat 0x3000 128 (0x100000 + 4 * 2 ^ 224 + 0x100 * 2 ^ 240 + 2 ^ 496 + (1 + 2 * 8) * 2 ^ 256)
    grids := [{ newGrid 1 0 0 0 d k none (.dev 0x40) with started := false }], codeObjs := [{ ctx := 0, kernels := [k], side := [] }], root := { State.reset.root with mode := 2 }
    cores := List.replicate 2 { Core.reset with modes := [(0, 1), (1, 2)], lastCtx := some 0, comblay := BitVec.ofNat 192 17 }
      ++ List.replicate 190 { Core.reset with oos := true }
    parts := State.reset.parts.set 0 { State.reset.part 0 with
      ctxBase := 0x3000, sqBase := 0x2000, wdctl := 1, lq := [{ gid := 1, prio := 0 }], mwin := [(0, BitVec.ofNat 128 (2 ^ 46))] } }

def kernel1 : Kernel := { kernel0 with vregs := 8, scomb := 4096, tiles := 0, cls := 1 }

/-- Of `SubmissionAndAdmission`. -/
theorem witness_SubmissionAndAdmission_1 :
    (let s := labGrid kernel1 launch0
    s.grids.all (fun g => (gridReasons s g).isEmpty && nextCand s 0 == some (.head 1) && (placeAllOf 0 (.head 1) 1 s).isSome)) = true := by decide +kernel

/-- Of `SubmissionAndAdmission`. -/
theorem witness_SubmissionAndAdmission_2 :
    (let s := labGrid { kernel1 with cls := 0 } launch0
    s.grids.all (fun g => (gridReasons s g).isEmpty && nextCand s 0 == some (.head 1) && (placeConcurrent s 0 (.head 1)).isSome)) = true := by decide +kernel

/-- A doorbell with room and one without, of each port; a queue with a descriptor to fetch; a grid to be rejected, one to be started, one with teams to come, a range task; a team that is over. -/
theorem witness_SubmissionAndAdmission :
    ((portsOf lab 0).contains 0 && lab.root.mode == 0 && (portsOf lab 0).contains (1 - lab.lease.active)
      && decide (0 < lab.parts.length) && decide (lab.mem.wf)) = true
    ∧ (field (sqDesc (labGrid kernel1 launch0) 0 0) 95 64 == 0
      && field (sqDesc { labGrid kernel1 launch0 with mem := (labGrid kernel1 launch0).mem.writeNat 0x2000 16 (0x7000 + 4 * 2 ^ 64 + 2 ^ 100) } 0 0) 95 64 == 4) = true
    ∧ (let s := { (labGrid kernel1 launch0).updPart 0 (fun p => { p with sqTail := [(0, 1)] }) with mem := (labGrid kernel1 launch0).mem.writeNat 0x2000 16 (0x7000 + 4 * 2 ^ 64 + 2 ^ 100) }
    sqTurn s 0 == some 0 && (s.part 0).ring.isEmpty
      && (match walkStore (s.updPart 0 (fun p => { p with rr := 1 })) 0 0 (s.ctxDesc 0 0) 0 with | (some y, s2) => s2.writable y 32 && decide (s2.grids = s.grids) | _ => false)) = true
    ∧ (!(lab.ctxDesc 0 0).testBit 496) = true
    ∧ ((gridReasons (labGrid kernel1 { launch0 with nx := 0 }) { grid0 with desc := { launch0 with nx := 0 }, kernel := kernel1 }).contains 2
      && (labGrid kernel1 launch0).writable (.dev 0x40) 32) = true
    ∧ (let s := { (labGrid kernel1 { launch0 with nx := 2 }).updGrid 1 0 (fun g => { g with started := true, nextTeam := 1 }) with teams := [] }.updPart 0 (fun p => { p with lq := [] })
    nextCand s 0 == some (.more 1) && pairOpen s 0 0 0 && !layoutPending s 0 && !needLayout s 0 0 (s.ctxDesc 0 0)
      && (placeCand s (.more 1) 0 0).isSome) = true
    ∧ (let d := { launch0 with flags := 1, lo := 0, hi := 8, chunk := 1 }
    let s := { (labGrid kernel1 d).updGrid 1 0 (fun g => { g with started := true, nextTeam := 1, offered := [(4, 8)] }) with teams := [] }.updPart 0 (fun p => { p with lq := [] })
    nextCand s 0 == some (.more 1) && pairOpen s 0 0 0 && !layoutPending s 0
      && s.grids.all (fun g => (splitOn s g 0).isSome && (rangeWork s g).isSome)) = true
    ∧ (let s := { lab with waves := [{ wave0 with quads := wave0.quads.map (fun q => { q with ended := true }), gangs := [] }] }
    teamOver s team0 && (s.gridOf team0).any (fun g => !gridOver { g with endedTeams := 5 }) && s.writable (.dev 0x40) 32) = true := by decide +kernel

/-- The wave of `lab` in a yielding wait of long ago, its team of class parallel, in a context with four save slots and a starvation limit. -/
def labYield : State :=
  { labWith (fun w => { waits (.tbwait (.dev 0x500) false 0x500) w with
      gangs := (waits (.tbwait (.dev 0x500) false 0x500) w).gangs.map (fun g => { g with yielding := true }) }) with
    gtbAdj := 50000, grids := [newGrid 1 0 0 0 launch0 { kernel0 with cls := 1 } none (.dev 0x40)]
    cores := lab.cores.set 0 { lab.core 0 with lastCtx := some 0, descs := [(0, 0x40000 * 2 ^ 64 + 4 * 2 ^ 224 + 2 ^ 240 + 2 ^ 472 + 2 ^ 532)] } }

/-- A grid of `labGrid` whose one team was saved and may come back. -/
def labSaved (cls : Nat) : State :=
  { (labGrid { kernel1 with cls := cls } launch0).updGrid 1 0 (fun g => { g with started := true, nextTeam := 1 }) with
    teams := [{ team0 with pages := [], tiles := [], scomb := 4096, res := .yielded true, saved := [{ wave0 with nvec := 8 }], saveSlot := some 0 }] }
    |>.updPart 0 (fun p => { p with lq := [] })

/-- Of `YieldEvents`. -/
theorem witness_YieldEvents_1 :
    (let s := labSaved 0
    (s.team? 1 0).any (fun t => nextCand s (s.partOf t.core) == some (.back 1 0) && concurrentOf s (s.partOf t.core) (.back 1 0) && (placeConcurrent s (s.partOf t.core) (.back 1 0)).isSome)) = true := by decide +kernel

/-- Of `YieldEvents`. -/
theorem witness_YieldEvents_2 :
    (let s := labSaved 1
    (s.team? 1 0).any (fun t => nextCand s (s.partOf t.core) == some (.back 1 0) && !concurrentOf s (s.partOf t.core) (.back 1 0) && pairOpen s (s.partOf t.core) t.ctx 0 && !layoutPending s 0 && !needLayout s 0 t.ctx (s.ctxDesc (s.partOf t.core) t.ctx) && (placeCand s (.back 1 0) (s.partOf t.core) 0).isSome)) = true := by decide +kernel

/-- Of `YieldEvents`. -/
theorem witness_YieldEvents_3 :
    (let s := labSaved 1; (s.team? 1 0).any (fun u => (s.gridOf u).any (fun g => (restoreTeam s g u 0).isSome))) = true := by decide +kernel

/-- A cluster that may yield; saved teams that come back alone and with their grid; a wave to be promoted; a starving one. -/
theorem witness_YieldEvents :
    (let s := labYield
    (s.team? 1 0).any (fun t => (s.gridOf t).any (fun g => g.cls != 0) && t.res == .resident && liveMembers s t == [t] && (s.teamWavesOf t).all (·.still) && (((yieldingOf s t).filter (fun p => decide (p.2.waitSince + yieldAfter s t ≤ s.gtb))).length == 1) && (yieldingOf s t).all (fun p => !waitsInside (clusterOf s t) p.2.wait && !waitCouldEnd s p.1 p.2) && windowsQuiet s [t] && enginesQuiet s [t] && slotsReady s (s.partOf t.core) t.ctx (s.desc t.core t.ctx) 1 && (freeSave s (s.partOf t.core) t.ctx (s.desc t.core t.ctx)).isSome)) = true
    ∧ (let s := { labWith (fun w => { w with sched := .pending }) with cyc := 4096 }
    (s.wave? key0).any (fun w => (w.readyGang s.cyc).isSome && w.sched != .active && w.overdue s.cyc)) = true
    ∧ (let s := { labYield with waves := [{ wave0 with starv := 3003 }] }
    (s.wave? key0).any (fun w => !w.section? && !w.finished && w.sched != .trapped && starvAfter (s.desc w.key.core w.ctx) (s.waveClass w) == 1 && decide (1 * 1000 < w.starv / 3) && w.async.isEmpty)) = true := by decide +kernel

/-- The wave may stop, with its group at rest and a save slot for it or not, and it is the only live one of its cluster. -/
def stopsHere (s : State) : Option (Bool × Bool) :=
  match s.wave? key0, s.team? 1 0, s.grid? 1 0 with
  | some w, some t, some _ =>
    if !canStop w then none
    else
      let s1 := s.updWave key0 (fun w => { w with preempt := .stopped })
      some ((stopGroup s1 t).all (fun u => (s1.teamWavesOf u).all (fun w => w.finished || w.preempt == .stopped)) && windowsQuiet s1 (clusterOf s1 t)
        && granulesDone s1 (liveMembers s1 t) && slotsReady s1 (s1.partOf t.core) t.ctx (s1.desc t.core t.ctx) (liveMembers s1 t).length, liveMembers s1 t == [t])
  | _, _, _ => none

/-- A period that starts, a budget that is spent; a slice with and without another context waiting; PRCTL with both actions, past its time; a wave that may stop, with and without a save slot; one that has run 2048 cycles. -/
theorem witness_PreemptionEvents :
    (let s := { (lab.updPart 0 (fun p => { p with budBase := 0x2000, budUsed := [(3, 7)] })) with gtbAdj := 5000, mem := Memory.writeNat [] 0x2030 16 (1 + 5 * 2 ^ 64) }
    SMap.wf 0 (s.part 0).budUsed && decide (s.mem.wf) && (budEntry s 0 3) % 1024 == 1
      && decide (SMap.get 0 (s.part 0).periods 3 < periodBegin s 1000)) = true
    ∧ (let s := { (lab.updPart 0 (fun p => { p with budBase := 0x2000, budUsed := [(3, 7)], periods := [(3, 5000)] })) with gtbAdj := 5000, mem := Memory.writeNat [] 0x2030 16 (1 + 5 * 2 ^ 64) }
    decide (periodBegin s 1000 ≤ SMap.get 0 (s.part 0).periods 3)
      && decide (field (budEntry s 0 3) 95 64 ≤ SMap.get 0 (s.part 0).budUsed 3)) = true
    ∧ (let s := { labYield with teams := labYield.teams ++ [{ team0 with num := 1, ctx := 1, res := .preempted false }] }
    (s.core 0).lastCtx == some 0 && decide ((s.core 0).sliceStart + 1000 ≤ s.gtb) && field (s.desc 0 0) 487 472 == 1
      && !(pairTeams s 0).isEmpty && (pairTeams s 0).all (fun t => (s.teamWavesOf t).all (fun w => w.preempt == .none))
      && otherWaits s (s.partOf 0) 0 && !otherWaits labYield (s.partOf 0) 0) = true
    ∧ (prctlStarts lab 0 (2 ^ 10) 0 && !prctlStarts lab 0 (2 ^ 10) 1 && prctlStarts lab 0 (2 ^ 10 + 2 ^ 11) 1) = true
    ∧ (let s := lab.updPart 0 (fun p => { p with prctl := 0x10000 })
    field (s.part 0).prctl.toNat 18 16 == 1 && (s.part 0).prAct == 0 && decide ((s.part 0).prDeadline ≤ s.gtb)) = true
    ∧ ([lab, labYield].map (fun s0 => stopsHere { s0 with waves := labYield.waves.map (fun w => { w with preempt := .fallback }) }) == [some (false, true), some (true, true)]) = true
    ∧ (let g := { grid0 with closing := true }
    lab.writable g.doneTarget 32 && lab.mops.isEmpty
      && !{ labMem with mops := [store0 .store true .sent] }.mops.all (fun o => o.gid != g.gid || o.elems.all (fun e => !e.phase.unapplied))) = true
    ∧ (((labWith (fun w => { w with preempt := .running 2048 [] })).wave? key0).any (fun w => w.preempt == .running 2048 [])) = true := by decide +kernel

/-- The wave of `lab` parked by a trap of this code at its PC in lane 0, with a store-fault record of its own. -/
def parkedBy (code : BitVec 8) : Wave :=
  { wave0 with trap := some { code := code, mask := 1, addr := 0, det1 := 0, det2 := 0, pc := wave0.pcOf 0 }, sched := .trapped }

def storeOp : MOp :=
  { id := 5, w := key0, gid := 1, team := 0, ctx := 0, seq := 0, iss := 0, pc := 0, scope := 2, order := 0, space := 0, kind := .store,
    checked := true, keys := [], port := none, whole := 0, byElem := false, gtb := 0, cyc := 0, table := none, elems := [] }

def labParked (code : BitVec 8) : State :=
  { (lab.updCore 0 (fun x => { x with retry := [{ op := 5, w := key0, gid := 1, team := 0, ctx := 0, bits := 0, elems := [], opInfo := storeOp, valid := true }] }))
    with waves := [parkedBy code] }

/-- A stopped BSWAP of the wave on its engine. -/
def stoppedSwap : Cmd :=
  { id := 9, w := key0, gid := 1, team := 0, ctx := 0, pc := 0, seq := 0, ntm := false, kind := .bswap, started := true, granule := 0, seen := [],
    stop := some { code := Trap.loadFault, mask := 1, addr := 0, det1 := 0, det2 := 0, pc := 0 } }

def labEngStop : State :=
  { (lab.updEng 0 (fun e => { e with cmds := [stoppedSwap] })) with waves := [{ parkedBy Trap.loadFault with engStop := some 9 }] }

def entry0 : TrapEntry :=
  { record := { code := Trap.userTrap, mask := 1, addr := 0, det1 := 0, det2 := 0, pc := 0 }, gtb := 0, team := 0, grid := 1, ctx := 0, kind := 0, place := 0,
    slot := 0 }

def lostCopy : State := lab.updChan 0 1 (fun c => { c with xfers := [{ xfer0 0 0 [] with fault := some (true, 1, 0) }] })

def lostTable : State := lab.updCore 0 (fun x => { x with tableOps := [{ tableOp0 false false with fault := some (true, 1, 0) }] })

/-- An entry with room for it and without, a report to deliver, no parked wave, a trap that refuses, a trap for each action; stopped commands, copies and table operations. -/
theorem witness_WaveCommands :
    (let s := lab.updCore 0 (fun x => { x with tqWait := [entry0] })
    decide (((s.core 0).tqTail - (s.core 0).tqHead).toNat < ringCapacity (s.core 0).tqCfg) && s.lineFree (s.core 0).tqBase.toNat
      && SMap.wf 0#64 (s.core 0).sup.csrs) = true
    ∧ (let s := lab.updCore 0 (fun x => { x with tqWait := [entry0], tqTail := 65536 })
    decide (ringCapacity (s.core 0).tqCfg ≤ ((s.core 0).tqTail - (s.core 0).tqHead).toNat)) = true
    ∧ (let s := labWith (fun w => { w with async := [{ prio := 5, next := true, record := (parkedBy 0x40).trap.getD entry0.record }] })
    (s.wave? key0).any (fun w => w.async.length == 1 && w.sched != .trapped && !w.finished && w.info.isNone && w.async.all (fun a => a.record.code != Trap.storeFault))) = true
    ∧ (selected lab 0 == key0 && (lab.wave? key0).all (fun w => w.trap.isNone)) = true
    ∧ (([1, 2, 3, 4, 6, 7, 8] : List Nat).all (fun n => !accepts Trap.machineCheck false n)) = true
    ∧ (let s := labParked Trap.storeFault
    (s.wave? (selected s 0)).any (fun w => w.trap.any (fun r => [1, 2, 3, 4, 5].all (fun n => accepts r.code w.engStop.isSome n) && decide (w.quads.length ≤ 24)) && (s.team? w.grid w.team).any (fun u => !u.terminated && u.res != .ended))) = true
    ∧ (accepts Trap.loadFault false 2 && !(parkedBy Trap.loadFault).fetchFault) = true
    ∧ (let s := labEngStop
    (s.wave? (selected s 0)).any (fun w => w.engStop == some 9 && (stoppedCmd s (s.engineCore w) 9).isSome && decide (s.engineCore w < s.cores.length) && [6, 7, 8].all (fun n => accepts Trap.loadFault true n))
      && s.teams.all (fun t => t.savedCmds.isEmpty)) = true
    ∧ ((abandonedXfer lostCopy 0 1 key0).isSome && (abandonedTable lostTable 0 key0).isSome) = true := by decide +kernel

def labTeamEvent (e : TeamEvent) : State := { labEngStop with teams := [{ team0 with events := [e] }] }

/-- The two kinds of team event, none, a parked wave and a running one, TINV with DONE 1 and 0. -/
theorem witness_TeamCommands :
    (let s := { labParked Trap.storeFault with teams := [{ team0 with events := [{ core := 0, code := Trap.storeFault, cmd := none, w := key0 }] }] }
    (s.team? (gridHandle (s.partOf 0) 1) 0).any (fun t => t.res != .ended && ofCore t 0 && !t.terminated && (t.events.find? (fun e => e.code == Trap.storeFault && e.cmd.isNone)).any (fun e => decide (e.core < s.cores.length)))) = true
    ∧ (let s := labTeamEvent { core := 0, code := Trap.loadFault, cmd := some 9, w := key0 }
    (s.team? (gridHandle (s.partOf 0) 1) 0).any (fun t => t.res != .ended && ofCore t 0 && (t.events.find? (fun e => e.code == Trap.storeFault && e.cmd.isNone)).isNone && (t.events.find? (fun e => e.cmd.isSome)).any (fun e => e.cmd == some 9) && (stoppedCmd s t.core 9).isSome)) = true
    ∧ (let s := labParked Trap.loadFault
    (s.wave? (selected s 0)).any (fun w => w.trap.isSome && SMap.wf 0#32 w.sregs && SMap.wf 0#32 w.lc && SMap.wf 0#32 w.amax && w.stale.isEmpty)) = true
    ∧ ((lab.core 0).tinv.getLsbD 17 && SMap.wf 0#32 (lab.part (lab.partOf 0)).pasid && lab.cores.length == 192) = true
    ∧ (let s := lab.updCore 0 (fun x => { x with tinv := 0 }); !(s.core 0).tinv.getLsbD 17 && drained s 0 (s.core 0).tinvBound [0]) = true := by decide +kernel

theorem witness_RegisterEvents :
    (lab.parts.length == 4 && lab.cores.length == 192 && SMap.wf 0 (lab.part (lab.partOf 191)).mwinReg && !partIdle lab 0 && partIdle { lab with teams := [] } 0
      && decide (lab.root.boot < 6) && decide (6 ≤ ({ lab with root := { lab.root with boot := 6 } } : State).root.boot)) = true
    ∧ ((match regPlace 0x1000 with | .memory a => a == 0x1000 | _ => false) && decide (lab.mem.wf)
      && (let s := lab.updPart 0 (fun p => { p with mwin := [(0, BitVec.ofNat 128 (2 ^ 46))] }); s.inWindow (s.partOf 0) 0x1000 && s.writable (.dev 0x1000) 8)
      && !lab.inWindow (lab.partOf 0) 0x1000) = true
    ∧ (let s := { lab with ports := lab.ports.map (fun p => { p with up := true }), root := { lab.root with boot := 3 } }
    functionPart s.root.mode 1 0 == some 0 && portAnswers s 1 && SMap.wf 0 (s.part 0).pasidReg
      && functionPart s.root.mode 1 3 == none) = true := by decide +kernel

/-- Both host ports up with CXL in state 3, a window on the whole HBM, two regions (of device memory, and of host memory that the device holds), a snoop, translations asked for. -/
def region0 (dev : Bool) (st : Nat) : BitVec 128 := BitVec.ofNat 128 (st + 12 * 4 + 0x100000 + 2 ^ 64 + (if dev then 2 ^ 67 else 0))

def ats0 (page : Nat) (pri : Bool) : AtsReq := { ctx := 0, core := 0, page := page, write := false, pageRequest := pri, refused := false, since := 0, waiters := [] }

def labHost : State :=
  { (lab.updPart 0 (fun p => { p with mwin := [(0, BitVec.ofNat 128 (2 ^ 46))], rgn := [(0, region0 true 1), (1, region0 false 0)], pasid := [(0, 0x80000000#32)] })) with
    ports := lab.ports.map (fun p => { p with up := true, cxlCache := true, reqs := [ats0 1 false, ats0 2 true], invals := [{ loads := [], stores := [] }] })
    root := { lab.root with boot := 3 }
    cores := lab.cores.set 0 { lab.core 0 with tqTail := 65536 }
    snoops := [{ part := 0, addr := 0x2000, own := false }] }

/-- The lease free, held and run out; regions at rest, busy and on the move; a snoop; device and host memory; requests of each kind. -/
theorem witness_HostPortEvents :
    (labHost.root.mode == 0 && !labHost.lease.held) = true
    ∧ (let s := { labHost with lease := { labHost.lease with held := true, hlexp := 5 } }
    decide (s.gtb < s.lease.hlexp) && s.lease.active == 0 && (s.port 1).up) = true
    ∧ (let s := { labHost with lease := { labHost.lease with held := true } }
    s.lease.held && !s.lease.expired && decide (s.lease.hlexp ≤ s.gtb) && (s.port (1 - s.lease.active)).up && !((lab.port 1).up)) = true
    ∧ (let e := regionEntry labHost 0 0
    e.getLsbD 64 && !e.getLsbD 66 && e.getLsbD 67 && SMap.wf 0 (labHost.part 0).rgn && SMap.wf 0 (labHost.part 0).rgnNew
      && (labHost.port (msixPort labHost 0)).cxlCache && decide (contestedCount labHost 0 < 256)) = true
    ∧ (let s := beginMove labHost 0 0 3
    (regionEntry s 0 0).getLsbD 66 && movingTo s 0 0 == some 3 && s.eDev.isEmpty && s.eFab.isEmpty && s.mops.isEmpty) = true
    ∧ (labHost.snoops.any (fun x => x.addr == 0x2000)
      && (portsOf labHost 0).all (fun p => decide (SMap.get 0 labHost.eDev (Target.host p 0x2000).leaseKey ≤ labHost.gtb))
      && (regionAt labHost 0 (.host 0 0x2000)).isNone) = true
    ∧ (functionPart labHost.root.mode 1 0 == some 0 && portAnswers labHost 1 && !hostRefused labHost 1 0 0x4000 8
      && (sharedRegion labHost 0 (.dev 0x4000)).isNone && labHost.writable (.dev 0x4000) 8 && decide (labHost.mem.wf)
      && (List.range 8).all (fun i => labHost.inWindow 0 (0x4000 + i))) = true
    ∧ ((regionAt labHost 0 (.host 1 0x2000)).isNone && decide (labHost.hostMem.wf)
      && (regionAt labHost 0 (.host 1 0x100000)) == some (1, 0)) = true
    ∧ (labHost.mops.isEmpty && !waiterDue labHost (ats0 2 true) && waiterDue labHost { ats0 2 true with waiters := [(key0, 0)] }) = true
    ∧ ((atsReq? labHost 1 0 1 false).any (fun r => decide (r.core < labHost.cores.length)) && (atsReq? labHost 1 0 2 true).isSome
      && (SMap.get 0#32 (labHost.part 0).pasid 0).getLsbD 31
      && decide (ringCapacity (labHost.core 0).tqCfg ≤ ((labHost.core 0).tqTail - (labHost.core 0).tqHead).toNat)
      && (labHost.port 1).invals.any (invalOver labHost)) = true := by decide +kernel

def err0 (kind : Nat) : ErrRecord :=
  { kind := kind, die := 0, unit := 0, index := 0, bank := 0, paddr := 0, synd := 0, ctx := 0, count := 1, egtb := 0 }

/-- A core in service and one that may come back; an error ring with room and one without, and a record that has waited a second. -/
theorem witness_ErrorEvents :
    (lab.cores.length == 192 && decide ((lab.waves.map (·.key)).Nodup) && lab.waves.all (fun w => w.key.core == 0 && !w.finished)) = true
    ∧ (let s := lab.updCore 5 (fun x => { x with oos := true, lost := [3] })
    (s.core 5).oos && (s.core 5).lost == [3] && s.waves.all (fun w => w.key.core != 5)) = true
    ∧ (lab.ports.length == 2 && decide (errUsed (lab.port 1) < ringCapacity (lab.port 1).errCfg) && (lab.port 1).errWait.isEmpty
      && !(lab.port 1).errCfg.getLsbD 4) = true
    ∧ (let s : State := { lab with gtbAdj := 1000000000, ports := lab.ports.map (fun (p : HostPort) => { p with errTail := 65536, errWait := [(err0 2, 0)] }) }
    decide (ringCapacity (s.port 1).errCfg ≤ errUsed (s.port 1)) && (s.port 1).errLost != BitVec.allOnes 32
      && decide (0 + 1000000000 ≤ s.gtb) && (s.port 1).errRing.isEmpty) = true
    ∧ (let d : ErrDue := { record := err0 2, part := some 0, told := [] }
    let s := { lab with root := { lab.root with errs := [d] } }
    s.root.errs.find? (fun d => d.record == err0 2) == some d && d.ripe s && (d.ports s).contains 1 && !d.told.contains 1 && lab.root.errs.isEmpty
      && !{ d with record := err0 1 }.ripe s) = true
    ∧ (decide (3 ≤ labHost.root.boot) && labHost.root.boot != 15) = true := by decide +kernel

/-- Port 0 of a clique of two, up, with a key in slot 0 of each direction. -/
def link0 : Link :=
  { Link.reset with up := true, ctl := 1, tx0 := { KeySlot.reset with valid := true }, rx0 := { KeySlot.reset with valid := true } }

def labLink (l : Link) : State := { lab with fabric := { lab.fabric with rank := 1, clique := 2, links := List.replicate 15 Link.reset |>.set 14 l } }

def flit0 (ty : BitVec 4) (lseq : BitVec 16) : Flit :=
  { tag := 0, payload := [], rsvA := 1, lseq := lseq, ty := ty, dst := 0, src := 0, rsvB := 0, ks := false, ic := 0 }

/-- A connection whose window is full. -/
def conn0 : Conn :=
  { ctx := 5, peer := 0, cls := 1, txSeq := 256, rxSeq := 0, window := (List.range 256).map (fun i => ⟨BitVec.ofNat 32 i, [], some (14, BitVec.ofNat 16 i)⟩),
    early := [], delivered := [] }

/-- A link that may send; flits that are not authentic (those that are: witness_flits), at each count of failures; the reference on a port, heard lately and not; a link to come up; keys in use and not. -/
theorem witness_FabricEvents :
    (let s := labLink link0
    s.fabric.links.length == 15 && canSend s 14 true && canSend s 14 false
      && decide (((s.link 14).tx (s.link 14).txSlot).ic + 2 ^ 16 + 1 < 2 ^ 48) && waitingAt s 14 == none && classMay s 0 5 1
      && s.actEntry 2 1 0 == none) = true
    ∧ (let s := (labLink link0).setConn conn0; decide (256 ≤ (s.conn 5 0 1).window.length) && waitingAt s 14 == none) = true
    ∧ (let s := (labLink link0).setConn { conn0 with window := [⟨7, [], none⟩] }
    (match waitingAt s 14 with | some (.again _ u) => u.seq == 7 | _ => false)) = true
    ∧ (let s := labLink link0
    let s := { s with fabric := { s.fabric with transit := [⟨2, 0, 1, []⟩] } }
    waitingAt s 14 == some (.relayed ⟨2, 0, 1, []⟩)) = true
    ∧ ([0, 1, 2].all (fun n => let s := labLink { link0 with fails := n, tx0 := KeySlot.reset }; (s.link 14).up && !authentic (s.link 14) (flit0 1 7) && !authentic (s.link 14) (flit0 15 7) && !(s.link 14).discarding && !canSend s 14 false)) = true
    ∧ (let s := labLink link0
    referenceRank s == 0 && referenceRank s != s.fabric.rank && referencePort s == 14 && (s.link 14).up && !timeLost s
      && timeLost { s with gtbAdj := 10001 }) = true
    ∧ (let s := { labLink link0 with gtbAdj := 10000 }
    decide (s.fabric.lastTime + 1000 ≤ s.gtb) && !timeLost s && decide (s.fabric.goodSince + 10000 ≤ s.gtb)) = true
    ∧ (let s := labLink { link0 with up := false }
    portWired s 14 && (s.link 14).ctl == 1 && !(s.link 14).exhausted && !(s.link 14).up
      && !linksTrain s && linksTrain { s with root := { s.root with boot := 3 } }) = true
    ∧ (let s := { labLink link0 with root := { lab.root with srgn := [(2, BitVec.ofNat 128 (2 ^ 71 + 2 ^ 70 + 12 * 2 ^ 64 + 0x5000))] } }
    peerRefused s false 0x5FFF && !peerRefused s true 0x5FFF && !peerRefused s false 0x6000) = true
    ∧ (let s := labLink link0
    (s.link 14).txSlot == false && ((s.link 14).tx false).valid && ((s.link 14).rx false).valid
      && decide (((s.link 14).tx false).ic < markerIc)) = true
    ∧ (!((labLink { link0 with tx0 := KeySlot.reset, rx0 := KeySlot.reset }).link 14 |>.tx false).valid) = true := by decide +kernel

theorem witness_BringUpEvents :
    ([0, 1, 2, 3, 4, 5, 6].all (fun n => let s := { lab with root := { lab.root with boot := n, verified := true } }; s.root.boot == n && s.parts.length == 4 && s.root.mode == 0)
      && !lab.root.verified) = true
    ∧ (pairsKept lab [3] && !pairsKept lab (List.range 192)) = true
    ∧ (linksReady lab ⟨0, 1, 0, [], []⟩ && !linksReady lab ⟨1, 2, 0, [14], [0]⟩) = true := by decide +kernel

theorem witness_NoActiveLane :
    (let s := labWith (fun w => { w with quads := w.quads.map (fun q => { q with mask := 0 }) })
    [0x7000002C_18000000_00003000, 0x08800000_00000000_00000100, 0x90800000_00000000_00000100, 0xA5000000_00000000_00000001].any (fun w => runs s (BitVec.ofNat 96 w) (fun _ (x : Issued) => x.c.lanes.isEmpty))) = true := by decide +kernel

theorem witness_EncodingRoundTrip :
    (let i := Instr.ffma ⟨4, false, 2, true, 10⟩ ⟨⟨4, 0, 0⟩, ⟨6, 2, 0⟩, ⟨8, 0, 0⟩, ⟨1, 0, false, false, false, false, false, 0⟩⟩
    i.wf && (encode i).isSome) = true
    ∧ ((match decodeWord (wordA 0x01F 0 0 0 0 0) with | .ok _ => false | .error _ => true)) = true := by decide +kernel

/-- NOP at the first place of a program; an event; and a store that is due. -/
theorem witness_StepRunsTheDecodedInstruction :
    (let s := State.reset.withFetchWord 96 0
    (match s.agenda with | [a] => (match a.move with | .issue k q => (let s0 := { s.advance a.cycles with agenda := [] }; (dueEvent { s0 with agenda := [{ a with cycles := 0 }] }).isNone && (s0.wave? k).any (fun w => (w.gangOf q).any (fun g => w.turn s0 g) && w.async.isEmpty && w.sched == .active && pcFormed (w.pcOf q).toNat && (match fetchLine s0 k.core w.ctx (Pc.line (w.pcOf q)) with | (.line l, s2) => !lineBad l && w.cntIss == 0 && (entryPc s0 w != some (w.pcOf q).toNat || lineTgt l (Pc.slot (w.pcOf q))) && (decodeWord (lineSlot l (Pc.slot (w.pcOf q)))).toOption.any (fun (i : Instr) => decide (encode i = some 0)) && decide (s2.waves = s.waves) | _ => false))) | _ => false) | _ => false)) = true
    ∧ (let s := { lab with agenda := [⟨3, .event .deviceReset⟩] }
    s.agenda == [⟨3, .event .deviceReset⟩] && (dueEvent { s.advance 3 with agenda := [⟨0, .event .deviceReset⟩] }).isNone) = true
    ∧ (dueEvent ({ labMem with mops := [store0 .store true (.arrived 0 0)] }.advance 3)).isSome = true := by decide +kernel

theorem witness_StepsKeepTheSchedule :
    ((match step { lab with agenda := [⟨3, .event .deviceReset⟩] } with | .next t => t.waves.isEmpty | _ => false)) = true := by decide +kernel


/-- For a link up with a key in its receive slot there is an authentic flit, whatever the key's tags are: in order, behind what was
delivered, beyond a gap, and a marker. -/
theorem witness_flits : ∀ n ∈ ([0, 0xFFFF, 5] : List (BitVec 16)), ∀ ty ∈ ([1, 2, 3, 4, 5] : List (BitVec 4)),
    ∃ f : Flit, authentic link0 f = true ∧ f.ty = ty ∧ f.lseq = n := by
  intro n _ ty h
  let tag := Config.gcmTag (link0.rx false).key (nonceOf (link0.rx false) 0) (headerBits 0 n ty 0 0 0 false 0) []
  refine ⟨{ flit0 ty n with rsvA := 0, tag := tag }, ?_, rfl, rfl⟩
  simp only [List.mem_cons, List.not_mem_nil, or_false] at h
  rcases h with rfl | rfl | rfl | rfl | rfl <;> simp [tag, authentic, flit0, link0, Link.rx, KeySlot.reset, Link.reset]

/-- A flit for this device whose connection has no place, in a device whose 1024 places are taken and that has no spill area; and one that has. -/
theorem witness_places : ∀ f : Flit, f.dst = 1 → f.src = 0 →
    connFull { labLink link0 with fabric := { (labLink link0).fabric with conns := List.replicate 1024 { conn0 with peer := 5 } } } link0 f = true
    ∧ connFull (labLink link0) link0 f = false := by
  have hr : (labLink link0).fabric.rank = 1 ∧ (labLink link0).fabric.spill = 0 ∧ (labLink link0).fabric.conns = [] := by decide +kernel
  have hl : (List.replicate 1024 { conn0 with peer := 5 }).length = 1024 := List.length_replicate
  have hp : ∀ c ∈ List.replicate 1024 { conn0 with peer := 5 }, c.peer = 5 := by
    intro c h
    rw [List.eq_of_mem_replicate h]
  intro f hd hs
  generalize labLink link0 = s at hr
  generalize List.replicate 1024 { conn0 with peer := 5 } = l at hl hp
  obtain ⟨h1, h2, h3⟩ := hr
  constructor
  · simp only [connFull, connRoom, ownRank, hd, hs, h1, h2, hl, Conn.is, Bool.and_eq_true, Bool.not_eq_true', Bool.or_eq_false_iff]
    refine ⟨rfl, List.any_eq_false.mpr fun c h => ?_, rfl⟩
    simp [hp c h]
  · simp [connFull, connRoom, ownRank, hd, h1, h2, h3]

/-- The places of four bytes of each memory, up to the last of them. -/
theorem witness_MemoryLaws : lab.memOk ∧ ∀ t ∈ ([.dev 0xFFFFFFF0, .host 1 (2 ^ 64 - 4), .peer 3 0x2000, .comb 191 0x100] : List Target),
    ∀ i < 4, (t.plus i).isByte lab := by
  refine ⟨by unfold State.memOk; decide +kernel, ?_⟩
  intro t ht i hi
  simp only [List.mem_cons, List.not_mem_nil, or_false] at ht
  rcases ht with rfl | rfl | rfl | rfl <;> simp only [Target.plus, Target.isByte]
  · omega
  · omega
  · have h : lab.cores.length = 192 := by decide +kernel
    omega

/-! ## Further clauses of the statements, each with a state that meets its hypotheses -/

/-- An amax update of register 0 under way. -/
def labAmax : State := labWith (fun w => { w with pend := [{ writes := [], flags := 0, amax := [(0, 5)], keys := [], push := none }] })

/-- A secure region of the given page. -/
def secured (s : State) (a : Nat) : State := { s with root := { s.root with srgn := [(2, BitVec.ofNat 128 (2 ^ 71 + 2 ^ 70 + 12 * 2 ^ 64 + a))] } }

/-- The special values of a wave with a grid, of a range grid and of a section; AMAXRD and AMAXCLR with an update under way. -/
theorem witness_SpecialRegisters_2 :
    (wave0.info.isNone && (lab.grid? 1 (lab.partOf 0)).any (fun g => g.desc.flags % 2 == 0) && (lab.team? 1 0).isSome) = true
    ∧ (({ lab with grids := [newGrid 1 0 0 0 { launch0 with flags := 1 } kernel0 none (.dev 0x40)] } : State).grid? 1 0 |>.any (fun g => g.desc.flags % 2 == 1)) = true
    ∧ (labSection.waves.all (fun w => w.info.isSome)) = true
    ∧ (runs labAmax (wordA 0x099 2 0 0 0 0) (fun _ x => !x.c.lanes.isEmpty && amaxPending x.c.w (fun i => i == 0))) = true
    ∧ (runs labAmax (wordA 0x09A 0 0 0 0 0xF) (fun _ x => !x.c.lanes.isEmpty && amaxPending x.c.w (fun i => (0xF#32).getLsbD i))) = true := by decide +kernel

/-- A NaN, both infinities, zero, a negative number, one without an exact square root and one with. -/
theorem witness_FloatArithmetic_2 :
    (([0x7FC00000, 0x7F800000, 0xFF800000, 0, 0xBF800000, 0x40490FDB, 0x40800000] : List Nat).map (fun b => match decodeFloat 1 b with | .nan _ => 0 | .inf s => if s then 1 else 2 | .fin s n _ => if n = 0 then 3 else if s then 4 else 5)
      == [0, 2, 1, 3, 4, 5, 5]) = true := by decide +kernel

/-- Groups of I4x with the shared scale in slot 0, in slot 3 and nowhere; values inside the plain range and outside. -/
theorem witness_Conversions_2 :
    (([(0x0008, 0), (0x8123, 3)] : List (Nat × Nat)).all (fun p => p.1 / 16 ^ p.2 % 16 == 8 && (List.range p.2).all (fun i => p.1 / 16 ^ i % 16 != 8))) = true
    ∧ ((List.range 4).all (fun i => 0x1111 / 16 ^ i % 16 != 8)) = true
    ∧ (([3, -1, 7, 0] : List Int).all (fun n => (roundedOf 0 (.ofInt n)).1 == n && decide (-7 ≤ n ∧ n ≤ 7))) = true
    ∧ (!decide ((roundedOf 0 (.fin false 9 1)).1 ≤ 7)) = true := by decide +kernel

/-- A factor of order 1 that exists, and one whose pivot fails. -/
theorem witness_SmallMatrices_2 :
    ((mxChol ⟨1, 0⟩ 1 [0x40800000] .posZero).failed == false && (mxChol ⟨1, 0⟩ 1 [0] .posZero).failed
      && pivotFails (decodeFloat 1 0) (decodeFloat 1 0) && !pivotFails (decodeFloat 1 0x40800000) (decodeFloat 1 0)) = true := by decide +kernel

/-- A target that is good, one in a slot with no target mark, one that is not mapped, one in poisoned code, one in a secure region; a full stack. -/
theorem witness_Branches_2 :
    (([(codeMem, 0x10000), (codeMem, 0x10001), (codeMem, 2 ^ 40), ({ codeMem with poison := [.memory (0x10000 / 32)] }, 0x10000), (secured codeMem 0x10000, 0x10000)].map
      (fun (p : State × Nat) => match (checkTarget p.1 0 0 p.2).1 with | .ok => 0 | .bad => 1 | .fault _ => 2 | .poisoned => 3 | .secure _ => 4)) == [0, 1, 2, 3, 4]) = true
    ∧ (runs { codeMem with waves := codeMem.waves.map (fun w => { w with quads := w.quads.map (fun q => { q with stack := List.replicate 8 (5, 1) }) }) }
      (wordA 0x002 0 0 0 0 0) (fun _ x => match branchAll x.c.w x.c.pc x.c.live x.c.lanes (fun _ => 0x10000) (some 0x10000) (x.c.g.quads.filter x.c.w.quadLive) with | .error d => d == 0 | _ => false)) = true := by decide +kernel

/-- The wave of `lab` with these gangs. -/
def gangsOf (l : List (List Nat × Wait)) (w : Wave) : Wave :=
  { w with gangs := l.flatMap (fun p => w.gangs.head?.toList.map (fun g => { g with quads := p.1, wait := p.2 })) }

/-- Two gangs, one of them at the end of a loop's body; a body that two loops share. -/
theorem witness_HardwareLoops_2 :
    (runs (labWith (fun w => { gangsOf [([0, 1], .none), ([2, 3, 4, 5, 6, 7], .none)] w with levels := [(0x10000, w.pcOf 0)] })) nopW
      (fun _ x => (x.s.wave? x.c.k).any (fun w => splitB w x.c.pc && !(x.c.g.quads.filter w.quadLive).isEmpty && !w.section?))) = true
    ∧ ((loopEnd 5 [(1, 5), (0, 5), (0, 9)] [(1, 2), (2, 1)]).1 == [(0, 5), (0, 9)]) = true := by decide +kernel

/-- The waits that end by themselves, with and without what they wait for. -/
theorem witness_Barriers_2 :
    (([waits (.waitb 3) wave0, { waits (.waitb 3) wave0 with batches := [(2, [7])] }, waits (.launch (.dev 0x4000) 0x4000) wave0, waits (.barrier 0 0) wave0,
      waits (.ship 7) wave0, waits (.tbwait (.dev 0x4000) true 0x4000) wave0, waits (.tbwait (.dev 0x4000) false 0x4000) wave0].map
      (fun w => w.gangs.map (fun g => (waitDone { labMem with waves := [w] } w g, g.wait.named)))) ==
        [[(true, none)], [(false, none)], [(false, none)], [(true, none)], [(true, none)], [(true, none)], [(false, none)]]) = true
    ∧ (let w : Wave := gangsOf [([0, 1], .regang 0xF), ([2, 3], .none), ([4, 5, 6, 7], .none)] wave0; w.namedLive 0xF == [0, 1, 2, 3]
      && ([0, 1, 2, 3] : List Nat).any (fun q => !(w.gangOf q).any (fun g => g.wait == .regang 0xF))) = true
    ∧ (let w := gangsOf [([0, 1], .regang 0xF), ([2, 3], .regang 0xF), ([4, 5, 6, 7], .none)] wave0
      [0, 1, 2, 3].all (fun q => (w.gangOf q).any (fun g => g.wait == .regang 0xF) && w.pcOf q == w.pcOf 0)
        && !splitB (w.regroup (w.namedLive 0xF)) (w.pcOf 0)) = true
    ∧ (let w : Wave := { gangsOf [([0, 1], .regang 0xF), ([2, 3], .regang 0xF), ([4, 5, 6, 7], .none)] wave0 with
        quads := wave0.quads.zipIdx.map (fun (p : Quad × Nat) => if p.2 = 2 ∨ p.2 = 3 then { p.1 with pc := 0x10040 } else p.1) }
      [0, 1, 2, 3].all (fun q => (w.gangOf q).any (fun g => g.wait == .regang 0xF)) && w.pcOf 0 != w.pcOf 2) = true := by decide +kernel

/-- A descriptor with this DONE at 0x4000. -/
def launchAt (d : Nat) : State := { labMem with mem := labMem.mem.writeNat 0x4000 64 (d * 2 ^ 256), waves := [at4 0x4000 wave0] }

/-- As `launchAt`, with the launch queue full and an overflow ring of two entries. -/
def fullLq : State :=
  (launchAt 0x40).updPart 0 (fun p => { p with lq := List.replicate 1024 { gid := 1, prio := 0 }, lqCfg := 1 })

/-- What LAUNCH reads of its descriptor at 0x4000. -/
def launchReads (s : State) (p : Issued → State → Nat → Bool) : Bool :=
  runs s (wordA 0x011 2 0x0400 0 0 0x100) (fun _ x => !x.c.lanes.isEmpty && (match oneAccess x.c .load 0 64 (x.c.src 0 true ⟨4, 0, 0⟩ true 0) 64 x.s with
    | .at_ t s0 => (readOne x.c t 64 s0).toOption.any (fun v => p x s0 (descOf v).done)
    | _ => false))

/-- The queue full with room in its ring; DONE misaligned and not mapped; an earlier store not yet fenced; TKNEXT with no lane and in the cycle of a split. -/
theorem witness_Launches_2 :
    (launchReads fullLq (fun x s0 d => fenceReady x.s x.c.w 4 x.c.w.opSeq && (match donePlace x.c d s0 with | .at_ t s1 => s1.writable t 32 && !walkerBusy s1 x.c.w.ctx && (let q := s1.part 0; decide (1024 ≤ q.lq.length) && decide (q.ring.length < q.ringCap) && q.ringSlot.all s1.lineFree) | _ => false))) = true
    ∧ (launchReads (launchAt 0x41) (fun _ _ d => decide (d % 32 ≠ 0))) = true
    ∧ (launchReads (launchAt (2 ^ 40)) (fun x s0 d => d % 32 == 0 && (match translateG s0 x.c.core x.c.w.ctx .store false d with | (.fault _, _) => true | _ => false))) = true
    ∧ (runs { launchAt 0x40 with waves := [{ at4 0x4000 wave0 with wct := [(4, 9)] }] } (wordA 0x011 2 0x0400 0 0 0x100) (fun _ x => !x.c.lanes.isEmpty && !x.c.g.released && !fenceReady x.s x.c.w 4 x.c.w.opSeq)) = true
    ∧ (runs { labWith (fun w => { w with quads := w.quads.map (fun q => { q with mask := 0 }) }) with teams := [{ team0 with hi := 5 }] } (wordA 0x012 4 0 0x0200 0 0x020) (fun _ x => x.c.lanes.isEmpty && (x.s.waveTeam x.c.w).any (fun t => decide (t.lo < t.hi)))) = true
    ∧ (runs { lab with teams := [{ team0 with hi := 5, splitAt := some 0 }] } (wordA 0x012 4 0 0x0200 0 0x020) (fun _ x => !x.c.lanes.isEmpty && (x.s.waveTeam x.c.w).any (fun t => decide (t.lo < t.hi) && t.splitAt == some x.s.cyc))) = true := by decide +kernel

/-- A QTRY of all lanes on port q0, with the header and the room of its queue. -/
def qtryMeets (s : State) (v : InstrWord) (p : Issued → QHead → Nat → Bool) : Bool :=
  runs s v (fun i x => match i with
    | .qtry _ f => !x.c.lanes.isEmpty && (x.c.w.portQueue f.sa.reg.toNat).any (fun q =>
        (readQueue x.s q).any (fun v => queueScopeOk x.s x.c.w q v.scope && p x v (roomOf x.s q v)))
    | _ => false)

/-- The FIFO of `labFifo` with `n` elements. -/
def labFifoOf (n : Nat) : State :=
  { labFifo with cores := labFifo.cores.set 0 { labFifo.core 0 with fifos := (labFifo.core 0).fifos.map (fun f => { f with elems := List.replicate n 7, tail := n }) } }

/-- QTRY that waits: too few elements, enough of them, no room, room; an earlier acquire, a party that may not wait, poisoned elements, a fence to wait for. -/
theorem witness_PortsAndTries_2 :
    (qtryMeets labFifo (wordA 0x0EF 2 0xF000 0 0 2) (fun x v _ => decide (v.count < x.c.lanes.length) && (judge x.s x.c.w false v.prec).isNone && !orderHeld x.s x.c.k x.c.seq && (queuePoison x.s x.c.k.core (.fifo 0 5) x.c.lanes.length).isNone)) = true
    ∧ (qtryMeets (labFifoOf 40) (wordA 0x0EF 2 0xF000 0 0 2) (fun x v _ => decide (x.c.lanes.length ≤ v.count))) = true
    ∧ (qtryMeets (labFifoOf 8190) (wordA 0x0EF 0 0xF000 0 0x0400 3) (fun x v r => decide (r < x.c.lanes.length) && (judge x.s x.c.w false v.crec).isNone && (queuePoison x.s x.c.k.core (.fifo 0 5) 0).isNone)) = true
    ∧ (qtryMeets labFifo (wordA 0x0EF 0 0xF000 0 0x0400 3) (fun x v r => decide (x.c.lanes.length ≤ r) && fenceReady x.s x.c.w (actScope (QueueRef.space (.fifo 0 5)) v.scope) x.c.seq)) = true
    ∧ (qtryMeets { labFifo with waves := labFifo.waves.map (fun w => { w with wct := [(1, 9), (4, 9)] }) } (wordA 0x0EF 0 0xF000 0 0x0400 3) (fun x v _ => !fenceReady x.s x.c.w (actScope (QueueRef.space (.fifo 0 5)) v.scope) x.c.seq && !x.c.g.released)) = true
    ∧ (qtryMeets { labFifo with waves := labFifo.waves.map (fun w => { w with opSeq := 1 }), loads := [{ load0 with acquire := true, keys := [] }] } (wordA 0x0EF 2 0xF000 0 0 2) (fun x _ _ => orderHeld x.s x.c.k x.c.seq)) = true
    ∧ (qtryMeets { labFifo with grids := [{ grid0 with cls := 2 }], teams := [{ team0 with seq := 5 }] } (wordA 0x0EF 2 0xF000 0 0 2) (fun x v _ => (judge x.s x.c.w false v.prec).isSome)) = true
    ∧ (qtryMeets { labFifo with poison := [.scratchpad 0 (5 * 1024)] } (wordA 0x0EF 2 0xF000 0 0 2) (fun x _ _ => queuePoison x.s x.c.k.core (.fifo 0 5) x.c.lanes.length == some 4)) = true := by decide +kernel

/-- A change that is granted and one that is refused; one whose time has come. -/
theorem witness_BankModes_2 :
    (bankReason lab 0 5 1 true == 0 && bankReason lab 0 5 1 false != 0 && lab.bankMode 0 5 == 0) = true
    ∧ (let s := { (lab.updCore 0 (fun c => { c with changes := [{ bank := 5, mode := 1, taken := 0, ready := 512 }] })) with cyc := 600 }
      ((s.core 0).changes.find? (fun x => x.bank == 5)).any (fun b => decide (b.taken < s.cyc) && decide (b.ready ≤ s.cyc)) && !wayBusy s 0 5 (fun _ => true)
        && SMap.wf 0 (s.core 0).modes && (s.core 0).comb.wf) = true := by decide +kernel

/-- As `labTable`, with a format of its elements and the wave changed. -/
def labRows (f : Wave → Wave) (fmt : Nat) : State := { labTable with mem := labTable.mem.writeNat 0x3018 1 fmt, waves := [f (at4 0x4000 wave0)] }

/-- Every lane's row out of range; SCATTER.add of a format that adds and of one that does not; a predicate asked for; the counter's line free and not. -/
theorem witness_TableInstructions_2 :
    (runs (labRows (fun w => { w with vregs := (List.range 32).map (fun l => (vkey 8 l, 64#32)) }) 9) (wordA 0x12C 4 0x0600 0x0800 0 0x10100) (fun i x => match i with | .gather _ f => (useHandle x.s x.c (handleOf x.c f.sa)).toOption.any (fun d => (droppedLanes (laneRows x.c f d)).length == 32 && (keptRows (laneRows x.c f d)).isEmpty && x.s.writable (.dev (d.at_ + 40)) 8) | _ => false)) = true
    ∧ ([9, 20].map (fun fmt => runs (labRows id fmt) (wordA 0x12D 0 0x0600 0x0800 0x0A00 0x10104) (fun i x => match i with | .scatter _ f => f.m.sub3.getLsbD 2 && (useHandle x.s x.c (handleOf x.c f.sa)).toOption.any (fun d => d.rowBytes == 8 && addFmt d.fmt) | _ => false)) == [true, false]) = true
    ∧ (([wordA 0x12C 4 0x0600 0x0800 0x0300 0x10102, wordA 0x12D 3 0x0600 0x0800 0x0A00 0x10102] : List InstrWord).all (fun v => runs (labRows id 9) v (fun i x => match i with | .gather _ f => f.m.sub3.getLsbD 1 && f.sc.reg != 0 && !x.c.lanes.isEmpty | .scatter h f => f.m.sub3.getLsbD 1 && h.dst != 0 && !x.c.lanes.isEmpty | _ => false))) = true
    ∧ (!({ labTable with mops := [{ store0 .store true (.arrived 0 0) with elems := (store0 .store true (.arrived 0 0)).elems.map (fun e => { e with target := some (.dev 0x3028) }) }] } : State).writable (.dev 0x3028) 8) = true := by decide +kernel

/-- What IORD finds when it has read its descriptors. -/
def iordMeets (s : State) (p : Issued → State → Bool) : Bool :=
  runs s (wordA 0x12F 0 0x0400 0 0 0x100) (fun i x => match i with
    | .iord _ f => (x.reached .load 0 64 (x.c.lanes.map (fun l => { lane := l, va := x.c.src 0 f.m.sa f.sa true l, size := 64 }))).any
        (fun (r : List (Acc × Target × Nat) × State) => p x r.2)
    | _ => false)

/-- Nothing before it, an unchecked store, an acquire; the lock table full. -/
theorem witness_IoInstructions_2 :
    (iordMeets (labIo 0 1) (fun x t => !orderHeld t x.c.k x.c.seq && t.mops.isEmpty)) = true
    ∧ (iordMeets { labIo 0 1 with mops := [{ store0 .store false .unchecked with elems := [] }] } (fun x t => t.mops.any (fun o => o.w == x.c.k && !o.checked))) = true
    ∧ (iordMeets { labIo 0 1 with waves := (labIo 0 1).waves.map (fun w => { w with opSeq := 1 }), loads := [{ load0 with acquire := true, keys := [] }] } (fun x t => orderHeld t x.c.k x.c.seq)) = true
    ∧ (let s := (labIo 0 1).updCore 0 (fun c => { c with locks := List.replicate 64 { index := 0, ctx := 0, space := 0, team := (1, 0), lo := 0, hi := 0, write := true, opcode := 0, owner := 99 } })
      iordMeets s (fun x t => !(beginAll x.c (.fifo 0 5) [(0, t.mem.readNat 0x4000 64)] t).1.isEmpty)) = true := by decide +kernel

/-- An element of a load from a peer. -/
def peerElem (r : Option (List Byte)) : LElem :=
  { lane := 0, va := 0x4000, size := 4, target := .peer 3 0x4000, lease := 7, dst := 2, done := false, value := 0, flit := some 9, reply := r }

/-- A peer's answer awaited and come; a store of a terminated team whose check fails; a store of a peer on its way; a region shared and not. -/
theorem witness_AccessEvents_2 :
    ([none, some [1, 2, 3, 4]].map (fun r => answerMay lab { load0 with elems := [peerElem r] } (peerElem r)) == [false, true]) = true
    ∧ (let s := { lab with teams := [{ team0 with terminated := true }] }
      (s.anyWave? key0).any (fun w => (placeAll s (whoOf s w) .store 0 [{ lane := 0, va := 0x4000, size := 4 }]).1.all (fun p => match p.2 with | .fault _ => true | _ => false))
        && ((s.team? 1 0).map (·.terminated)).getD false) = true
    ∧ (let o := { store0 .store true .sent with w := ⟨512, 0, 0⟩ }
      o.elems.all (fun e => arriveMay { labMem with mops := [o] } o 0 e (.dev 0x4000) && flitMay labMem o e (.dev 0x4000))) = true
    ∧ (sharedAny (labMem.updPart 0 (fun p => { p with rgn := [(3, BitVec.ofNat 128 (2 ^ 64 + 2 ^ 67 + 50))] })) (.dev 0) == some (0, 3) && (sharedAny labMem (.dev 0)).isNone) = true := by decide +kernel

/-- A request for a home on rank 0, with the flit that carries it. -/
def remoteShip (n : Option (BitVec 32)) : ShipOp := { ship0 none none with reqs := (ship0 none none).reqs.map (fun r => { r with rank := 0, flit := n }) }

/-- A request for a reachable peer before and after its flit has gone; a section run for a peer, with its result. -/
theorem witness_SectionEvents_2 :
    ([none, some 7].map (fun n => let s := { labLink link0 with ships := [remoteShip n] }
      s.reachable 0 && (remoteShip n).reqs.all (fun r => mayArrive s (remoteShip n) r && !r.arrived && r.rank != s.fabric.rank && s.flitGone 0 0 r.flit)) == [false, true]
      && !({ labLink link0 with ships := [remoteShip none] } : State).flitGone 0 0 none) = true
    ∧ (let o : ShipOp := { ship0 (some (0, [9])) none with sender := some 77, reqs := (ship0 (some (0, [9])) none).reqs.map (fun r => { r with flit := some 3 }) }
      o.tokens.isNone && o.sender.isSome && o.reqs.all (fun r => r.result.isSome)) = true := by decide +kernel

/-- A held queue of the I/O unit, and a buffer in a secure region. -/
theorem witness_IoEvents_2 :
    (let s := secured (withIo [] [io0 5 none]) 0x9000
    match reach s (ioWho s (io0 5 none)) .store 0 [0x9000] with | (.secure, _) => true | _ => false) = true
    ∧ (stillAbsent labMem (io0 0 none) (2 ^ 30) && decide (ioRetries labMem (io0 0 none) ≤ 0)) = true := by decide +kernel

/-- A host port that answers and one that does not; a completion object's line free and not; a pair that needs its layout, and the pairs that are prepared. -/
theorem witness_SubmissionAndAdmission_3 :
    ((portsOf labHost 0).contains 0 && labHost.lease.active == 0 && portAnswers labHost 0 && portAnswers labHost 1 && !portAnswers lab 0) = true
    ∧ (doneReady labMem 0 (.dev 0x4000) && !doneReady { labMem with mops := [store0 .store true (.arrived 0 0)] } 0 (.dev 0x4000)) = true
    ∧ (let s := { (labGrid kernel1 { launch0 with nx := 2 }).updGrid 1 0 (fun g => { g with started := true, nextTeam := 1 }) with teams := [] }.updPart 0 (fun p => { p with lq := [] })
      let s2 := s.updCore 0 (fun c => { c with lastCtx := some 5 })
      [s, s2].map (fun s => (nextCand s 0 == some (.more 1), layoutPending s 0, needLayout s 0 0 (s.ctxDesc 0 0), prepared s 1 ((partPairs s 0).filter (fitsOn s 0 (.more 1)))))
        == [(true, false, false, [0]), (true, false, true, [0])]) = true := by decide +kernel

/-- Of `SubmissionAndAdmission` and of `YieldEvents`. -/
theorem witness_SubmissionAndAdmission_4 :
    (let s := { (labGrid kernel1 { launch0 with flags := 1, lo := 0, hi := 8, chunk := 1 }).updGrid 1 0 (fun g => { g with started := true, nextTeam := 1, offered := [(4, 8)] }) with teams := [] }.updPart 0 (fun p => { p with lq := [] })
    s.grids.all (fun g => prepared s 1 ((partPairs s 0).filter (splitFits s 0 g)) == [0] && rangeWork s g == some (4, 8, none) && !needLayout s 0 0 (s.ctxDesc 0 0))) = true
    ∧ (let s := labSaved 1; prepared s 1 ((partPairs s 0).filter (fitsOn s 0 (.back 1 0))) == [0]) = true := by decide +kernel

/-- A trap-queue entry whose line has a store under way. -/
theorem witness_WaveCommands_2 :
    (let s := { labMem.updCore 0 (fun x => { x with tqWait := [entry0], tqBase := 0x4000 }) with mops := [store0 .store true (.arrived 0 0)] }
    (s.core 0).tqWait == [entry0] && !s.lineFree ((s.core 0).tqBase.toNat + 64 * ((s.core 0).tqTail.toNat % ringCapacity (s.core 0).tqCfg))) = true := by decide +kernel

/-- Bring-up in state 4, with the supervisor of core 0 at the instruction `w` and some of its registers set. -/
def labBoot (w : Nat) (x : List (Nat × Nat)) : State :=
  { lab.updCore 0 (fun c => { c with sup := { c.sup with pc := 0x8000, x := x.map (fun p => (p.1, BitVec.ofNat 64 p.2)) } }) with
    root := { lab.root with boot := 4 }, mem := Memory.writeNat [] 0x8000 4 w
    parts := lab.parts.set 0 { lab.part 0 with mwin := [(0, BitVec.ofNat 128 (2 ^ 46))] } }

/-- A supervisor core at an instruction; a secure region against a core of the normal world; a bank that changes, and its window. -/
theorem witness_RegisterEvents_2 :
    (let s := labBoot (rvEncI 5 1 0 2 0x13) [(1, 7)]
    let u := (s.core 0).sup
    (rvIrq u).isNone && !u.waiting && u.priv == 3 && SMap.wf 0 u.csrs && (match regPlace u.pc.toNat with | .memory b => b == 0x8000 | _ => false)
      && (match rvHalf s 0 u u.pc with | (.ok n, t) => n == rvEncI 5 1 0 2 0x13 % 2 ^ 16 && decide (t = s) | _ => false)
      && (match rvHalf s 0 u (u.pc + 2) with | (.ok n, t) => n == rvEncI 5 1 0 2 0x13 / 2 ^ 16 && decide (t = s) | _ => false)) = true
    ∧ (sideShut (secured lab 0x1000) (some 0) 0x1000 8 && !sideShut (secured lab 0x1000) (some 0) 0x2000 8) = true
    ∧ (bankBusy (lab.updCore 0 (fun c => { c with changes := [{ bank := 5, mode := 1, taken := 0, ready := 512 }] })) (.rawComb 0 (5 * 0x8000))
      && (match regPlace (0xFE00000000 + 5 * 0x8000) with | .combwin k o => k == 0 && o == 5 * 0x8000 | _ => false)) = true
    ∧ (!portAnswers lab 0) = true := by decide +kernel

/-- A region of host memory without CXL.cache; an access to a secure region. -/
theorem witness_HostPortEvents_2 :
    (!(regionEntry labHost 0 1).getLsbD 67 && !(regionEntry labHost 0 1).getLsbD 66 && !(lab.port (msixPort lab 0)).cxlCache) = true
    ∧ (hostRefused (secured labHost 0x4000) 1 0 0x4000 8 && !hostRefused (secured labHost 0x4000) 1 0 0x8000 8 && functionPart labHost.root.mode 1 0 == some 0
      && portAnswers labHost 1) = true := by decide +kernel

/-- A link that discards behind a gap; the IC at the marker and at its end; the port toward another rank. -/
theorem witness_FabricEvents_2 :
    (let s := labLink { link0 with discarding := true }; (s.link 14).discarding && (flit0 1 7).lseq != (s.link 14).rxSeq) = true
    ∧ ([markerIc, 2 ^ 48 - 1].map (fun n => let s := labLink { link0 with tx0 := { link0.tx0 with ic := n } }; (((s.link 14).tx false).ic == markerIc, canSend s 14 true)) == [(true, true), (false, true)]) = true
    ∧ (routePort (labLink link0) 0 == some 14 && (routePort (labLink link0) 1).isNone) = true := by decide +kernel

/-- A step that lets a supervisor core run. -/
theorem witness_StepRunsTheDecodedInstruction_2 :
    (let s := { labBoot 0x73 [] with agenda := [⟨3, .supervise 0⟩] }
    s.agenda == [⟨3, .supervise 0⟩] && (dueEvent { s.advance 3 with agenda := [⟨0, .supervise 0⟩] }).isNone) = true := by decide +kernel

/-! ## Single instructions, with the results that the spec works out -/

/-- The wave with its lanes below `n` active. -/
def lanesTo (n : Nat) (w : Wave) : Wave :=
  { w with quads := w.quads.zipIdx.map (fun p => { p.1 with mask := BitVec.ofNat 4 (2 ^ min 4 (n - 4 * p.2) - 1) }) }

/-- A register file in which register `r` of lanes 0, 1, … holds the values of the list. -/
def regsOf (l : List (Nat × List Word)) : SMap Word :=
  (l.flatMap (fun p => p.2.zipIdx.map (fun x => (p.1, x.2, x.1)))).foldl (fun m x => SMap.set 0#32 m (vkey x.1 x.2.1) x.2.2) []

/-- The wave after an instruction. -/
def ran (w : Wave) (x : InstrWord) (p : Wave → Bool) : Bool :=
  match decodeWord x with
  | .ok i => (match exec i { lab with waves := [w] } with | .next t => (t.wave? key0).any p | _ => false)
  | .error _ => false

/-- What a register holds once the results on their way are written. -/
def arrives (v : Wave) (f : RegFile) (n lane : Nat) : Word :=
  match (v.pend.map (·.writes)).flatten.find? (fun x => x.file == f && x.n == n && x.lane == lane) with
  | some x => x.x
  | none => match f with | .vec => v.rdV n lane | .sca => v.rdS n | .pred => if v.rdP n lane then 1 else 0

/-- 06, after R181: `CVT.sf8p.f32.rne.amax1 v12, v4, s7` of 3.0, −100.0, 0.3 and a quiet NaN with the scale 0.5: NX and AN, and a1 takes in 100.0. -/
theorem test_cvt :
    ran { lanesTo 4 wave0 with vregs := regsOf [(4, [0x40400000, 0xC2C80000, 0x3E99999A, 0x7FC00000])], sregs := [(7, 0x3F000000)] }
      0x49200030_10000014_1C028041 (fun v => (List.range 4).map (arrives v .vec 12) == [0x54, 0xFC, 0x3A, 0x80]
        && SMap.get 0#32 v.retireAll.amax 1 == 0x42C80000 && v.retireAll.fstat == 0x30) = true := by
  decide +kernel

/-- The 16 values of the compaction in 05, after R167. -/
def compact : Wave := { lanesTo 16 wave0 with vregs := regsOf [(1, [5, 0, 7, 0, 0, 3, 0, 0, 9, 0, 0, 0, 2, 0, 0, 4]),
  (2, [1, 0, 1, 0, 0, 1, 0, 0, 1, 0, 0, 0, 1, 0, 0, 1])] }

/-- There: `ICMP.n32.ne p1, v1, v0` sets p1 in lanes 0, 2, 5, 8, 12 and 15. -/
theorem test_icmp : ran compact (wordA 0x04A 1 0x0100 0 0 0x12001) (fun v => (List.range 32).filter (fun l => arrives v .pred 1 l == 1) == [0, 2, 5, 8, 12, 15])
    = true := by decide +kernel

/-- There: `ISCAN.n32.add.ex v3, v2`. -/
theorem test_iscan : ran compact (wordA 0x05B 3 0x0200 0 0 0x12010)
    (fun v => (List.range 16).map (arrives v .vec 3) == [0, 1, 1, 2, 2, 2, 3, 3, 3, 4, 4, 4, 4, 5, 5, 5]) = true := by decide +kernel

/-- There: `IRED.n32.add s4, v2` writes 6. -/
theorem test_ired : ran compact (wordA 0x05A 4 0x0200 0 0 0x12020) (fun v => arrives v .sca 4 0 == 6) = true := by decide +kernel

/-- There: `VOTE.ballot s6, p1` writes 0x9125. -/
theorem test_vote : ran { compact with preds := ([0, 2, 5, 8, 12, 15].foldl (fun m l => SMap.set false m (vkey 1 l) true) []) }
    (wordA 0x057 6 0x0100 0 0 0x00023) (fun v => arrives v .sca 6 0 == 0x9125) = true := by decide +kernel

/-- R155: the edge cases of IDIV.i32: −7 ÷ 2, 7 ÷ 0, −7 ÷ 0, −2^31 ÷ −1. -/
theorem test_idiv : ran { lanesTo 4 wave0 with vregs := regsOf [(1, [0xFFFFFFF9, 7, 0xFFFFFFF9, 0x80000000]), (2, [2, 0, 0, 0xFFFFFFFF])] }
    (wordA 0x038 3 0x0100 0x0200 0 0x10000) (fun v => (List.range 4).map (arrives v .vec 3) == [0xFFFFFFFD, 0x7FFFFFFF, 0x80000000, 0x80000000])
    = true := by decide +kernel

/-- R155: IREM.i32 on the same values. -/
theorem test_irem : ran { lanesTo 4 wave0 with vregs := regsOf [(1, [0xFFFFFFF9, 7, 0xFFFFFFF9, 0x80000000]), (2, [2, 0, 0, 0xFFFFFFFF])] }
    (wordA 0x039 3 0x0100 0x0200 0 0x10000) (fun v => (List.range 4).map (arrives v .vec 3) == [0xFFFFFFFF, 7, 0xFFFFFFF9, 0]) = true := by
  decide +kernel

/-- R156: SAR by 32 or more fills with the sign. -/
theorem test_sar : ran { lanesTo 2 wave0 with vregs := regsOf [(1, [0x80000000, 0x7FFFFFFF]), (2, [32, 99])] }
    (wordA 0x043 3 0x0100 0x0200 0 0x12000) (fun v => (List.range 2).map (arrives v .vec 3) == [0xFFFFFFFF, 0]) = true := by decide +kernel

/-- R157: FSHL by 32 gives b. -/
theorem test_fshl : ran { lanesTo 2 wave0 with vregs := regsOf [(1, [0x12345678, 0x12345678]), (2, [0x9ABCDEF0, 0x9ABCDEF0]), (4, [32, 8])] }
    (wordA 0x044 3 0x0100 0x0200 0x0400 0x12000) (fun v => (List.range 2).map (arrives v .vec 3) == [0x9ABCDEF0, 0x3456789A]) = true := by
  decide +kernel

/-- The matrices of 06, "Factoring and solving in two lanes", row by row. -/
def twoLanes : Wave :=
  { lanesTo 2 wave0 with vregs := regsOf [(40, [0x40800000, 0x3F800000]), (41, [0x40000000, 0x40000000]), (42, [0x40000000, 0]),
      (43, [0x40000000, 0x40000000]), (44, [0x40A00000, 0x40800000]), (45, [0x40400000, 0]), (46, [0x40000000, 0]), (47, [0x40400000, 0]),
      (48, [0x40C00000, 0x3F800000])] }

/-- There: `MXCHOL.f32.m3.rne v50, v40, p5, s10` of lane 0, whose factor has the rows (2), (1, 2), (1, 1, 2), and of lane 1, whose second pivot is 0. -/
theorem test_mxchol : ran twoLanes (wordA 0x0D6 50 0x2800 0x0500 0x0A00 0b00001_0000_001_011_000) (fun v =>
    (List.range 9).map (fun i => arrives v .vec (50 + i) 0) == [0x40000000, 0, 0, 0x3F800000, 0x40000000, 0, 0x3F800000, 0x3F800000, 0x40000000]
      && (List.range 9).map (fun i => arrives v .vec (50 + i) 1) == [0x3F800000, 0, 0, 0x40000000, 0, 0, 0, 0x7FC00000, 0x7FC00000]
      && arrives v .pred 5 0 == 0 && arrives v .pred 5 1 == 1) = true := by
  decide +kernel

/-- There: `MXSOLV.f32.m3.chol v64, v50, v60` in lane 0, whose solution is (1, 1, 1). -/
theorem test_mxsolv : ran { lanesTo 1 wave0 with vregs := regsOf [(50, [0x40000000]), (53, [0x3F800000]), (54, [0x40000000]), (56, [0x3F800000]),
      (57, [0x3F800000]), (58, [0x40000000]), (60, [0x41000000]), (61, [0x41200000]), (62, [0x41300000])] }
    (wordA 0x0D8 64 0x3200 0x3C00 0 0b00001_0000_000_011_000)
    (fun v => (List.range 3).map (fun i => arrives v .vec (64 + i) 0) == [0x3F800000, 0x3F800000, 0x3F800000] && v.pend.all (·.flags == 0)) = true := by
  decide +kernel

/-- The family's ADDI and ECALL on a supervisor core: x2 = x1 + 5; a trap into machine mode with cause 11, from mode 3, at mtvec 0. -/
theorem test_supervise : (let s := superviseStep 0 (labBoot 0x00508113 [(1, 7)])
      rvX (s.core 0).sup 2 == 12 && (s.core 0).sup.pc == 0x8004) = true
    ∧ (let s := superviseStep 0 (labBoot 0x73 [])
      rvC (s.core 0).sup 0x342 == 11 && rvC (s.core 0).sup 0x341 == 0x8000 && (s.core 0).sup.pc == 0) = true := by decide +kernel

/-- The family's SD x1, 0(x2) and C.LI x10, 1. -/
theorem test_supervise_store : (let s := superviseStep 0 (labBoot 0x00113023 [(1, 0x1122334455667788), (2, 0x9000)])
      s.mem.readNat 0x9000 8 == 0x1122334455667788) = true
    ∧ (let s := superviseStep 0 (labBoot 0x4505 []); rvX (s.core 0).sup 10 == 1 && (s.core 0).sup.pc == 0x8002) = true := by decide +kernel

end Sys2Proof.Tests
end

section
/-! SUPPORT. Integers of the arithmetic instructions: how the model reads, wraps and clamps them (03 R71, R72, 05 R129). -/

namespace Sys2Proof.Machine

theorem codeWidth_pos (c : Nat) : 0 < codeWidth c := by
  unfold codeWidth
  split <;> decide

theorem two_pow_codeWidth (c : Nat) : 2 ^ codeWidth c = 2 * 2 ^ (codeWidth c - 1) :=
  (mul_pow_sub_one (codeWidth_pos c).ne' 2).symm

theorem cast_wrapBits (w : Nat) (x : Int) : (wrapBits w x : Int) = x % 2 ^ w :=
  Int.toNat_of_nonneg (Int.emod_nonneg _ (by positivity))

theorem wrapBits_eq_toNat_ofInt (w : Nat) (x : Int) : wrapBits w x = (BitVec.ofInt w x).toNat := by
  simp [wrapBits, BitVec.toNat_ofInt]

theorem sext_toNat {w : Nat} (v : BitVec w) : sext w v.toNat = v.toInt := by
  cases w with
  | zero => simp [sext, BitVec.eq_nil v]
  | succ w =>
    rw [sext, BitVec.toInt_eq_toNat_cond, Nat.mod_eq_of_lt v.isLt, Nat.add_sub_cancel, pow_succ']
    split
    · rw [if_neg (by omega)]
    · rw [if_pos (by omega)]

theorem intMin_of_ne {c : Nat} (hc : c % 16 ≠ 15) : intMin c = if isSignedCode c then -(2 ^ (codeWidth c - 1)) else 0 := by
  simp [intMin, hc]

theorem intMax_of_ne {c : Nat} (hc : c % 16 ≠ 15) :
    intMax c = if isSignedCode c then 2 ^ (codeWidth c - 1) - 1 else 2 ^ codeWidth c - 1 := by
  simp [intMax, hc]

/-- An integer code has as many values as its element has encodings (R71). -/
theorem intMax_sub_intMin {c : Nat} (hc : c % 16 ≠ 15) : intMax c - intMin c = 2 ^ codeWidth c - 1 := by
  have hw : (2 : Int) ^ codeWidth c = 2 * 2 ^ (codeWidth c - 1) := mod_cast two_pow_codeWidth c
  rw [intMin_of_ne hc, intMax_of_ne hc]
  split <;> omega

theorem decodeInt_emod (c x : Nat) : decodeInt c x % 2 ^ codeWidth c = x % 2 ^ codeWidth c := by
  simp only [decodeInt]
  split <;> simp

theorem decodeInt_mem {c : Nat} (hc : c % 16 ≠ 15) (x : Nat) : intMin c ≤ decodeInt c x ∧ decodeInt c x ≤ intMax c := by
  have hw := two_pow_codeWidth c
  have hx : x % 2 ^ codeWidth c < 2 ^ codeWidth c := Nat.mod_lt _ (by positivity)
  simp only [intMin_of_ne hc, intMax_of_ne hc, decodeInt]
  zify at hw hx ⊢
  cases isSignedCode c with
  | false => simp only [Bool.false_and, Bool.false_eq_true, if_false]; omega
  | true =>
    simp only [Bool.true_and, decide_eq_true_eq, if_true]
    split <;> omega

theorem clampInt_eq_max_min {c : Nat} (hc : c % 16 ≠ 15) (x : Int) : clampInt c x = max (intMin c) (min (intMax c) x) := by
  have hr := intMax_sub_intMin hc
  have hp : (0 : Int) < 2 ^ codeWidth c := by positivity
  unfold clampInt
  split
  · omega
  · split <;> omega

theorem decodeInt_reduceInt_emod (c : Nat) (sat : Bool) (x : Int) :
    decodeInt c (reduceInt c sat x) % 2 ^ codeWidth c = (if sat then clampInt c x else x) % 2 ^ codeWidth c := by
  rw [decodeInt_emod, reduceInt, cast_wrapBits, Int.emod_emod]

/-- No two values of a code differ by a multiple of 2^w, so a representable value is read back from its low bits. -/
theorem eq_of_emod_eq_of_mem {c : Nat} (hc : c % 16 ≠ 15) {x y : Int} (h : x % 2 ^ codeWidth c = y % 2 ^ codeWidth c)
    (hx : intMin c ≤ x ∧ x ≤ intMax c) (hy : intMin c ≤ y ∧ y ≤ intMax c) : x = y := by
  have hr := intMax_sub_intMin hc
  have hd : (2 : Int) ^ codeWidth c ∣ x - y := Int.dvd_of_emod_eq_zero (Int.emod_eq_emod_iff_emod_sub_eq_zero.1 h)
  have := Int.eq_zero_of_abs_lt_dvd hd (abs_lt.2 ⟨by omega, by omega⟩)
  omega

theorem decodeInt_reduceInt_sat {c : Nat} (hc : c % 16 ≠ 15) (x : Int) :
    decodeInt c (reduceInt c true x) = max (intMin c) (min (intMax c) x) := by
  have hm := decodeInt_mem hc (reduceInt c true x)
  rw [← clampInt_eq_max_min hc]
  refine eq_of_emod_eq_of_mem hc (decodeInt_reduceInt_emod c true x) hm ?_
  rw [clampInt_eq_max_min hc]
  omega

end Sys2Proof.Machine
end

section
/-! SUPPORT. The shared bodies of the integer and logic instructions: what each leaves of an instruction that passes its issue (05 R129,
R154, R156, R160). -/

namespace Sys2Proof.Machine

variable {h : Hdr} {f : FmtA} {sig : Ctx → Sig} {s : State} {x : Issued}

theorem issue_intBody {op : Nat → Int → Int → Int → Int} (hx : issuedAs h always sig s = some x) :
    issue h always sig (intBody h f op) s = .next (x.after (x.each h f.m (isWide f.m.ty.toNat) (fun l =>
      extendElem f.m.ty.toNat (reduceInt f.m.ty.toNat f.m.sat
        (op f.m.ty.toNat (x.int f 0 l) (x.int f 1 l) (x.int f 2 l)))))) :=
  issue_of_issuedAs hx

/-- Equal results in every lane are equal ends of the issue. -/
theorem next_after_each {wide : Bool} {r v : Nat → Nat} (hrv : ∀ l, r l = v l) :
    Host.Outcome.next (x.after (x.each h f.m wide r)) = (.next (x.after (x.each h f.m wide v)) : Host.Outcome State Fault Refusal) := by
  rw [funext hrv]

theorem issue_logicBody {op : Nat → Nat → Nat → Nat} {v : Nat → Nat} (hx : issuedAs h always sig s = some x)
    (hop : ∀ l, op (x.word f 0 l) (x.word f 1 l) (x.word f 2 l) = v l) :
    issue h always sig (logicBody h f op) s = .next (x.after (x.each h f.m false v)) :=
  (issue_of_issuedAs hx).trans (next_after_each hop)

theorem issue_pairBody {op : Nat → Nat → Nat} {v : Nat → Nat} (hx : issuedAs h always sig s = some x)
    (hop : ∀ l, op (x.pairA f l) (x.word f 1 l) = v l) :
    issue h always sig (pairBody h f op) s = .next (x.after (x.each h f.m true v)) :=
  (issue_of_issuedAs hx).trans (next_after_each hop)

theorem Issued.word_lt (x : Issued) (f : FmtA) (n l : Nat) : x.word f n l < 2 ^ 32 := by
  unfold Issued.word
  split <;> exact BitVec.isLt _

theorem Issued.pairA_lt (x : Issued) (f : FmtA) (l : Nat) : x.pairA f l < 2 ^ 64 := by
  have hlo := (x.c.regAt 0 f.m.sa f.sa 0 l).isLt
  have hhi := (x.c.regAt 0 f.m.sa f.sa 1 l).isLt
  simp only [Issued.pairA, Ctx.src, if_true]
  omega

theorem Issued.toNat_ofNat_word (x : Issued) (f : FmtA) (n l : Nat) :
    (BitVec.ofNat 32 (x.word f n l)).toNat = x.word f n l := by
  rw [BitVec.toNat_ofNat, Nat.mod_eq_of_lt (x.word_lt f n l)]

theorem Issued.toNat_ofNat_pairA (x : Issued) (f : FmtA) (l : Nat) :
    (BitVec.ofNat 64 (x.pairA f l)).toNat = x.pairA f l := by
  rw [BitVec.toNat_ofNat, Nat.mod_eq_of_lt (x.pairA_lt f l)]

/-- A logic instruction leaves `v` of its sources as words when its operation is `v` on words. -/
theorem issue_logicBody_word {op : Nat → Nat → Nat → Nat} (v : Word → Word → Word → Nat)
    (hx : issuedAs h always sig s = some x) (hop : ∀ a b c : Word, op a.toNat b.toNat c.toNat = v a b c) :
    issue h always sig (logicBody h f op) s = .next (x.after (x.each h f.m false (fun l =>
      v (BitVec.ofNat 32 (x.word f 0 l)) (BitVec.ofNat 32 (x.word f 1 l)) (BitVec.ofNat 32 (x.word f 2 l))))) :=
  issue_logicBody hx (fun l => by simp only [← hop, Issued.toNat_ofNat_word])

end Sys2Proof.Machine
end

section
/-! SUPPORT. The operations of logic, shifts, bit counts and bit-fields as operations of words (05 R156, R157, R160, R161). -/

namespace Sys2Proof.Machine

/-! ## Shifts, the count at the width and beyond included -/

theorem mul_two_pow_mod_of_le {n w : Nat} (hn : w ≤ n) (a : Nat) : a * 2 ^ n % 2 ^ w = 0 :=
  Nat.mod_eq_zero_of_dvd ((pow_dvd_pow 2 hn).mul_left a)

theorem div_two_pow_of_le {a n w : Nat} (ha : a < 2 ^ w) (hn : w ≤ n) : a / 2 ^ n = 0 :=
  Nat.div_eq_of_lt (ha.trans_le (Nat.pow_le_pow_right (by decide) hn))

theorem mul_two_pow_min_mod (a n w : Nat) : a * 2 ^ min n w % 2 ^ w = if n < w then a * 2 ^ n % 2 ^ w else 0 := by
  split
  · rw [min_eq_left (by omega)]
  · rw [min_eq_right (by omega), mul_two_pow_mod_of_le le_rfl]

theorem div_two_pow_min {a w : Nat} (ha : a < 2 ^ w) (n : Nat) : a / 2 ^ min n w = if n < w then a / 2 ^ n else 0 := by
  split
  · rw [min_eq_left (by omega)]
  · rw [min_eq_right (by omega), div_two_pow_of_le ha le_rfl]

variable {w : Nat}

theorem toNat_shiftLeft_eq (a : BitVec w) (n : Nat) : a.toNat * 2 ^ min n w % 2 ^ w = (a <<< n).toNat := by
  rw [mul_two_pow_min_mod, BitVec.toNat_shiftLeft, Nat.shiftLeft_eq]
  split
  · rfl
  · exact (mul_two_pow_mod_of_le (by omega) _).symm

theorem toNat_ushiftRight_eq (a : BitVec w) (n : Nat) : a.toNat / 2 ^ min n w = (a >>> n).toNat := by
  rw [div_two_pow_min a.isLt, BitVec.toNat_ushiftRight, Nat.shiftRight_eq_div_pow]
  split
  · rfl
  · exact (div_two_pow_of_le a.isLt (by omega)).symm

theorem sshiftRight_min_width (a : BitVec w) (n : Nat) : a.sshiftRight (min n w) = a.sshiftRight n := by
  rcases le_total n w with hn | hn
  · rw [min_eq_left hn]
  · rw [min_eq_right hn]
    ext i hi
    simp only [← BitVec.getLsbD_eq_getElem, BitVec.getLsbD_sshiftRight]
    rw [if_neg (by omega), if_neg (by omega)]

theorem toNat_sshiftRight_eq (a : BitVec w) (n : Nat) :
    wrapBits w (sext w a.toNat / 2 ^ min n w) = (a.sshiftRight n).toNat := by
  rw [← sshiftRight_min_width a n, BitVec.sshiftRight_eq, wrapBits_eq_toNat_ofInt, sext_toNat, Int.shiftRight_eq_div_pow]
  norm_cast

/-- A funnel shift is the high word of the shifted pair (R157). -/
theorem toNat_funnel_eq (a b : Word) (n : Nat) :
    (a.toNat * 2 ^ 32 + b.toNat) * 2 ^ n % 2 ^ 64 / 2 ^ 32 = (((a ++ b) <<< n).extractLsb' 32 32).toNat := by
  have hab : (a ++ b).toNat = a.toNat * 2 ^ 32 + b.toNat := by
    rw [BitVec.toNat_append, ← Nat.shiftLeft_add_eq_or_of_lt b.isLt, Nat.shiftLeft_eq]
  rw [BitVec.extractLsb'_toNat, BitVec.toNat_shiftLeft, hab, Nat.shiftLeft_eq, Nat.shiftRight_eq_div_pow]
  omega

/-! ## Bit counts and reversal -/

theorem size_eq_log2_add_one {a : Nat} (ha : a ≠ 0) : Nat.size a = Nat.log2 a + 1 :=
  le_antisymm (Nat.size_le.2 Nat.lt_log2_self) (Nat.lt_size.2 (Nat.log2_self_le ha))

theorem leadingZeros_eq (a : Nat) : leadingZeros a = 32 - Nat.size a := by
  unfold leadingZeros
  split
  · simp [*]
  · rw [size_eq_log2_add_one ‹_›]; omega

theorem bitList_sum (n a : Nat) : (bitList n a).sum = (List.range n).countP (fun i => a.testBit i) := by
  induction n with
  | zero => rfl
  | succ n ih =>
    simp only [bitList, List.range_succ, List.map_append, List.sum_append, List.countP_append] at ih ⊢
    rw [ih, List.map_singleton, List.sum_singleton, List.countP_singleton, ← Nat.toNat_testBit]
    cases a.testBit n <;> rfl

theorem reverseBits_eq (n a : Nat) :
    reverseBits n a = ((List.range n).map (fun i => if a.testBit i then 2 ^ (n - 1 - i) else 0)).sum := by
  induction n with
  | zero => rfl
  | succ n ih =>
    have hdouble : ((List.range n).map (fun i => if a.testBit i then 2 ^ (n + 1 - 1 - i) else 0)).sum
        = 2 * ((List.range n).map (fun i => if a.testBit i then 2 ^ (n - 1 - i) else 0)).sum := by
      rw [← List.sum_map_mul_left]
      refine congrArg List.sum (List.map_congr_left fun i hi => ?_)
      have hi : n + 1 - 1 - i = n - 1 - i + 1 := by have := List.mem_range.1 hi; omega
      rw [hi, pow_succ']
      split <;> rfl
    simp only [reverseBits, bitList, List.range_succ, List.map_append, List.foldl_append, List.sum_append] at ih ⊢
    rw [hdouble, ← ih, List.map_singleton, List.map_singleton, List.sum_singleton, List.foldl_cons, List.foldl_nil,
      ← Nat.toNat_testBit]
    cases a.testBit n <;> simp

/-! ## Bit-fields -/

theorem bfLen_eq (b : Nat) : bfLen b = min (b / 256 % 256) (32 - b % 256) := by
  unfold bfLen bfPos
  split <;> omega

theorem toNat_extractLsb'_eq (a : BitVec w) (p n : Nat) : (a.extractLsb' p n).toNat = a.toNat / 2 ^ p % 2 ^ n := by
  rw [BitVec.extractLsb'_toNat, Nat.shiftRight_eq_div_pow]

theorem wrapBits_sext (m : Nat) (v : BitVec w) : wrapBits m (sext w v.toNat) = (v.signExtend m).toNat := by
  rw [wrapBits_eq_toNat_ofInt, sext_toNat, BitVec.signExtend]

theorem bfExtract_eq (signed : Bool) (a : Word) (b : Nat) :
    bfExtract signed a.toNat b =
      let p := b % 256
      let n := min (b / 256 % 256) (32 - p)
      let v := a.extractLsb' p n
      if n = 0 then 0 else if signed then (v.signExtend 32).toNat else v.toNat := by
  simp only [bfExtract, bfLen_eq, bfPos, ← toNat_extractLsb'_eq, wrapBits_sext]

theorem bfInsert_eq (a b c : Nat) :
    bfInsert a b c =
      let p := c % 256
      let n := min (c / 256 % 256) (32 - p)
      a - a / 2 ^ p % 2 ^ n * 2 ^ p + b % 2 ^ n * 2 ^ p := by
  simp only [bfInsert, bfLen_eq, bfPos]

/-! ## Address arithmetic -/

/-- The sum of an address and a scaled index, in the ring of 64-bit words (R161). -/
theorem wrapBits_add_mul_two_pow (a : Nat) (i : Int) (k : Nat) :
    wrapBits w (a + i * 2 ^ k) = (BitVec.ofNat w a + BitVec.ofInt w i <<< k).toNat := by
  have hpow : BitVec.ofInt w (2 ^ k) = BitVec.twoPow w k := by
    rw [← BitVec.toNat_inj, BitVec.toNat_twoPow, BitVec.toNat_ofInt]
    norm_cast
  rw [wrapBits_eq_toNat_ofInt, BitVec.ofInt_add, BitVec.ofInt_mul, BitVec.ofInt_natCast, hpow,
    BitVec.shiftLeft_eq_mul_twoPow]

theorem ofInt_sext (m : Nat) (b : BitVec w) : BitVec.ofInt m (sext w b.toNat) = b.signExtend m := by
  rw [sext_toNat, BitVec.signExtend]

theorem lea_eq (sx : Bool) (a k : Nat) (b : Word) :
    wrapBits 64 (a + (if sx then sext 32 b.toNat else (b.toNat : Int)) * 2 ^ k)
      = (BitVec.ofNat 64 a + (if sx then b.signExtend 64 else b.zeroExtend 64) <<< k).toNat := by
  rw [wrapBits_add_mul_two_pow]
  cases sx with
  | false => simp only [Bool.false_eq_true, if_false, BitVec.ofInt_natCast, BitVec.ofNat_toNat]
  | true => simp only [if_true, ofInt_sext]

end Sys2Proof.Machine
end

section
/-! The statements of the integer and logic instructions (05 R129, R154-R157, R160, R161). -/

namespace Sys2Proof.Machine

/-- Settles O5: each instruction's body is `intBody`, and a code's values stand for the residues modulo 2^w one to one. -/
theorem integerArithmetic : Obligations.IntegerArithmetic := by
  refine ⟨?_, fun ty hlo hhi v => ?_⟩
  · simp only [List.forall_mem_cons, List.not_mem_nil, false_implies, implies_true, and_true]
    refine ⟨?iadd, ?isub, ?imul, ?imulh, ?imad, ?imin, ?imax, ?iabs, ?idiv, ?irem, ?iadd64, ?isub64, ?imul64, ?imad64⟩
    case iabs =>
      intro h f s x hx
      simp only [← Int.natCast_natAbs]
      exact issue_intBody hx
    all_goals exact fun h f s x hx => issue_intBody hx
  · have hc : ty % 16 ≠ 15 := by omega
    obtain ⟨hge, hle⟩ := decodeInt_mem hc (reduceInt ty false v)
    exact ⟨Int.emod_eq_emod_iff_emod_sub_eq_zero.1 (decodeInt_reduceInt_emod ty false v), hge, hle, decodeInt_reduceInt_sat hc v⟩

/-- Settles O6: each instruction's body is `logicBody` or `pairBody`, and its operation is the named one on words. -/
theorem logicAndShifts : Obligations.LogicAndShifts := by
  refine ⟨?logic, fun h f s x hx => ?bfe, fun h f s x hx => ?bfi, ?pair, fun h f s x hx => ?lea⟩
  case logic =>
    simp only [List.forall_mem_cons, List.not_mem_nil, false_implies, implies_true, and_true]
    refine ⟨?and, ?or, ?xor, ?not, ?shl, ?shr, ?sar, ?fshl, ?clz, ?popc, ?brev⟩ <;> intro h f s x hx
    case and => exact issue_logicBody_word (fun a b _ => (a &&& b).toNat) hx (fun a b _ => (BitVec.toNat_and a b).symm)
    case or => exact issue_logicBody_word (fun a b _ => (a ||| b).toNat) hx (fun a b _ => (BitVec.toNat_or a b).symm)
    case xor => exact issue_logicBody_word (fun a b _ => (a ^^^ b).toNat) hx (fun a b _ => (BitVec.toNat_xor a b).symm)
    case not => exact issue_logicBody_word (fun a _ _ => (~~~a).toNat) hx (fun _ _ _ => BitVec.toNat_not.symm)
    case shl => exact issue_logicBody_word (fun a b _ => (a <<< b.toNat).toNat) hx (fun a b _ => toNat_shiftLeft_eq a b.toNat)
    case shr => exact issue_logicBody_word (fun a b _ => (a >>> b.toNat).toNat) hx (fun a b _ => toNat_ushiftRight_eq a b.toNat)
    case sar =>
      exact issue_logicBody_word (fun a b _ => (a.sshiftRight b.toNat).toNat) hx (fun a b _ => toNat_sshiftRight_eq a b.toNat)
    case fshl =>
      exact issue_logicBody_word (fun a b c => (((a ++ b) <<< min c.toNat 32).extractLsb' 32 32).toNat) hx
        (fun a b c => toNat_funnel_eq a b (min c.toNat 32))
    case clz => exact issue_logicBody_word (fun a _ _ => 32 - Nat.size a.toNat) hx (fun a _ _ => leadingZeros_eq a.toNat)
    case popc =>
      exact issue_logicBody_word (fun a _ _ => (List.range 32).countP (fun i => a.getLsbD i)) hx
        (fun a _ _ => bitList_sum 32 a.toNat)
    case brev =>
      exact issue_logicBody_word (fun a _ _ => ((List.range 32).map (fun i => if a.getLsbD i then 2 ^ (31 - i) else 0)).sum) hx
        (fun a _ _ => reverseBits_eq 32 a.toNat)
  case bfe =>
    refine issue_logicBody hx (fun l => ?_)
    have hb := bfExtract_eq (f.m.sub == 1) (BitVec.ofNat 32 (x.word f 0 l)) (x.word f 1 l)
    simpa only [Issued.toNat_ofNat_word, beq_iff_eq] using hb
  case bfi => exact issue_logicBody hx (fun l => by simp only [bfLen_eq, bfInsert_eq])
  case pair =>
    simp only [List.forall_mem_cons, List.not_mem_nil, false_implies, implies_true, and_true]
    refine ⟨?shl64, ?shr64, ?sar64⟩ <;> intro h f s x hx <;> refine issue_pairBody hx (fun l => ?_)
    case shl64 => exact mul_two_pow_min_mod _ _ 64
    case shr64 => exact div_two_pow_min (x.pairA_lt f l) _
    case sar64 =>
      simpa only [Issued.toNat_ofNat_pairA] using toNat_sshiftRight_eq (BitVec.ofNat 64 (x.pairA f l)) (x.word f 1 l)
  case lea =>
    refine issue_pairBody hx (fun l => ?_)
    have hsx : f.m.sub.getLsbD 3 = decide (f.m.sub.toNat / 8 % 2 = 1) := Nat.testBit_eq_decide_div_mod_eq
    have hl := lea_eq (f.m.sub.getLsbD 3) (x.pairA f l) (f.m.sub.toNat % 8) (BitVec.ofNat 32 (x.word f 1 l))
    simpa only [Issued.toNat_ofNat_word, hsx, decide_eq_true_eq] using hl

end Sys2Proof.Machine
end
